-- ==== Sys2Proof/Word.lean ====
section
/-! DEFINITION. The word types of the Butrix Lanzor (R4, R35, R37, R46): bytes, 32- and 64-bit register
values, 128-bit packets, operand slots, and their plainest views as signed and unsigned integers (R66). -/

namespace Sys2Proof

/-- One byte of memory (R4). -/
abbrev Byte := BitVec 8
/-- A byte string, lowest address first (R4). -/
abbrev Bytes := List (BitVec 8)
/-- A general register, or a 4-byte word of memory (R33). -/
abbrev W32 := BitVec 32
/-- A 64-bit operand held in a slot pair (R35). -/
abbrev W64 := BitVec 64
/-- A spectral packet of four FP32 samples (R37). -/
abbrev W128 := BitVec 128
/-- A raw 7-bit operand field of an instruction word (R47, R49). -/
abbrev Slot := BitVec 7

/-- Wrap32 of R66: an exact integer modulo 2^32, as a bit pattern. -/
def wrap32 (x : Int) : W32 := BitVec.ofInt 32 x
/-- Wrap64 of R66. -/
def wrap64 (x : Int) : W64 := BitVec.ofInt 64 x
/-- A truth value as the 0 or 1 a compare writes (R69). -/
def boolWord (b : Bool) : W32 := if b then 1 else 0

end Sys2Proof
end

