-- ==== Sys2Proof/Config.lean ====
section
/-! DEFINITION. What the specification leaves open: free values, which nothing in Lean can evaluate,
and the secrets of one physical device. Every use is named in the assumption log. -/

namespace Sys2Proof

/-- A free natural number for each value of the state's free counter: the choice among steps that may come next, the
clocks that pass in a step, latencies and orders the manual bounds but does not fix (log entry 7). -/
opaque Config.freeNat : Nat → Nat
/-- A free truth value: old or new translation (R201), old or new value of an entry (R44). -/
opaque Config.freeBool : Nat → Bool
/-- A free word: a value the manual does not state (log entry 7). -/
opaque Config.freeWord : Nat → BitVec 64
/-- A sample of an upsampling table whose polynomial takes an infinite wavelength times zero, or infinities of both signs,
from the coefficients and the wavelength: the manual states no result (R192; log entry 7). -/
opaque Config.upsampleCorner : W32 → W32 → W32 → W32 → W32
/-- The signature of the device identity key over a report (R413). -/
opaque Config.identitySign : Bytes → Bytes
/-- Whether a member of a job belongs to a replica group: the manual names no register that tells a device (R398). -/
opaque Config.replicaMember : Nat → Nat → Bool
/-- How many parts a FLUE message that carries so many count changes is split into besides its last: the manual gives no layout (R382, R393). -/
opaque Config.flueParts : Nat → Nat

end Sys2Proof
end

