-- ==== Sys2Proof/Syntax.lean ====
section
/-! DEFINITION. The instruction set: one constructor of Instr for every row of spec/opcode_table.json. The 245
rows that are instruction words carry their operand fields; the run-end flag E (R46) belongs to the word and not to the
instruction. The 105 rows that are steps of the device's other agents (spec file 95) take what they concern (a unit, a
value, a message) from the step operand EvOp that the state holds. -/

namespace Sys2Proof

/-- Rounding codes of R19; DYN names the RM field of %status. -/
inductive Rm | rne | rtz | rdn | rup | rto | dyn deriving DecidableEq, Repr
/-- The type bit of FADD, FSUB, FMUL and FFMA (R48, layout IR). -/
inductive FType | f32 | fx19 deriving DecidableEq, Repr
/-- The fifteen plain formats of R9. -/
inductive PFmt
  | f32 | fx19 | bf16 | f16 | e5m2 | e4m3 | e3m4 | i8 | n8 | i4 | n4 | h8 | h4 | h2 | bin1
  deriving DecidableEq, Repr
/-- The floating formats CVTI names, codes 1 to 4 (R48, layout IN). -/
inductive FFmt | f32 | fx19 | bf16 | f16 deriving DecidableEq, Repr
/-- The integer kinds of CVTI (R48, layout IN). -/
inductive IntKind | i32 | n32 | i64 | n64 deriving DecidableEq, Repr
/-- The load kinds of R230. -/
inductive LdKind | n8 | i8 | n16 | i16 | n32 | n64 | n128 deriving DecidableEq, Repr
/-- The store kinds of R230. -/
inductive StKind | n8 | n16 | n32 | n64 | n128 deriving DecidableEq, Repr
/-- Atomic orders (R48, layout IO). -/
inductive MOrder | rlx | acq | rel | acqrel deriving DecidableEq, Repr
/-- Scope codes of R49. -/
inductive MScope | thread | group | cohort | die | device | pod deriving DecidableEq, Repr
/-- The sixteen special registers of R38. -/
inductive SReg
  | lane | tid | gid | coh | role | launch | core | die | dev | clock | ptptime | time | wb | visit | status | trap
  deriving DecidableEq, Repr

/-- The source of a request that an L2 slice accepts (R184): a core or a copy engine. -/
inductive ReqSrc
  | core (c : Nat)
  | engine (e : Nat)
  deriving DecidableEq, Repr
/-- An engine that stops at the halt line and writes a stop record (R339). -/
inductive StopUnit
  | core (v : Nat)
  | engine (e : Nat)
  | flue (d : Nat)
  deriving DecidableEq, Repr
/-- The storage in which a soft error is found (R343). -/
inductive ErrSite
  | general (ctx launch coh tid : Nat) (addr : Bool) (reg : Nat)
  | spectral (ctx launch coh tid reg : Nat)
  | tile (ctx launch coh tid tile idx : Nat)
  | queue (ctx launch coh tid : Nat) (addr : Bool) (q : Nat)
  | scratch (ctx launch coh off : Nat)
  | l1 (core line : Nat) (dirty : Bool)
  | sector (pa : Nat)
  | tlb (core : Nat)
  | table (core : Nat)
  deriving DecidableEq, Repr

/-- A signed change of one count key (R288). -/
structure CountChange where
  loc : Nat
  time : W64
  delta : Int
  deriving DecidableEq, Repr
/-- A batch of count changes as another member sends it (R295, R393). -/
structure FlueBatch where
  srcId : Nat
  seq : Nat
  vdev : Nat
  incs : List CountChange
  decs : List CountChange
  deriving DecidableEq, Repr
/-- The first cause that a CAUSE message carries (R390). -/
structure CauseEntry where
  cause : Nat
  sub : Nat
  launch : Nat
  coh : Nat
  tid : Nat
  pc : W64
  ptptime : W64
  ltime : W64
  deriving DecidableEq, Repr
/-- The body of a control message by TYPE (R382). JOINACK stands for the root's confirmation of a JOIN (R383). -/
inductive CtlBody
  | halt
  | cause (c : CauseEntry)
  | prep (resend : Bool)
  | confirm
  | resent
  | release (t : Nat)
  | flue (b : FlueBatch)
  | digest (s : Nat) (hash : Bytes)
  | fence (vdev : Nat)
  deriving DecidableEq, Repr
/-- A control message of one member of the job (R382): a whole message, or a part of a split one; the model lets every part name the body
that the parts make up (log entry 93). -/
structure CtlMsg where
  src : Nat
  jobid : Nat
  epoch : Nat
  cseq : Nat
  body : CtlBody
  last : Bool := true
  deriving DecidableEq, Repr
/-- A chunk of a collective (R396). -/
structure Chunk where
  chloc : Nat
  time : W64
  idx : Nat
  reqtag : W32
  off : Nat
  data : Bytes
  deriving DecidableEq, Repr
/-- The read-modify-writes a slice performs on behalf of a remote member (R235 to R238). -/
inductive AtomOp
  | add | minI | minN | maxI | maxN | and | or | xor | xchg | cas | inc | fadd | bf16x2 | facc | ld | st
  deriving DecidableEq, Repr
/-- A cohort: context, %launch, %coh (R124). -/
structure CohKey where
  ctx : Nat
  launch : Nat
  coh : Nat
  deriving DecidableEq, Repr
/-- The phase id a thread carries (R218); the virtual device is the component of R386. -/
inductive PhaseId
  | start (vdev launch : Nat)
  | nb (vdev launch n k : Nat)
  | fw (loc : Nat) (t : W64)
  deriving DecidableEq, Repr
/-- An agent of the race check (R202, R220), with its virtual device. -/
inductive Agent
  | thread (vdev : Nat) (ck : CohKey) (tid : Nat)
  | copy (vdev eng seq : Nat) (reqtag : W32)
  | coll (vdev eng seq : Nat) (reqtag : W32)
  deriving DecidableEq, Repr
/-- What a checked access carries to the slice that checks it (R220, R386). -/
structure Chk where
  agent : Agent
  phase : PhaseId
  deriving DecidableEq, Repr
/-- Why the owner of a remote page refuses an access: the page lies at or above its capacity (R200), the sector is
poisoned (R343), or the access races; none names SEVERAL earlier agents (R221). -/
inductive RemErr
  | malformed
  | poison
  | race (earlier : Option Agent) (word : Nat)
  deriving DecidableEq, Repr
/-- What one access of a remote request does at the owner (R384): a read answers with its bytes, a read of none tests the
page alone, and an atomic may pin its line (R216). -/
inductive RemOp
  | read (n : Nat)
  | write (data : List (Option Byte))
  | atom (op : AtomOp) (x y : W64) (pin : Bool)
  deriving DecidableEq, Repr
/-- One access of a remote request: its address and operation, and the words that it checks on a CHECKED page, by address
and bytes (R219, R386). -/
structure RemAcc where
  pa : Nat
  op : RemOp
  chk : Option (Chk × Nat × Nat)
  deriving DecidableEq, Repr
/-- The body of a UALink data message (R381, R384, R389): the accesses of one instruction or unit, which the owner performs
together or, for a test, only checks, with the number of the core that may hold pins there; the setting and the end of
pins (R216, R217); the answers; and a chunk of a collective (R396). -/
inductive DataBody
  | ask (tag : Nat) (holder : Option Nat) (test : Bool) (accs : List RemAcc)
  | pin (tag core line : Nat) (ck : CohKey)
  | unpin (core : Nat) (lines : List Nat)
  | done (tag : Nat) (data : List Bytes)
  | refuse (tag k : Nat) (why : RemErr)
  | retry (tag line : Nat)
  | chunk (c : Chunk)
  deriving DecidableEq, Repr
/-- A data message of the job with its sequence number (R389). -/
structure DataMsg where
  src : Nat
  jobid : Nat
  seq : Nat
  body : DataBody
  deriving DecidableEq, Repr

/-- The operand of a step of the device's other agents: the unit it concerns, or the value, command or message it
brings. -/
inductive EvOp
  | none
  | nat (a : Nat)
  | nat2 (a b : Nat)
  | nat3 (a b c : Nat)
  | word (v : W64)
  | natWord (a : Nat) (v : W64)
  | natBytes (a : Nat) (data : Bytes)
  | src (r : ReqSrc)
  | stop (ctx : Nat) (u : StopUnit)
  | err (site : ErrSite) (corrected : Bool)
  | scratchErr (ctx launch coh off tid : Nat) (addr : Bool) (engine : Option Nat)
  | ctl (m : CtlMsg)
  | data (m : DataMsg)
  | chunk (ctx peer : Nat) (c : Chunk)
  | link (port : Nat) (vdevs : List Nat)
  | int (i : Int)
  | window (wr : Bool) (off : Nat) (data : Bytes)
  | join (ctx : Nat) (digest : Bytes) (counts : List FlueBatch)
  deriving DecidableEq, Repr

/-- The instruction set: one constructor for every row of spec/opcode_table.json. -/
inductive Instr
  /-- ADD (R68). -/
  | add (d a b : Slot)
  /-- SUB (R68). -/
  | sub (d a b : Slot)
  /-- MULLO (R68). -/
  | mullo (d a b : Slot)
  /-- MULHI_I32 (R68). -/
  | mulhiI32 (d a b : Slot)
  /-- MULHI_N32 (R68). -/
  | mulhiN32 (d a b : Slot)
  /-- MIN_I32 (R68). -/
  | minI32 (d a b : Slot)
  /-- MIN_N32 (R68). -/
  | minN32 (d a b : Slot)
  /-- MAX_I32 (R68). -/
  | maxI32 (d a b : Slot)
  /-- MAX_N32 (R68). -/
  | maxN32 (d a b : Slot)
  /-- AND (R68). -/
  | and (d a b : Slot)
  /-- OR (R68). -/
  | or (d a b : Slot)
  /-- XOR (R68). -/
  | xor (d a b : Slot)
  /-- SHL (R68). -/
  | shl (d a b : Slot)
  /-- SHR (R68). -/
  | shr (d a b : Slot)
  /-- SRA (R68). -/
  | sra (d a b : Slot)
  /-- ROL (R68). -/
  | rol (d a b : Slot)
  /-- ROR (R69). -/
  | ror (d a b : Slot)
  /-- ABS (R69). -/
  | abs (d a : Slot)
  /-- CLZ (R69). -/
  | clz (d a : Slot)
  /-- CTZ (R69). -/
  | ctz (d a : Slot)
  /-- POPC (R69). -/
  | popc (d a : Slot)
  /-- BREV (R69). -/
  | brev (d a : Slot)
  /-- BSWAP (R69). -/
  | bswap (d a : Slot)
  /-- ANDN (R69). -/
  | andn (d a b : Slot)
  /-- MAD (R69). -/
  | mad (d a b : Slot)
  /-- SEL (R69). -/
  | sel (d a b : Slot)
  /-- SEQ (R69). -/
  | seq (d a b : Slot)
  /-- SNE (R69). -/
  | sne (d a b : Slot)
  /-- SLT_I32 (R69). -/
  | sltI32 (d a b : Slot)
  /-- SLT_N32 (R69). -/
  | sltN32 (d a b : Slot)
  /-- SLE_I32 (R69). -/
  | sleI32 (d a b : Slot)
  /-- SLE_N32 (R69). -/
  | sleN32 (d a b : Slot)
  /-- ADD_I64 (R70). -/
  | addI64 (d a b : Slot)
  /-- SUB_I64 (R70). -/
  | subI64 (d a b : Slot)
  /-- MULLO_I64 (R70). -/
  | mulloI64 (d a b : Slot)
  /-- MULW_I32 (R70). -/
  | mulwI32 (d a b : Slot)
  /-- MULW_N32 (R70). -/
  | mulwN32 (d a b : Slot)
  /-- MIN_I64 (R70). -/
  | minI64 (d a b : Slot)
  /-- MIN_N64 (R70). -/
  | minN64 (d a b : Slot)
  /-- MAX_I64 (R70). -/
  | maxI64 (d a b : Slot)
  /-- MAX_N64 (R70). -/
  | maxN64 (d a b : Slot)
  /-- SHL_I64 (R70). -/
  | shlI64 (d a b : Slot)
  /-- SHR_I64 (R70). -/
  | shrI64 (d a b : Slot)
  /-- SRA_I64 (R70). -/
  | sraI64 (d a b : Slot)
  /-- SEQ_I64 (R70). -/
  | seqI64 (d a b : Slot)
  /-- SLT_I64 (R70). -/
  | sltI64 (d a b : Slot)
  /-- SLT_N64 (R70). -/
  | sltN64 (d a b : Slot)
  /-- ADDX (R70). -/
  | addx (d a b : Slot)
  /-- ADDI (R71). -/
  | addi (d a : Slot) (imm : BitVec 11)
  /-- ANDI (R71). -/
  | andi (d a : Slot) (imm : BitVec 11)
  /-- ORI (R71). -/
  | ori (d a : Slot) (imm : BitVec 11)
  /-- XORI (R71). -/
  | xori (d a : Slot) (imm : BitVec 11)
  /-- SLTI_I32 (R71). -/
  | sltiI32 (d a : Slot) (imm : BitVec 11)
  /-- SLTI_N32 (R71). -/
  | sltiN32 (d a : Slot) (imm : BitVec 11)
  /-- SHLI (R72). -/
  | shli (d a : Slot) (n : BitVec 5)
  /-- SHRI (R72). -/
  | shri (d a : Slot) (n : BitVec 5)
  /-- SRAI (R72). -/
  | srai (d a : Slot) (n : BitVec 5)
  /-- RORI (R72). -/
  | rori (d a : Slot) (n : BitVec 5)
  /-- BFX (R73). -/
  | bfx (d a : Slot) (sx : Bool) (pos len1 : BitVec 5)
  /-- BFI (R73). -/
  | bfi (d a : Slot) (pos len1 : BitVec 5)
  /-- ADDI_I64 (R71). -/
  | addiI64 (d a : Slot) (imm : BitVec 11)
  /-- LUI (R74). -/
  | lui (d : Slot) (imm : BitVec 18)
  /-- LOI (R74). -/
  | loi (d : Slot) (imm : BitVec 14)
  /-- FADD (R75). -/
  | fadd (d a b : Slot) (ty : FType) (rm : Rm)
  /-- FSUB (R75). -/
  | fsub (d a b : Slot) (ty : FType) (rm : Rm)
  /-- FMUL (R75). -/
  | fmul (d a b : Slot) (ty : FType) (rm : Rm)
  /-- FFMA (R75). -/
  | ffma (d a b : Slot) (ty : FType) (rm : Rm)
  /-- FMIN (R76). -/
  | fmin (d a b : Slot)
  /-- FMAX (R76). -/
  | fmax (d a b : Slot)
  /-- FNEG (R77). -/
  | fneg (d a : Slot)
  /-- FABS (R77). -/
  | fabs (d a : Slot)
  /-- FCPS (R77). -/
  | fcps (d a b : Slot)
  /-- FSEQ (R78). -/
  | fseq (d a b : Slot)
  /-- FSLT (R78). -/
  | fslt (d a b : Slot)
  /-- FSLE (R78). -/
  | fsle (d a b : Slot)
  /-- FSUN (R78). -/
  | fsun (d a b : Slot)
  /-- FRCP (R79). -/
  | frcp (d a : Slot)
  /-- FRSQ (R79). -/
  | frsq (d a : Slot)
  /-- FSQRT (R79). -/
  | fsqrt (d a : Slot)
  /-- FEX2 (R79). -/
  | fex2 (d a : Slot)
  /-- FLG2 (R79). -/
  | flg2 (d a : Slot)
  /-- FSIN (R79). -/
  | fsin (d a : Slot)
  /-- FCOS (R79). -/
  | fcos (d a : Slot)
  /-- HADD_BF16 (R81). -/
  | haddBf16 (d a b : Slot)
  /-- HSUB_BF16 (R81). -/
  | hsubBf16 (d a b : Slot)
  /-- HMUL_BF16 (R81). -/
  | hmulBf16 (d a b : Slot)
  /-- HFMA_BF16 (R81). -/
  | hfmaBf16 (d a b : Slot)
  /-- HMIN_BF16 (R81). -/
  | hminBf16 (d a b : Slot)
  /-- HMAX_BF16 (R81). -/
  | hmaxBf16 (d a b : Slot)
  /-- HADD_F16 (R81). -/
  | haddF16 (d a b : Slot)
  /-- HSUB_F16 (R81). -/
  | hsubF16 (d a b : Slot)
  /-- HMUL_F16 (R81). -/
  | hmulF16 (d a b : Slot)
  /-- HFMA_F16 (R81). -/
  | hfmaF16 (d a b : Slot)
  /-- HMIN_F16 (R81). -/
  | hminF16 (d a b : Slot)
  /-- HMAX_F16 (R81). -/
  | hmaxF16 (d a b : Slot)
  /-- BDOT2 (R83). -/
  | bdot2 (d a b : Slot)
  /-- PK2_BF16 (R82). -/
  | pk2Bf16 (d a b : Slot)
  /-- PK2_F16 (R82). -/
  | pk2F16 (d a b : Slot)
  /-- IDP4 (R84). -/
  | idp4 (d a b : Slot) (sat sa sb : Bool)
  /-- IDP8 (R84). -/
  | idp8 (d a b : Slot) (sat sa sb : Bool)
  /-- CVT (R85). -/
  | cvt (d a : Slot) (tf sf : PFmt) (rm : Rm)
  /-- CVTS (R85). -/
  | cvts (d a : Slot) (tf sf : PFmt) (rm : Rm)
  /-- CVTI_ITOF (R86). -/
  | cvtiItof (d a : Slot) (int : IntKind) (fmt : FFmt) (sat : Bool) (rm : Rm)
  /-- CVTI_FTOI (R86). -/
  | cvtiFtoi (d a : Slot) (int : IntKind) (fmt : FFmt) (rm : Rm)
  /-- BR (R88). -/
  | br (c : Slot) (off : BitVec 18)
  /-- BRZ (R88). -/
  | brz (c : Slot) (off : BitVec 18)
  /-- CALL (R89). -/
  | call (d : Slot) (off : BitVec 18)
  /-- JMP (R89). -/
  | jmp (a : Slot)
  /-- CALLR (R89). -/
  | callr (d a : Slot)
  /-- RET (R89). -/
  | ret (a : Slot)
  /-- TRAP (R93). -/
  | trap (n : BitVec 7)
  /-- BRK (R93). -/
  | brk (n : BitVec 7)
  /-- SYS (R94). -/
  | sys (n : BitVec 7)
  /-- RDSR (R98). -/
  | rdsr (d : Slot) (sr : SReg)
  /-- WRSR (R99). -/
  | wrsr (a : Slot) (sr : SReg)
  /-- WBASE (R100). -/
  | wbase (v : BitVec 7)
  /-- WBADD (R100). -/
  | wbadd (v : BitVec 7)
  /-- WADD (R106). -/
  | wadd (d a b : Slot)
  /-- WSUB (R106). -/
  | wsub (d a b : Slot)
  /-- WMUL (R106). -/
  | wmul (d a b : Slot)
  /-- WFMA (R106). -/
  | wfma (d a b : Slot)
  /-- WMIN (R106). -/
  | wmin (d a b : Slot)
  /-- WMAX (R106). -/
  | wmax (d a b : Slot)
  /-- WATT (R107). -/
  | watt (d a b : Slot)
  /-- WMOV (R106). -/
  | wmov (d a : Slot)
  /-- WHSUM (R108). -/
  | whsum (d a : Slot)
  /-- WDOT (R108). -/
  | wdot (d a b : Slot)
  /-- WSPLAT (R109). -/
  | wsplat (d a : Slot)
  /-- WEXT (R109). -/
  | wext (d a : Slot) (k : BitVec 2)
  /-- WINS (R109). -/
  | wins (d a : Slot) (k : BitVec 2)
  /-- WPACK (R110). -/
  | wpack (d a : Slot)
  /-- WMUELLER_G (R111). -/
  | wmuellerG (d a b : Slot)
  /-- WMUELLER_W (R111). -/
  | wmuellerW (d a b : Slot)
  /-- QSAMP_F32 (R113). -/
  | qsampF32 (d a b : Slot)
  /-- QSAMP_N32 (R113). -/
  | qsampN32 (d a b : Slot)
  /-- JOIN (R147). -/
  | join (a : Slot)
  /-- SHFL_IDX (R150). -/
  | shflIdx (d a b : Slot)
  /-- SHFL_UP (R150). -/
  | shflUp (d a b : Slot)
  /-- SHFL_DOWN (R150). -/
  | shflDown (d a b : Slot)
  /-- SHFL_XOR (R150). -/
  | shflXor (d a b : Slot)
  /-- VOTE_ANY (R151). -/
  | voteAny (d a : Slot)
  /-- VOTE_ALL (R151). -/
  | voteAll (d a : Slot)
  /-- VOTE_BALLOT (R151). -/
  | voteBallot (d a : Slot)
  /-- BAR_SYNC (R153). -/
  | barSync (nb : BitVec 4)
  /-- BAR_ADD_I32 (R152). -/
  | barAddI32 (d a : Slot) (nb : BitVec 4)
  /-- BAR_ADD_F32 (R152). -/
  | barAddF32 (d a : Slot) (nb : BitVec 4)
  /-- BAR_MIN_I32 (R152). -/
  | barMinI32 (d a : Slot) (nb : BitVec 4)
  /-- BAR_MIN_N32 (R152). -/
  | barMinN32 (d a : Slot) (nb : BitVec 4)
  /-- BAR_MIN_F32 (R152). -/
  | barMinF32 (d a : Slot) (nb : BitVec 4)
  /-- BAR_MAX_I32 (R152). -/
  | barMaxI32 (d a : Slot) (nb : BitVec 4)
  /-- BAR_MAX_N32 (R152). -/
  | barMaxN32 (d a : Slot) (nb : BitVec 4)
  /-- BAR_MAX_F32 (R152). -/
  | barMaxF32 (d a : Slot) (nb : BitVec 4)
  /-- BAR_AND (R152). -/
  | barAnd (d a : Slot) (nb : BitVec 4)
  /-- BAR_OR (R152). -/
  | barOr (d a : Slot) (nb : BitVec 4)
  /-- BAR_XOR (R152). -/
  | barXor (d a : Slot) (nb : BitVec 4)
  /-- BAR_SCAN_I32 (R152). -/
  | barScanI32 (d a : Slot) (nb : BitVec 4)
  /-- BAR_XSCAN_I32 (R152). -/
  | barXscanI32 (d a : Slot) (nb : BitVec 4)
  /-- BAR_SCAN_F32 (R152). -/
  | barScanF32 (d a : Slot) (nb : BitVec 4)
  /-- BAR_XSCAN_F32 (R152). -/
  | barXscanF32 (d a : Slot) (nb : BitVec 4)
  /-- MMA (R161). -/
  | mma (d a b : Slot)
  /-- VXM (R170). -/
  | vxm (d a b : Slot)
  /-- ACCRD (R169). -/
  | accrd (d a : Slot) (t : BitVec 4) (col : Bool) (i : BitVec 6)
  /-- ACCWR (R169). -/
  | accwr (d a : Slot) (t : BitVec 4) (col : Bool) (i : BitVec 6)
  /-- ACCZ (R168). -/
  | accz (a : Slot) (t : BitVec 9)
  /-- ACCWAIT (R168). -/
  | accwait (a : Slot) (t : BitVec 9)
  /-- LD (R229). -/
  | ld (d a : Slot) (k : LdKind) (off : BitVec 8)
  /-- ST (R229). -/
  | st (d a : Slot) (k : StKind) (off : BitVec 8)
  /-- LDS (R229). -/
  | lds (d a : Slot) (k : LdKind) (off : BitVec 8)
  /-- STS (R229). -/
  | sts (d a : Slot) (k : StKind) (off : BitVec 8)
  /-- LDP (R229). -/
  | ldp (d a : Slot) (k : LdKind) (off : BitVec 8)
  /-- STP (R229). -/
  | stp (d a : Slot) (k : StKind) (off : BitVec 8)
  /-- LDRO (R229). -/
  | ldro (d a : Slot) (k : LdKind) (off : BitVec 8)
  /-- LDW (R232). -/
  | ldw (d a : Slot) (off : BitVec 8)
  /-- STW (R232). -/
  | stw (d a : Slot) (off : BitVec 8)
  /-- LDWS (R232). -/
  | ldws (d a : Slot) (off : BitVec 8)
  /-- STWS (R232). -/
  | stws (d a : Slot) (off : BitVec 8)
  /-- LDWP (R232). -/
  | ldwp (d a : Slot) (off : BitVec 8)
  /-- STWP (R232). -/
  | stwp (d a : Slot) (off : BitVec 8)
  /-- LDQ (R233). -/
  | ldq (d a : Slot) (off : BitVec 8)
  /-- STQ (R233). -/
  | stq (d a : Slot) (off : BitVec 8)
  /-- LDQS (R233). -/
  | ldqs (d a : Slot) (off : BitVec 8)
  /-- STQS (R233). -/
  | stqs (d a : Slot) (off : BitVec 8)
  /-- ATOM_ADD (R235). -/
  | atomAdd (d a : Slot) (ord : MOrder) (sc : MScope)
  /-- ATOM_MIN_I32 (R235). -/
  | atomMinI32 (d a : Slot) (ord : MOrder) (sc : MScope)
  /-- ATOM_MIN_N32 (R235). -/
  | atomMinN32 (d a : Slot) (ord : MOrder) (sc : MScope)
  /-- ATOM_MAX_I32 (R235). -/
  | atomMaxI32 (d a : Slot) (ord : MOrder) (sc : MScope)
  /-- ATOM_MAX_N32 (R235). -/
  | atomMaxN32 (d a : Slot) (ord : MOrder) (sc : MScope)
  /-- ATOM_AND (R235). -/
  | atomAnd (d a : Slot) (ord : MOrder) (sc : MScope)
  /-- ATOM_OR (R235). -/
  | atomOr (d a : Slot) (ord : MOrder) (sc : MScope)
  /-- ATOM_XOR (R235). -/
  | atomXor (d a : Slot) (ord : MOrder) (sc : MScope)
  /-- ATOM_XCHG (R235). -/
  | atomXchg (d a : Slot) (ord : MOrder) (sc : MScope)
  /-- ATOM_CAS (R236). -/
  | atomCas (d a : Slot) (ord : MOrder) (sc : MScope)
  /-- ATOM_INC (R235). -/
  | atomInc (d a : Slot) (ord : MOrder) (sc : MScope)
  /-- ATOM_FADD (R235). -/
  | atomFadd (d a : Slot) (ord : MOrder) (sc : MScope)
  /-- ATOM_BF16X2 (R237). -/
  | atomBf16x2 (d a : Slot) (ord : MOrder) (sc : MScope)
  /-- FACC (R238). -/
  | facc (d a : Slot) (ord : MOrder) (sc : MScope)
  /-- ATOM_LD (R235). -/
  | atomLd (d a : Slot) (ord : MOrder) (sc : MScope)
  /-- ATOM_ST (R235). -/
  | atomSt (d a : Slot) (ord : MOrder) (sc : MScope)
  /-- ATOMS_ADD (R235). -/
  | atomsAdd (d a : Slot) (ord : MOrder) (sc : MScope)
  /-- ATOMS_MIN_I32 (R235). -/
  | atomsMinI32 (d a : Slot) (ord : MOrder) (sc : MScope)
  /-- ATOMS_MIN_N32 (R235). -/
  | atomsMinN32 (d a : Slot) (ord : MOrder) (sc : MScope)
  /-- ATOMS_MAX_I32 (R235). -/
  | atomsMaxI32 (d a : Slot) (ord : MOrder) (sc : MScope)
  /-- ATOMS_MAX_N32 (R235). -/
  | atomsMaxN32 (d a : Slot) (ord : MOrder) (sc : MScope)
  /-- ATOMS_AND (R235). -/
  | atomsAnd (d a : Slot) (ord : MOrder) (sc : MScope)
  /-- ATOMS_OR (R235). -/
  | atomsOr (d a : Slot) (ord : MOrder) (sc : MScope)
  /-- ATOMS_XOR (R235). -/
  | atomsXor (d a : Slot) (ord : MOrder) (sc : MScope)
  /-- ATOMS_XCHG (R235). -/
  | atomsXchg (d a : Slot) (ord : MOrder) (sc : MScope)
  /-- ATOMS_CAS (R236). -/
  | atomsCas (d a : Slot) (ord : MOrder) (sc : MScope)
  /-- ATOMS_INC (R235). -/
  | atomsInc (d a : Slot) (ord : MOrder) (sc : MScope)
  /-- ATOMS_FADD (R235). -/
  | atomsFadd (d a : Slot) (ord : MOrder) (sc : MScope)
  /-- ATOMS_BF16X2 (R237). -/
  | atomsBf16x2 (d a : Slot) (ord : MOrder) (sc : MScope)
  /-- ATOMS_LD (R235). -/
  | atomsLd (d a : Slot) (ord : MOrder) (sc : MScope)
  /-- ATOMS_ST (R235). -/
  | atomsSt (d a : Slot) (ord : MOrder) (sc : MScope)
  /-- FENCE (R241). -/
  | fence (sc : MScope)
  /-- FENCE_X (R241). -/
  | fenceX (sc : MScope) (paths : BitVec 5)
  /-- TEX (R242). -/
  | tex (d a : Slot)
  /-- TEXW (R242). -/
  | texw (d a b : Slot)
  /-- TEXL (R242). -/
  | texl (d a : Slot)
  /-- BOXT (R244). -/
  | boxt (d a b : Slot)
  /-- TRIT (R247). -/
  | trit (d a b : Slot)
  /-- XFRM (R248). -/
  | xfrm (d a b : Slot)
  /-- CPYREQ (R307). -/
  | cpyreq (d a : Slot) (off : BitVec 8)
  /-- CPYREQW (R307). -/
  | cpyreqw (d a : Slot) (off : BitVec 8)
  /-- NBAR_INIT (R313). -/
  | nbarInit (a : Slot) (nb : BitVec 4)
  /-- NBAR_ARRIVE (R314). -/
  | nbarArrive (nb : BitVec 4)
  /-- NBAR_EXPECT (R315). -/
  | nbarExpect (a : Slot) (nb : BitVec 4)
  /-- NBAR_WAIT (R316). -/
  | nbarWait (a : Slot) (nb : BitVec 4)
  /-- NBAR_TEST (R317). -/
  | nbarTest (d a : Slot) (nb : BitVec 4)
  /-- EMIT (R319). -/
  | emit (d a b : Slot)
  /-- RECV (R320). -/
  | recv (d b : Slot)
  /-- CAPK (R321). -/
  | capk (a b : Slot)
  /-- CAPD (R321). -/
  | capd (a b : Slot)
  /-- CAPX (R321). -/
  | capx (a b : Slot)
  /-- FWAIT (R322). -/
  | fwait (a b : Slot)
  /-- FTEST (R322). -/
  | ftest (d a b : Slot)
  /-- TRIG (R323). -/
  | trig (a : Slot)
  /-- LAUNCH (R324). -/
  | launch (a : Slot)
  /-- TLW (R325). -/
  | tlw (a b : Slot)
  /-- NOP (R90). -/
  | nop
  /-- EXIT (R91). -/
  | exit
  /-- YIELD (R92). -/
  | yield
  /-- ERET (R95). -/
  | eret
  /-- FENCE_I (R96). -/
  | fenceI
  /-- HALT (R97). -/
  | halt
  /-- LEAVE (R148). -/
  | leave
  /-- SLOT_ARBITRATION (R140). -/
  | slotArbitration
  /-- GROUP_FORMATION (R128). -/
  | groupFormation
  /-- LOAD_RETURN (R227). -/
  | loadReturn
  /-- QSAMP_RESULT (R117). -/
  | qsampResult
  /-- PACKET_RESULT (R112). -/
  | packetResult
  /-- QUEUE_DEADLOCK (R189). -/
  | queueDeadlock
  /-- GATHER_CLOSE (R173). -/
  | gatherClose
  /-- MMA_START (R144). -/
  | mmaStart
  /-- MMA_SUSPEND (R144). -/
  | mmaSuspend
  /-- MMA_COMPLETE (R164). -/
  | mmaComplete
  /-- VXM_COMPLETE (R174). -/
  | vxmComplete
  /-- SCORE_DECAY (R138). -/
  | scoreDecay
  /-- L2_REQUEST (R184). -/
  | l2Request
  /-- RETRY_RESEND (R217). -/
  | retryResend
  /-- TABLE_WALK (R197). -/
  | tableWalk
  /-- COHORT_PLACEMENT (R125). -/
  | cohortPlacement
  /-- COHORT_COMPLETE (R126). -/
  | cohortComplete
  /-- COMPLETION_RECORD (R288). -/
  | completionRecord
  /-- COPY_TAKE_UP (R267). -/
  | copyTakeUp
  /-- COPY_LAST_BEAT (R277). -/
  | copyLastBeat
  /-- MULTICAST_PARKED (R276). -/
  | multicastParked
  /-- MULTICAST_DRAIN (R276). -/
  | multicastDrain
  /-- FLUE_BATCH_APPLY (R295). -/
  | flueBatchApply
  /-- COUNTER_FIRE (R301). -/
  | counterFire
  /-- FRAME_TRIGGER_FIRE (R303). -/
  | frameTriggerFire
  /-- HALT_LINE_ARRIVAL (R337). -/
  | haltLineArrival
  /-- STOP_COMPLETE (R339). -/
  | stopComplete
  /-- SCRATCH_UNCORRECTABLE (R347). -/
  | scratchUncorrectable
  /-- SOFT_ERROR (R343). -/
  | softError
  /-- CREATE (R345). -/
  | create
  /-- RESUME (R342). -/
  | resume
  /-- PREEMPT (R350). -/
  | preempt
  /-- PREEMPT_DRAINED (R350). -/
  | preemptDrained
  /-- PREEMPT_SAVED (R350). -/
  | preemptSaved
  /-- SWITCHOUT (R349). -/
  | switchout
  /-- SWITCHOUT_COMPLETE (R349). -/
  | switchoutComplete
  /-- SWITCHIN (R353). -/
  | switchin
  /-- DESTROY (R349). -/
  | destroy
  /-- CTX_HALT (R349). -/
  | ctxHalt
  /-- TLBINV (R201). -/
  | tlbinv
  /-- TLBINV_COMPLETE (R201). -/
  | tlbinvComplete
  /-- HOSTPT (R302). -/
  | hostpt
  /-- HOST_CLOSE (R302). -/
  | hostClose
  /-- HOST_DOORBELL (R401). -/
  | hostDoorbell
  /-- HOST_RECORD (R302). -/
  | hostRecord
  /-- PARTITION_ENTRY_WRITE (R354). -/
  | partitionEntryWrite
  /-- FRAME_TRIGGER_ENABLE (R303). -/
  | frameTriggerEnable
  /-- FRAME_TRIGGER_DISABLE (R303). -/
  | frameTriggerDisable
  /-- STEPI (R360). -/
  | stepi
  /-- STEPR (R360). -/
  | stepr
  /-- STEP_END (R360). -/
  | stepEnd
  /-- CAUSAL_TRIAL_START (R365). -/
  | causalTrialStart
  /-- CAUSAL_TRIAL_END (R365). -/
  | causalTrialEnd
  /-- SMPCTL_WRITE (R362). -/
  | smpctlWrite
  /-- STALL_SAMPLE (R362). -/
  | stallSample
  /-- RDCTL_WRITE (R366). -/
  | rdctlWrite
  /-- RPLBASE_WRITE (R367). -/
  | rplbaseWrite
  /-- ATTGO (R413). -/
  | attgo
  /-- ATTESTATION_COMPLETE (R413). -/
  | attestationComplete
  /-- POD_JOIN (R383). -/
  | podJoin
  /-- POD_LEAVE (R383). -/
  | podLeave
  /-- POD_RESUME (R392). -/
  | podResume
  /-- HALT_MESSAGE (R387). -/
  | haltMessage
  /-- CAUSE_MESSAGE (R390). -/
  | causeMessage
  /-- PREP_MESSAGE (R387). -/
  | prepMessage
  /-- CONFIRM_MESSAGE (R392). -/
  | confirmMessage
  /-- RESENT_MESSAGE (R392). -/
  | resentMessage
  /-- RELEASE_MESSAGE (R387). -/
  | releaseMessage
  /-- RELEASE_TIME_REACHED (R387). -/
  | releaseTimeReached
  /-- FLUE_MESSAGE (R393). -/
  | flueMessage
  /-- DIGEST_MESSAGE (R398). -/
  | digestMessage
  /-- FENCE_MESSAGE (R392). -/
  | fenceMessage
  /-- CONFIRM_TIMEOUT (R392). -/
  | confirmTimeout
  /-- DIGEST_COMPUTE (R398). -/
  | digestCompute
  /-- DIGEST_TIMEOUT (R398). -/
  | digestTimeout
  /-- UALINK_DATA_MESSAGE (R389). -/
  | ualinkDataMessage
  /-- DATA_ACKNOWLEDGE (R389). -/
  | dataAcknowledge
  /-- REMOTE_RESPONSE_TIMEOUT (R385). -/
  | remoteResponseTimeout
  /-- CHUNK_LANDING (R396). -/
  | chunkLanding
  /-- COLLECTIVE_MEMBER_TIMEOUT (R397). -/
  | collectiveMemberTimeout
  /-- LINK_DOWN (R397). -/
  | linkDown
  /-- PTP_SYNC (R399). -/
  | ptpSync
  /-- PTP_SYNC_TIMEOUT (R399). -/
  | ptpSyncTimeout
  /-- PPS_INPUT (R399). -/
  | ppsInput
  /-- PPS_OUTPUT (R399). -/
  | ppsOutput
  /-- FREEZE_ASSERT (R369). -/
  | freezeAssert
  /-- FREEZE_RELEASE (R369). -/
  | freezeRelease
  /-- EXTEST (R369). -/
  | extest
  /-- IDCODE (R369). -/
  | idcode
  /-- SAMPLE_PRELOAD (R369). -/
  | samplePreload
  /-- BYPASS (R369). -/
  | bypass
  /-- SCANOUT (R369). -/
  | scanout
  /-- POWER_THROTTLE (R411). -/
  | powerThrottle
  /-- THERMAL_TRIP (R411). -/
  | thermalTrip
  /-- BOOT (R412). -/
  | boot
  /-- WINDOW_ACCESS (R401). -/
  | windowAccess
  /-- REGISTER_WRITE (R6). -/
  | registerWrite
  /-- TEXTURE_RESULT (R242). -/
  | textureResult
  /-- RAY_TEST_RESULT (R246). -/
  | rayTestResult
  /-- CREATE_COMPLETE (R349). -/
  | createComplete
  /-- SWITCHIN_COMPLETE (R349). -/
  | switchinComplete
  /-- THROTTLE_CAUSE_CLEARS (R411). -/
  | throttleCauseClears
  /-- UALINK_PORT_UP (R400). -/
  | ualinkPortUp
  /-- JOIN_CONFIRMATION (R383). -/
  | joinConfirmation
  /-- PPS_INPUT_LOSS (R399). -/
  | ppsInputLoss
  deriving DecidableEq, Repr

end Sys2Proof
end

