-- ==== Sys2Proof/WellFormed.lean ====
section
/-! DEFINITION. Which operand values an instruction word may hold: the operand kinds of R49 and R51 and the field
combinations of R53. A value that fails its check raises ILLEGAL_ENCODING when the word executes. -/

namespace Sys2Proof

/-- Kind p: the first slot of a 64-bit pair is even (R35, R49). -/
def isPair (s : Slot) : Bool := s.toNat % 2 == 0
/-- Kind g4: a multiple of 4 from 4 to 124. -/
def isG4 (s : Slot) : Bool := s.toNat % 4 == 0 && decide (4 ≤ s.toNat)
/-- Kind g8: a multiple of 8 from 8 to 120. -/
def isG8 (s : Slot) : Bool := s.toNat % 8 == 0 && decide (8 ≤ s.toNat)
/-- Kind g16: a multiple of 16 from 16 to 112. -/
def isG16 (s : Slot) : Bool := s.toNat % 16 == 0 && decide (16 ≤ s.toNat)
/-- Kind m16: the first of 16 consecutive slots, 1 to 112. -/
def isM16 (s : Slot) : Bool := decide (1 ≤ s.toNat) && decide (s.toNat ≤ 112)
/-- Kind frag: 32, 64 or 96. -/
def isFrag (s : Slot) : Bool := s.toNat == 32 || s.toNat == 64 || s.toNat == 96
/-- Kind w: a spectral register 0 to 31 (R37). -/
def isW (s : Slot) : Bool := decide (s.toNat < 32)
/-- Kind w4: 0, 4, … 28. -/
def isW4 (s : Slot) : Bool := decide (s.toNat < 32) && s.toNat % 4 == 0
/-- Kind w16: 0 or 16. -/
def isW16 (s : Slot) : Bool := s.toNat == 0 || s.toNat == 16
/-- Kind qs of a queue the address stream pushes: q0 to q3, slots 120 to 123 (R187, R233). -/
def isQPush (s : Slot) : Bool := decide (120 ≤ s.toNat) && decide (s.toNat < 124)
/-- Kind qs of a queue the address stream pops: q4 to q7, slots 124 to 127 (R187, R233). -/
def isQPop (s : Slot) : Bool := decide (124 ≤ s.toNat)
/-- A pair followed by a second pair that must not lie beyond slot 127 (R53, R236, R318). -/
def isCasBlock (s : Slot) : Bool := s.toNat % 2 == 0 && decide (s.toNat ≠ 126)
/-- BFX and BFI: pos + len1 + 1 ≤ 32 (R53). -/
def fieldFits (pos len1 : BitVec 5) : Bool := decide (pos.toNat + len1.toNat + 1 ≤ 32)
/-- A path set holds at least two of its five paths (R49, R53). -/
def twoPaths (p : BitVec 5) : Bool :=
  decide (2 ≤ p[0].toNat + p[1].toNat + p[2].toNat + p[3].toNat + p[4].toNat)
/-- The 64-bit special registers of R38. -/
def SReg.wide : SReg → Bool
  | .clock | .ptptime | .time => true
  | .lane | .tid | .gid | .coh | .role | .launch | .core | .die | .dev | .wb | .visit | .status | .trap => false
/-- RDSR and WRSR take a pair when the register is 64 bits wide (R51). -/
def sregSlot (r : SReg) (s : Slot) : Bool := !r.wide || isPair s
/-- CVTI takes a pair for the 64-bit integer kinds (R50, R86). -/
def intSlot (k : IntKind) (s : Slot) : Bool :=
  match k with
  | .i32 | .n32 => true
  | .i64 | .n64 => isPair s
/-- The d field of a load by kind (R50, R230). -/
def ldSlot (k : LdKind) (s : Slot) : Bool :=
  match k with
  | .n8 | .i8 | .n16 | .i16 | .n32 => true
  | .n64 => isPair s
  | .n128 => isG4 s
/-- The d field of a store by kind (R50, R230). -/
def stSlot (k : StKind) (s : Slot) : Bool :=
  match k with
  | .n8 | .n16 | .n32 => true
  | .n64 => isPair s
  | .n128 => isG4 s
/-- An ATOMS scope is thread, group or cohort (R53). -/
def cohortScope (s : MScope) : Bool :=
  match s with
  | .thread | .group | .cohort => true
  | .die | .device | .pod => false

/-- Every operand field of the instruction satisfies its kind (R49) and no combination of R53 occurs. The steps of
the device's other agents have no operand fields. -/
def Instr.wf : Instr → Bool
  | .add _ _ _ => true
  | .sub _ _ _ => true
  | .mullo _ _ _ => true
  | .mulhiI32 _ _ _ => true
  | .mulhiN32 _ _ _ => true
  | .minI32 _ _ _ => true
  | .minN32 _ _ _ => true
  | .maxI32 _ _ _ => true
  | .maxN32 _ _ _ => true
  | .and _ _ _ => true
  | .or _ _ _ => true
  | .xor _ _ _ => true
  | .shl _ _ _ => true
  | .shr _ _ _ => true
  | .sra _ _ _ => true
  | .rol _ _ _ => true
  | .ror _ _ _ => true
  | .abs _ _ => true
  | .clz _ _ => true
  | .ctz _ _ => true
  | .popc _ _ => true
  | .brev _ _ => true
  | .bswap _ _ => true
  | .andn _ _ _ => true
  | .mad _ _ _ => true
  | .sel _ _ _ => true
  | .seq _ _ _ => true
  | .sne _ _ _ => true
  | .sltI32 _ _ _ => true
  | .sltN32 _ _ _ => true
  | .sleI32 _ _ _ => true
  | .sleN32 _ _ _ => true
  | .addI64 d a b => isPair d && isPair a && isPair b
  | .subI64 d a b => isPair d && isPair a && isPair b
  | .mulloI64 d a b => isPair d && isPair a && isPair b
  | .mulwI32 d _ _ => isPair d
  | .mulwN32 d _ _ => isPair d
  | .minI64 d a b => isPair d && isPair a && isPair b
  | .minN64 d a b => isPair d && isPair a && isPair b
  | .maxI64 d a b => isPair d && isPair a && isPair b
  | .maxN64 d a b => isPair d && isPair a && isPair b
  | .shlI64 d a _ => isPair d && isPair a
  | .shrI64 d a _ => isPair d && isPair a
  | .sraI64 d a _ => isPair d && isPair a
  | .seqI64 _ a b => isPair a && isPair b
  | .sltI64 _ a b => isPair a && isPair b
  | .sltN64 _ a b => isPair a && isPair b
  | .addx d a _ => isPair d && isPair a
  | .addi _ _ _ => true
  | .andi _ _ _ => true
  | .ori _ _ _ => true
  | .xori _ _ _ => true
  | .sltiI32 _ _ _ => true
  | .sltiN32 _ _ _ => true
  | .shli _ _ _ => true
  | .shri _ _ _ => true
  | .srai _ _ _ => true
  | .rori _ _ _ => true
  | .bfx _ _ _ pos len1 => fieldFits pos len1
  | .bfi _ _ pos len1 => fieldFits pos len1
  | .addiI64 d a _ => isPair d && isPair a
  | .lui _ _ => true
  | .loi _ _ => true
  | .fadd _ _ _ _ _ => true
  | .fsub _ _ _ _ _ => true
  | .fmul _ _ _ _ _ => true
  | .ffma _ _ _ _ _ => true
  | .fmin _ _ _ => true
  | .fmax _ _ _ => true
  | .fneg _ _ => true
  | .fabs _ _ => true
  | .fcps _ _ _ => true
  | .fseq _ _ _ => true
  | .fslt _ _ _ => true
  | .fsle _ _ _ => true
  | .fsun _ _ _ => true
  | .frcp _ _ => true
  | .frsq _ _ => true
  | .fsqrt _ _ => true
  | .fex2 _ _ => true
  | .flg2 _ _ => true
  | .fsin _ _ => true
  | .fcos _ _ => true
  | .haddBf16 _ _ _ => true
  | .hsubBf16 _ _ _ => true
  | .hmulBf16 _ _ _ => true
  | .hfmaBf16 _ _ _ => true
  | .hminBf16 _ _ _ => true
  | .hmaxBf16 _ _ _ => true
  | .haddF16 _ _ _ => true
  | .hsubF16 _ _ _ => true
  | .hmulF16 _ _ _ => true
  | .hfmaF16 _ _ _ => true
  | .hminF16 _ _ _ => true
  | .hmaxF16 _ _ _ => true
  | .bdot2 _ _ _ => true
  | .pk2Bf16 _ _ _ => true
  | .pk2F16 _ _ _ => true
  | .idp4 _ _ _ _ _ _ => true
  | .idp8 _ _ _ _ _ _ => true
  | .cvt _ _ tf sf _ => decide (tf ≠ sf)
  | .cvts _ _ tf sf _ => decide (tf ≠ sf)
  | .cvtiItof _ a int _ _ _ => intSlot int a
  | .cvtiFtoi d _ int _ _ => intSlot int d
  | .br _ _ => true
  | .brz c _ => decide (c ≠ 0)
  | .call d _ => isPair d
  | .jmp a => isPair a
  | .callr d a => isPair d && isPair a
  | .ret a => isPair a
  | .nop => true
  | .exit => true
  | .yield => true
  | .trap _ => true
  | .brk _ => true
  | .sys _ => true
  | .eret => true
  | .fenceI => true
  | .halt => true
  | .rdsr d sr => sregSlot sr d
  | .wrsr a sr => sregSlot sr a
  | .wbase _ => true
  | .wbadd _ => true
  | .wadd d a b => isW d && isW a && isW b
  | .wsub d a b => isW d && isW a && isW b
  | .wmul d a b => isW d && isW a && isW b
  | .wfma d a b => isW d && isW a && isW b
  | .wmin d a b => isW d && isW a && isW b
  | .wmax d a b => isW d && isW a && isW b
  | .watt d a b => isW d && isW a && isW b
  | .wmov d a => isW d && isW a
  | .whsum _ a => isW a
  | .wdot _ a b => isW a && isW b
  | .wsplat d _ => isW d
  | .wext _ a _ => isW a
  | .wins d _ _ => isW d
  | .wpack d a => isPair d && isW a
  | .wmuellerG d a b => isW4 d && isW4 a && isM16 b
  | .wmuellerW d a b => isW4 d && isW4 a && isW16 b
  | .qsampF32 _ a _ => isPair a
  | .qsampN32 _ a _ => isPair a
  | .join _ => true
  | .leave => true
  | .shflIdx _ _ _ => true
  | .shflUp _ _ _ => true
  | .shflDown _ _ _ => true
  | .shflXor _ _ _ => true
  | .voteAny _ _ => true
  | .voteAll _ _ => true
  | .voteBallot _ _ => true
  | .barSync _ => true
  | .barAddI32 _ _ _ => true
  | .barAddF32 _ _ _ => true
  | .barMinI32 _ _ _ => true
  | .barMinN32 _ _ _ => true
  | .barMinF32 _ _ _ => true
  | .barMaxI32 _ _ _ => true
  | .barMaxN32 _ _ _ => true
  | .barMaxF32 _ _ _ => true
  | .barAnd _ _ _ => true
  | .barOr _ _ _ => true
  | .barXor _ _ _ => true
  | .barScanI32 _ _ _ => true
  | .barXscanI32 _ _ _ => true
  | .barScanF32 _ _ _ => true
  | .barXscanF32 _ _ _ => true
  | .mma _ a b => isFrag a && isFrag b
  | .vxm d a _ => isG8 d && isG8 a
  | .accrd d a _ _ _ => isPair d && decide (a ≠ 127)
  | .accwr d a _ _ _ => isPair d && decide (a ≠ 127)
  | .accz _ _ => true
  | .accwait _ _ => true
  | .ld d a k _ => isPair a && ldSlot k d
  | .st d a k _ => isPair a && stSlot k d
  | .lds d _ k _ => ldSlot k d
  | .sts d _ k _ => stSlot k d
  | .ldp d _ k _ => ldSlot k d
  | .stp d _ k _ => stSlot k d
  | .ldro d a k _ => isPair a && ldSlot k d
  | .ldw d a _ => isW d && isPair a
  | .stw d a _ => isW d && isPair a
  | .ldws d _ _ => isW d
  | .stws d _ _ => isW d
  | .ldwp d _ _ => isW d
  | .stwp d _ _ => isW d
  | .ldq d a _ => isQPush d && isPair a
  | .stq d a _ => isQPop d && isPair a
  | .ldqs d _ _ => isQPush d
  | .stqs d _ _ => isQPop d
  | .atomAdd _ a _ _ => isPair a
  | .atomMinI32 _ a _ _ => isPair a
  | .atomMinN32 _ a _ _ => isPair a
  | .atomMaxI32 _ a _ _ => isPair a
  | .atomMaxN32 _ a _ _ => isPair a
  | .atomAnd _ a _ _ => isPair a
  | .atomOr _ a _ _ => isPair a
  | .atomXor _ a _ _ => isPair a
  | .atomXchg _ a _ _ => isPair a
  | .atomCas d a _ _ => isPair a && isCasBlock d
  | .atomInc _ a _ _ => isPair a
  | .atomFadd _ a _ _ => isPair a
  | .atomBf16x2 _ a _ _ => isPair a
  | .facc _ a _ _ => isPair a
  | .atomLd _ a _ _ => isPair a
  | .atomSt _ a _ _ => isPair a
  | .atomsAdd _ _ _ sc => cohortScope sc
  | .atomsMinI32 _ _ _ sc => cohortScope sc
  | .atomsMinN32 _ _ _ sc => cohortScope sc
  | .atomsMaxI32 _ _ _ sc => cohortScope sc
  | .atomsMaxN32 _ _ _ sc => cohortScope sc
  | .atomsAnd _ _ _ sc => cohortScope sc
  | .atomsOr _ _ _ sc => cohortScope sc
  | .atomsXor _ _ _ sc => cohortScope sc
  | .atomsXchg _ _ _ sc => cohortScope sc
  | .atomsCas d _ _ sc => isCasBlock d && cohortScope sc
  | .atomsInc _ _ _ sc => cohortScope sc
  | .atomsFadd _ _ _ sc => cohortScope sc
  | .atomsBf16x2 _ _ _ sc => cohortScope sc
  | .atomsLd _ _ _ sc => cohortScope sc
  | .atomsSt _ _ _ sc => cohortScope sc
  | .fence _ => true
  | .fenceX _ paths => twoPaths paths
  | .tex d a => isG4 d && isG4 a
  | .texw d a b => isW d && isG4 a && isW b
  | .texl d a => isG4 d && isG4 a
  | .boxt d a b => isG8 d && isG8 a && isPair b
  | .trit d a b => isG4 d && isG8 a && isPair b
  | .xfrm d a b => isG8 d && isG8 a && isPair b
  | .cpyreq d a _ => isG16 d && isPair a
  | .cpyreqw d a _ => isW4 d && isPair a
  | .nbarInit _ _ => true
  | .nbarArrive _ => true
  | .nbarExpect _ _ => true
  | .nbarWait _ _ => true
  | .nbarTest _ _ _ => true
  | .emit _ a b => isG16 a && isPair b
  | .recv d b => isG16 d && isPair b
  | .capk _ b => isPair b
  | .capd _ b => isCasBlock b
  | .capx _ b => isPair b
  | .fwait _ b => isPair b
  | .ftest _ _ b => isPair b
  | .trig a => isG8 a
  | .launch a => isPair a
  | .tlw a _ => isPair a
  | .slotArbitration => true
  | .groupFormation => true
  | .loadReturn => true
  | .qsampResult => true
  | .packetResult => true
  | .queueDeadlock => true
  | .gatherClose => true
  | .mmaStart => true
  | .mmaSuspend => true
  | .mmaComplete => true
  | .vxmComplete => true
  | .scoreDecay => true
  | .l2Request => true
  | .retryResend => true
  | .tableWalk => true
  | .cohortPlacement => true
  | .cohortComplete => true
  | .completionRecord => true
  | .copyTakeUp => true
  | .copyLastBeat => true
  | .multicastParked => true
  | .multicastDrain => true
  | .flueBatchApply => true
  | .counterFire => true
  | .frameTriggerFire => true
  | .haltLineArrival => true
  | .stopComplete => true
  | .scratchUncorrectable => true
  | .softError => true
  | .create => true
  | .resume => true
  | .preempt => true
  | .preemptDrained => true
  | .preemptSaved => true
  | .switchout => true
  | .switchoutComplete => true
  | .switchin => true
  | .destroy => true
  | .ctxHalt => true
  | .tlbinv => true
  | .tlbinvComplete => true
  | .hostpt => true
  | .hostClose => true
  | .hostDoorbell => true
  | .hostRecord => true
  | .partitionEntryWrite => true
  | .frameTriggerEnable => true
  | .frameTriggerDisable => true
  | .stepi => true
  | .stepr => true
  | .stepEnd => true
  | .causalTrialStart => true
  | .causalTrialEnd => true
  | .smpctlWrite => true
  | .stallSample => true
  | .rdctlWrite => true
  | .rplbaseWrite => true
  | .attgo => true
  | .attestationComplete => true
  | .podJoin => true
  | .podLeave => true
  | .podResume => true
  | .haltMessage => true
  | .causeMessage => true
  | .prepMessage => true
  | .confirmMessage => true
  | .resentMessage => true
  | .releaseMessage => true
  | .releaseTimeReached => true
  | .flueMessage => true
  | .digestMessage => true
  | .fenceMessage => true
  | .confirmTimeout => true
  | .digestCompute => true
  | .digestTimeout => true
  | .ualinkDataMessage => true
  | .dataAcknowledge => true
  | .remoteResponseTimeout => true
  | .chunkLanding => true
  | .collectiveMemberTimeout => true
  | .linkDown => true
  | .ptpSync => true
  | .ptpSyncTimeout => true
  | .ppsInput => true
  | .ppsOutput => true
  | .freezeAssert => true
  | .freezeRelease => true
  | .extest => true
  | .idcode => true
  | .samplePreload => true
  | .bypass => true
  | .scanout => true
  | .powerThrottle => true
  | .thermalTrip => true
  | .boot => true
  | .windowAccess => true
  | .registerWrite => true
  | .textureResult => true
  | .rayTestResult => true
  | .createComplete => true
  | .switchinComplete => true
  | .throttleCauseClears => true
  | .ualinkPortUp => true
  | .joinConfirmation => true
  | .ppsInputLoss => true

end Sys2Proof
end

