-- ==== Sys2Proof/Decode.lean ====
section
/-! DEFINITION. Decoding of instruction words (R46 to R53), total on every word and rejecting by name, and after it
the encoder, both written from the encoding tables of spec file 03. -/

namespace Sys2Proof

/-- Why a word is not an instruction (the items of R53). Each raises ILLEGAL_ENCODING when the word executes. -/
inductive DecErr
  | unassignedMajor | unassignedMinor | unassignedSelector | reservedField | badOperand | badRounding
  | badCombination | shortInput
  deriving DecidableEq, Repr

/-- The rounding field (R19): codes 0b101 and 0b110 are illegal. -/
def Rm.ofCode (c : BitVec 3) : Option Rm :=
  if c == 0 then some .rne else if c == 1 then some .rtz else if c == 2 then some .rdn else if c == 3 then some .rup
  else if c == 4 then some .rto else if c == 7 then some .dyn else none
/-- The code of a rounding field (R19). -/
def Rm.code : Rm → BitVec 3
  | .rne => 0 | .rtz => 1 | .rdn => 2 | .rup => 3 | .rto => 4 | .dyn => 7
/-- The low four bits of a plain format code (R9, R48): 0 is illegal. -/
def PFmt.ofCode (c : BitVec 4) : Option PFmt :=
  if c == 1 then some .f32 else if c == 2 then some .fx19 else if c == 3 then some .bf16 else if c == 4 then some .f16
  else if c == 5 then some .e5m2 else if c == 6 then some .e4m3 else if c == 7 then some .e3m4 else if c == 8 then some .i8
  else if c == 9 then some .n8 else if c == 10 then some .i4 else if c == 11 then some .n4 else if c == 12 then some .h8
  else if c == 13 then some .h4 else if c == 14 then some .h2 else if c == 15 then some .bin1 else none
/-- The code of a plain format (R9). -/
def PFmt.code : PFmt → BitVec 4
  | .f32 => 1 | .fx19 => 2 | .bf16 => 3 | .f16 => 4 | .e5m2 => 5 | .e4m3 => 6 | .e3m4 => 7 | .i8 => 8 | .n8 => 9
  | .i4 => 10 | .n4 => 11 | .h8 => 12 | .h4 => 13 | .h2 => 14 | .bin1 => 15
/-- The fmt field of CVTI: 0x1 to 0x4 (R48, R53). -/
def FFmt.ofCode (c : BitVec 4) : Option FFmt :=
  if c == 1 then some .f32 else if c == 2 then some .fx19 else if c == 3 then some .bf16 else if c == 4 then some .f16 else none
/-- The code of a CVTI format. -/
def FFmt.code : FFmt → BitVec 4
  | .f32 => 1 | .fx19 => 2 | .bf16 => 3 | .f16 => 4
/-- The int field of CVTI (R48). -/
def IntKind.ofCode (c : BitVec 2) : IntKind :=
  if c == 0 then .i32 else if c == 1 then .n32 else if c == 2 then .i64 else .n64
/-- The code of an integer kind. -/
def IntKind.code : IntKind → BitVec 2
  | .i32 => 0 | .n32 => 1 | .i64 => 2 | .n64 => 3
/-- The kind field of a load (R50). -/
def LdKind.ofCode (c : BitVec 3) : Option LdKind :=
  if c == 0 then some .n8 else if c == 1 then some .i8 else if c == 2 then some .n16 else if c == 3 then some .i16
  else if c == 4 then some .n32 else if c == 5 then some .n64 else if c == 6 then some .n128 else none
/-- The code of a load kind. -/
def LdKind.code : LdKind → BitVec 3
  | .n8 => 0 | .i8 => 1 | .n16 => 2 | .i16 => 3 | .n32 => 4 | .n64 => 5 | .n128 => 6
/-- The kind field of a store (R50): the signed kinds are unassigned. -/
def StKind.ofCode (c : BitVec 3) : Option StKind :=
  if c == 0 then some .n8 else if c == 2 then some .n16 else if c == 4 then some .n32 else if c == 5 then some .n64
  else if c == 6 then some .n128 else none
/-- The code of a store kind. -/
def StKind.code : StKind → BitVec 3
  | .n8 => 0 | .n16 => 2 | .n32 => 4 | .n64 => 5 | .n128 => 6
/-- The order field of an atomic (R48). -/
def MOrder.ofCode (c : BitVec 2) : MOrder :=
  if c == 0 then .rlx else if c == 1 then .acq else if c == 2 then .rel else .acqrel
/-- The code of an atomic order. -/
def MOrder.code : MOrder → BitVec 2
  | .rlx => 0 | .acq => 1 | .rel => 2 | .acqrel => 3
/-- A scope code (R49): 6 and 7 are illegal. -/
def MScope.ofCode (c : BitVec 3) : Option MScope :=
  if c == 0 then some .thread else if c == 1 then some .group else if c == 2 then some .cohort else if c == 3 then some .die
  else if c == 4 then some .device else if c == 5 then some .pod else none
/-- The code of a scope. -/
def MScope.code : MScope → BitVec 3
  | .thread => 0 | .group => 1 | .cohort => 2 | .die => 3 | .device => 4 | .pod => 5
/-- The type bit of the IR layout. -/
def FType.ofBit (b : Bool) : FType := if b then .fx19 else .f32
/-- The bit of a type. -/
def FType.bit : FType → Bool
  | .f32 => false | .fx19 => true
/-- A special register by number (R38): 0x10 and above are reserved. -/
def SReg.ofCode (c : BitVec 7) : Option SReg :=
  if c == 0 then some .lane else if c == 1 then some .tid else if c == 2 then some .gid else if c == 3 then some .coh
  else if c == 4 then some .role else if c == 5 then some .launch else if c == 6 then some .core else if c == 7 then some .die
  else if c == 8 then some .dev else if c == 9 then some .clock else if c == 10 then some .ptptime
  else if c == 11 then some .time else if c == 12 then some .wb else if c == 13 then some .visit
  else if c == 14 then some .status else if c == 15 then some .trap else none
/-- The number of a special register. -/
def SReg.code : SReg → BitVec 7
  | .lane => 0 | .tid => 1 | .gid => 2 | .coh => 3 | .role => 4 | .launch => 5 | .core => 6 | .die => 7 | .dev => 8
  | .clock => 9 | .ptptime => 10 | .time => 11 | .wb => 12 | .visit => 13 | .status => 14 | .trap => 15

/-- A bit field of an instruction word: `len` bits from bit `lo` up (R4). -/
def fld (w : W32) (lo len : Nat) : BitVec len := w.extractLsb' lo len

/-- The minor map of major 0x01 (R51). -/
def decodeMajor01 (minor : BitVec 4) (d a b : Slot) : Except DecErr Instr :=
  if minor == 0 then .ok (.add d a b)
  else if minor == 1 then .ok (.sub d a b)
  else if minor == 2 then .ok (.mullo d a b)
  else if minor == 3 then .ok (.mulhiI32 d a b)
  else if minor == 4 then .ok (.mulhiN32 d a b)
  else if minor == 5 then .ok (.minI32 d a b)
  else if minor == 6 then .ok (.minN32 d a b)
  else if minor == 7 then .ok (.maxI32 d a b)
  else if minor == 8 then .ok (.maxN32 d a b)
  else if minor == 9 then .ok (.and d a b)
  else if minor == 10 then .ok (.or d a b)
  else if minor == 11 then .ok (.xor d a b)
  else if minor == 12 then .ok (.shl d a b)
  else if minor == 13 then .ok (.shr d a b)
  else if minor == 14 then .ok (.sra d a b)
  else if minor == 15 then .ok (.rol d a b)
  else .error .unassignedMinor

/-- The minor map of major 0x02 (R51). -/
def decodeMajor02 (minor : BitVec 4) (d a b : Slot) : Except DecErr Instr :=
  if minor == 0 then .ok (.ror d a b)
  else if minor == 1 then if b != 0 then .error .reservedField else .ok (.abs d a)
  else if minor == 2 then if b != 0 then .error .reservedField else .ok (.clz d a)
  else if minor == 3 then if b != 0 then .error .reservedField else .ok (.ctz d a)
  else if minor == 4 then if b != 0 then .error .reservedField else .ok (.popc d a)
  else if minor == 5 then if b != 0 then .error .reservedField else .ok (.brev d a)
  else if minor == 6 then if b != 0 then .error .reservedField else .ok (.bswap d a)
  else if minor == 7 then .ok (.andn d a b)
  else if minor == 8 then .ok (.mad d a b)
  else if minor == 9 then .ok (.sel d a b)
  else if minor == 10 then .ok (.seq d a b)
  else if minor == 11 then .ok (.sne d a b)
  else if minor == 12 then .ok (.sltI32 d a b)
  else if minor == 13 then .ok (.sltN32 d a b)
  else if minor == 14 then .ok (.sleI32 d a b)
  else if minor == 15 then .ok (.sleN32 d a b)
  else .error .unassignedMinor

/-- The minor map of major 0x03 (R51). -/
def decodeMajor03 (minor : BitVec 4) (d a b : Slot) : Except DecErr Instr :=
  if minor == 0 then .ok (.addI64 d a b)
  else if minor == 1 then .ok (.subI64 d a b)
  else if minor == 2 then .ok (.mulloI64 d a b)
  else if minor == 3 then .ok (.mulwI32 d a b)
  else if minor == 4 then .ok (.mulwN32 d a b)
  else if minor == 5 then .ok (.minI64 d a b)
  else if minor == 6 then .ok (.minN64 d a b)
  else if minor == 7 then .ok (.maxI64 d a b)
  else if minor == 8 then .ok (.maxN64 d a b)
  else if minor == 9 then .ok (.shlI64 d a b)
  else if minor == 10 then .ok (.shrI64 d a b)
  else if minor == 11 then .ok (.sraI64 d a b)
  else if minor == 12 then .ok (.seqI64 d a b)
  else if minor == 13 then .ok (.sltI64 d a b)
  else if minor == 14 then .ok (.sltN64 d a b)
  else if minor == 15 then .ok (.addx d a b)
  else .error .unassignedMinor

/-- The minor map of major 0x14 (R51). -/
def decodeMajor14 (minor : BitVec 4) (d a b : Slot) : Except DecErr Instr :=
  if minor == 0 then .ok (.fmin d a b)
  else if minor == 1 then .ok (.fmax d a b)
  else if minor == 2 then if b != 0 then .error .reservedField else .ok (.fneg d a)
  else if minor == 3 then if b != 0 then .error .reservedField else .ok (.fabs d a)
  else if minor == 4 then .ok (.fcps d a b)
  else if minor == 5 then .ok (.fseq d a b)
  else if minor == 6 then .ok (.fslt d a b)
  else if minor == 7 then .ok (.fsle d a b)
  else if minor == 8 then .ok (.fsun d a b)
  else if minor == 9 then if b != 0 then .error .reservedField else .ok (.frcp d a)
  else if minor == 10 then if b != 0 then .error .reservedField else .ok (.frsq d a)
  else if minor == 11 then if b != 0 then .error .reservedField else .ok (.fsqrt d a)
  else if minor == 12 then if b != 0 then .error .reservedField else .ok (.fex2 d a)
  else if minor == 13 then if b != 0 then .error .reservedField else .ok (.flg2 d a)
  else if minor == 14 then if b != 0 then .error .reservedField else .ok (.fsin d a)
  else if minor == 15 then if b != 0 then .error .reservedField else .ok (.fcos d a)
  else .error .unassignedMinor

/-- The minor map of major 0x15 (R51). -/
def decodeMajor15 (minor : BitVec 4) (d a b : Slot) : Except DecErr Instr :=
  if minor == 0 then .ok (.haddBf16 d a b)
  else if minor == 1 then .ok (.hsubBf16 d a b)
  else if minor == 2 then .ok (.hmulBf16 d a b)
  else if minor == 3 then .ok (.hfmaBf16 d a b)
  else if minor == 4 then .ok (.hminBf16 d a b)
  else if minor == 5 then .ok (.hmaxBf16 d a b)
  else if minor == 6 then .ok (.haddF16 d a b)
  else if minor == 7 then .ok (.hsubF16 d a b)
  else if minor == 8 then .ok (.hmulF16 d a b)
  else if minor == 9 then .ok (.hfmaF16 d a b)
  else if minor == 10 then .ok (.hminF16 d a b)
  else if minor == 11 then .ok (.hmaxF16 d a b)
  else if minor == 12 then .ok (.bdot2 d a b)
  else if minor == 13 then .ok (.pk2Bf16 d a b)
  else if minor == 14 then .ok (.pk2F16 d a b)
  else .error .unassignedMinor

/-- The minor map of major 0x1D (R51). -/
def decodeMajor1D (minor : BitVec 4) (d a b : Slot) : Except DecErr Instr :=
  if minor == 0 then if d != 0 || b != 0 then .error .reservedField else .ok (.jmp a)
  else if minor == 1 then if b != 0 then .error .reservedField else .ok (.callr d a)
  else if minor == 2 then if d != 0 || b != 0 then .error .reservedField else .ok (.ret a)
  else .error .unassignedMinor

/-- The minor map of major 0x1E (R51). -/
def decodeMajor1E (minor : BitVec 4) (d a b : Slot) : Except DecErr Instr :=
  if minor == 0 then if d != 0 || a != 0 || b != 0 then .error .reservedField else .ok (.nop )
  else if minor == 1 then if d != 0 || a != 0 || b != 0 then .error .reservedField else .ok (.exit )
  else if minor == 2 then if d != 0 || a != 0 || b != 0 then .error .reservedField else .ok (.yield )
  else if minor == 3 then if d != 0 || a != 0 then .error .reservedField else .ok (.trap b)
  else if minor == 4 then if d != 0 || a != 0 then .error .reservedField else .ok (.brk b)
  else if minor == 5 then if d != 0 || a != 0 then .error .reservedField else .ok (.sys b)
  else if minor == 6 then if d != 0 || a != 0 || b != 0 then .error .reservedField else .ok (.eret )
  else if minor == 7 then if d != 0 || a != 0 || b != 0 then .error .reservedField else .ok (.fenceI )
  else if minor == 8 then if d != 0 || a != 0 || b != 0 then .error .reservedField else .ok (.halt )
  else .error .unassignedMinor

/-- The minor map of major 0x1F (R51). -/
def decodeMajor1F (minor : BitVec 4) (d a b : Slot) : Except DecErr Instr :=
  if minor == 0 then if a != 0 then .error .reservedField else (match SReg.ofCode b with | some r => .ok (.rdsr d r) | none => .error .badCombination)
  else if minor == 1 then if d != 0 then .error .reservedField else (match SReg.ofCode b with | some r => .ok (.wrsr a r) | none => .error .badCombination)
  else if minor == 2 then if d != 0 || a != 0 then .error .reservedField else .ok (.wbase b)
  else if minor == 3 then if d != 0 || a != 0 then .error .reservedField else .ok (.wbadd b)
  else .error .unassignedMinor

/-- The minor map of major 0x20 (R51). -/
def decodeMajor20 (minor : BitVec 4) (d a b : Slot) : Except DecErr Instr :=
  if minor == 0 then .ok (.wadd d a b)
  else if minor == 1 then .ok (.wsub d a b)
  else if minor == 2 then .ok (.wmul d a b)
  else if minor == 3 then .ok (.wfma d a b)
  else if minor == 4 then .ok (.wmin d a b)
  else if minor == 5 then .ok (.wmax d a b)
  else if minor == 6 then .ok (.watt d a b)
  else if minor == 7 then if b != 0 then .error .reservedField else .ok (.wmov d a)
  else if minor == 8 then if b != 0 then .error .reservedField else .ok (.whsum d a)
  else if minor == 9 then .ok (.wdot d a b)
  else if minor == 10 then if b != 0 then .error .reservedField else .ok (.wsplat d a)
  else if minor == 11 then if decide (4 ≤ b.toNat) then .error .badOperand else .ok (.wext d a (b.extractLsb' 0 2))
  else if minor == 12 then if decide (4 ≤ b.toNat) then .error .badOperand else .ok (.wins d a (b.extractLsb' 0 2))
  else if minor == 13 then if b != 0 then .error .reservedField else .ok (.wpack d a)
  else if minor == 14 then .ok (.wmuellerG d a b)
  else if minor == 15 then .ok (.wmuellerW d a b)
  else .error .unassignedMinor

/-- The minor map of major 0x21 (R51). -/
def decodeMajor21 (minor : BitVec 4) (d a b : Slot) : Except DecErr Instr :=
  if minor == 0 then .ok (.qsampF32 d a b)
  else if minor == 1 then .ok (.qsampN32 d a b)
  else .error .unassignedMinor

/-- The minor map of major 0x22 (R51). -/
def decodeMajor22 (minor : BitVec 4) (d a b : Slot) : Except DecErr Instr :=
  if minor == 0 then if d != 0 || b != 0 then .error .reservedField else .ok (.join a)
  else if minor == 1 then if d != 0 || a != 0 || b != 0 then .error .reservedField else .ok (.leave )
  else if minor == 2 then .ok (.shflIdx d a b)
  else if minor == 3 then .ok (.shflUp d a b)
  else if minor == 4 then .ok (.shflDown d a b)
  else if minor == 5 then .ok (.shflXor d a b)
  else if minor == 6 then if b != 0 then .error .reservedField else .ok (.voteAny d a)
  else if minor == 7 then if b != 0 then .error .reservedField else .ok (.voteAll d a)
  else if minor == 8 then if b != 0 then .error .reservedField else .ok (.voteBallot d a)
  else .error .unassignedMinor

/-- The minor map of major 0x24 (R51). -/
def decodeMajor24 (minor : BitVec 4) (d a b : Slot) : Except DecErr Instr :=
  if minor == 0 then .ok (.mma d a b)
  else if minor == 1 then .ok (.vxm d a b)
  else .error .unassignedMinor

/-- The minor map of major 0x33 (R51). -/
def decodeMajor33 (minor : BitVec 4) (d a b : Slot) : Except DecErr Instr :=
  if minor == 0 then if d != 0 || a != 0 then .error .reservedField else if b.extractLsb' 3 4 != 0 then .error .reservedField else (match MScope.ofCode (b.extractLsb' 0 3) with | some r => .ok (.fence r) | none => .error .badCombination)
  else if minor == 1 then if d != 0 then .error .reservedField else if a.extractLsb' 3 4 != 0 then .error .reservedField else if b.extractLsb' 5 2 != 0 then .error .reservedField else (match MScope.ofCode (a.extractLsb' 0 3) with | some r => .ok (.fenceX r (b.extractLsb' 0 5)) | none => .error .badCombination)
  else .error .unassignedMinor

/-- The minor map of major 0x34 (R51). -/
def decodeMajor34 (minor : BitVec 4) (d a b : Slot) : Except DecErr Instr :=
  if minor == 0 then if b != 0 then .error .reservedField else .ok (.tex d a)
  else if minor == 1 then .ok (.texw d a b)
  else if minor == 2 then if b != 0 then .error .reservedField else .ok (.texl d a)
  else .error .unassignedMinor

/-- The minor map of major 0x35 (R51). -/
def decodeMajor35 (minor : BitVec 4) (d a b : Slot) : Except DecErr Instr :=
  if minor == 0 then .ok (.boxt d a b)
  else if minor == 1 then .ok (.trit d a b)
  else if minor == 2 then .ok (.xfrm d a b)
  else .error .unassignedMinor

/-- The minor map of major 0x37 (R51). -/
def decodeMajor37 (minor : BitVec 4) (d a b : Slot) : Except DecErr Instr :=
  if minor == 0 then if d != 0 then .error .reservedField else if decide (16 ≤ b.toNat) then .error .badOperand else .ok (.nbarInit a (b.extractLsb' 0 4))
  else if minor == 1 then if d != 0 || a != 0 then .error .reservedField else if decide (16 ≤ b.toNat) then .error .badOperand else .ok (.nbarArrive (b.extractLsb' 0 4))
  else if minor == 2 then if d != 0 then .error .reservedField else if decide (16 ≤ b.toNat) then .error .badOperand else .ok (.nbarExpect a (b.extractLsb' 0 4))
  else if minor == 3 then if d != 0 then .error .reservedField else if decide (16 ≤ b.toNat) then .error .badOperand else .ok (.nbarWait a (b.extractLsb' 0 4))
  else if minor == 4 then if decide (16 ≤ b.toNat) then .error .badOperand else .ok (.nbarTest d a (b.extractLsb' 0 4))
  else .error .unassignedMinor

/-- The minor map of major 0x38 (R51). -/
def decodeMajor38 (minor : BitVec 4) (d a b : Slot) : Except DecErr Instr :=
  if minor == 0 then .ok (.emit d a b)
  else if minor == 1 then if a != 0 then .error .reservedField else .ok (.recv d b)
  else if minor == 2 then if d != 0 then .error .reservedField else .ok (.capk a b)
  else if minor == 3 then if d != 0 then .error .reservedField else .ok (.capd a b)
  else if minor == 4 then if d != 0 then .error .reservedField else .ok (.capx a b)
  else if minor == 5 then if d != 0 then .error .reservedField else .ok (.fwait a b)
  else if minor == 6 then .ok (.ftest d a b)
  else if minor == 7 then if d != 0 || b != 0 then .error .reservedField else .ok (.trig a)
  else if minor == 8 then if d != 0 || b != 0 then .error .reservedField else .ok (.launch a)
  else if minor == 9 then if d != 0 then .error .reservedField else .ok (.tlw a b)
  else .error .unassignedMinor

/-- The plain I shape: d, a and an 11-bit immediate (R47). -/
def decodeShapeI (k : Slot → Slot → BitVec 11 → Instr) (w : W32) : Except DecErr Instr :=
  .ok (k (fld w 18 7) (fld w 11 7) (fld w 0 11))
/-- Layout IR: rm, type, b (R48). -/
def decodeIR (k : Slot → Slot → Slot → FType → Rm → Instr) (w : W32) : Except DecErr Instr :=
  match Rm.ofCode (fld w 8 3) with
  | some rm => .ok (k (fld w 18 7) (fld w 11 7) (fld w 0 7) (FType.ofBit (w.getLsbD 7)) rm)
  | none => .error .badRounding
/-- Layout IC: to, from, rm (R48). -/
def decodeIC (k : Slot → Slot → PFmt → PFmt → Rm → Instr) (w : W32) : Except DecErr Instr :=
  match PFmt.ofCode (fld w 7 4), PFmt.ofCode (fld w 3 4), Rm.ofCode (fld w 0 3) with
  | some t, some f, some rm => .ok (k (fld w 18 7) (fld w 11 7) t f rm)
  | some _, some _, none => .error .badRounding
  | _, _, _ => .error .badCombination
/-- Layout IP of IDP (R48). -/
def decodeIP (w : W32) : Except DecErr Instr :=
  let k := if w.getLsbD 7 then Instr.idp8 else Instr.idp4
  .ok (k (fld w 18 7) (fld w 11 7) (fld w 0 7) (w.getLsbD 10) (w.getLsbD 9) (w.getLsbD 8))
/-- Layout IS of SHI (R48, R72). -/
def decodeIS (w : W32) : Except DecErr Instr :=
  if fld w 7 4 != 0 then .error .reservedField
  else
    let op := fld w 5 2
    let k := if op == 0 then Instr.shli else if op == 1 then Instr.shri else if op == 2 then Instr.srai else Instr.rori
    .ok (k (fld w 18 7) (fld w 11 7) (fld w 0 5))
/-- Layout IX of BFX and BFI (R48, R73): the sx bit of BFI is reserved. -/
def decodeBfi (w : W32) : Except DecErr Instr :=
  if w.getLsbD 10 then .error .reservedField
  else .ok (.bfi (fld w 18 7) (fld w 11 7) (fld w 5 5) (fld w 0 5))
/-- Layout IN of CVTI (R48, R86): sat is an ITOF field only. -/
def decodeIN (w : W32) : Except DecErr Instr :=
  match FFmt.ofCode (fld w 4 4), Rm.ofCode (fld w 0 3) with
  | some f, some rm =>
    if w.getLsbD 8 then
      if w.getLsbD 3 then .error .badCombination
      else .ok (.cvtiFtoi (fld w 18 7) (fld w 11 7) (IntKind.ofCode (fld w 9 2)) f rm)
    else .ok (.cvtiItof (fld w 18 7) (fld w 11 7) (IntKind.ofCode (fld w 9 2)) f (w.getLsbD 3) rm)
  | some _, none => .error .badRounding
  | none, _ => .error .badCombination
/-- Shape B (R47). -/
def decodeB (k : Slot → BitVec 18 → Instr) (w : W32) : Except DecErr Instr :=
  .ok (k (fld w 18 7) (fld w 0 18))
/-- LOI: imm18[17:14] is reserved (R50). -/
def decodeLoi (w : W32) : Except DecErr Instr :=
  if fld w 14 4 != 0 then .error .reservedField else .ok (.loi (fld w 18 7) (fld w 0 14))
/-- Layout IB of BAR (R48, R50): BAR.sync has d and a reserved. -/
def decodeIB (w : W32) : Except DecErr Instr :=
  if fld w 4 3 != 0 then .error .reservedField
  else
    let op := fld w 7 4
    let d := fld w 18 7
    let a := fld w 11 7
    let n := fld w 0 4
    if op == 0 then (if d != 0 || a != 0 then .error .reservedField else .ok (.barSync n))
    else if op == 1 then .ok (.barAddI32 d a n)
    else if op == 2 then .ok (.barAddF32 d a n)
    else if op == 3 then .ok (.barMinI32 d a n)
    else if op == 4 then .ok (.barMinN32 d a n)
    else if op == 5 then .ok (.barMinF32 d a n)
    else if op == 6 then .ok (.barMaxI32 d a n)
    else if op == 7 then .ok (.barMaxN32 d a n)
    else if op == 8 then .ok (.barMaxF32 d a n)
    else if op == 9 then .ok (.barAnd d a n)
    else if op == 10 then .ok (.barOr d a n)
    else if op == 11 then .ok (.barXor d a n)
    else if op == 12 then .ok (.barScanI32 d a n)
    else if op == 13 then .ok (.barXscanI32 d a n)
    else if op == 14 then .ok (.barScanF32 d a n)
    else .ok (.barXscanF32 d a n)
/-- Layout T of ACCRD and ACCWR (R48). -/
def decodeT (k : Slot → Slot → BitVec 4 → Bool → BitVec 6 → Instr) (w : W32) : Except DecErr Instr :=
  .ok (k (fld w 18 7) (fld w 11 7) (fld w 7 4) (w.getLsbD 6) (fld w 0 6))
/-- Layout IT of ACCM (R48): d is reserved and ops 2 and 3 are unassigned. -/
def decodeIT (w : W32) : Except DecErr Instr :=
  if fld w 18 7 != 0 then .error .reservedField
  else
    let op := fld w 9 2
    if op == 0 then .ok (.accz (fld w 11 7) (fld w 0 9))
    else if op == 1 then .ok (.accwait (fld w 11 7) (fld w 0 9))
    else .error .unassignedSelector
/-- Layout IM of a load major (R48, R50). -/
def decodeLd (k : Slot → Slot → LdKind → BitVec 8 → Instr) (w : W32) : Except DecErr Instr :=
  match LdKind.ofCode (fld w 8 3) with
  | some kd => .ok (k (fld w 18 7) (fld w 11 7) kd (fld w 0 8))
  | none => .error .unassignedSelector
/-- Layout IM of a store major (R48, R50). -/
def decodeSt (k : Slot → Slot → StKind → BitVec 8 → Instr) (w : W32) : Except DecErr Instr :=
  match StKind.ofCode (fld w 8 3) with
  | some kd => .ok (k (fld w 18 7) (fld w 11 7) kd (fld w 0 8))
  | none => .error .unassignedSelector
/-- The kinds of WMEM (R50). -/
def decodeWmem (w : W32) : Except DecErr Instr :=
  let kd := fld w 8 3
  let d := fld w 18 7
  let a := fld w 11 7
  let f := fld w 0 8
  if kd == 0 then .ok (.ldw d a f)
  else if kd == 1 then .ok (.stw d a f)
  else if kd == 2 then .ok (.ldws d a f)
  else if kd == 3 then .ok (.stws d a f)
  else if kd == 4 then .ok (.ldwp d a f)
  else if kd == 5 then .ok (.stwp d a f)
  else .error .unassignedSelector
/-- The kinds of QMEM (R50). -/
def decodeQmem (w : W32) : Except DecErr Instr :=
  let kd := fld w 8 3
  let d := fld w 18 7
  let a := fld w 11 7
  let f := fld w 0 8
  if kd == 0 then .ok (.ldq d a f)
  else if kd == 1 then .ok (.stq d a f)
  else if kd == 2 then .ok (.ldqs d a f)
  else if kd == 3 then .ok (.stqs d a f)
  else .error .unassignedSelector
/-- The kinds of CPYREQ (R50). -/
def decodeCpy (w : W32) : Except DecErr Instr :=
  let kd := fld w 8 3
  if kd == 0 then .ok (.cpyreq (fld w 18 7) (fld w 11 7) (fld w 0 8))
  else if kd == 1 then .ok (.cpyreqw (fld w 18 7) (fld w 11 7) (fld w 0 8))
  else .error .unassignedSelector
/-- The op field of ATOM (R50). -/
def atomOf (op : BitVec 4) : Option (Slot → Slot → MOrder → MScope → Instr) :=
  if op == 0 then some .atomAdd
  else if op == 1 then some .atomMinI32
  else if op == 2 then some .atomMinN32
  else if op == 3 then some .atomMaxI32
  else if op == 4 then some .atomMaxN32
  else if op == 5 then some .atomAnd
  else if op == 6 then some .atomOr
  else if op == 7 then some .atomXor
  else if op == 8 then some .atomXchg
  else if op == 9 then some .atomCas
  else if op == 10 then some .atomInc
  else if op == 11 then some .atomFadd
  else if op == 12 then some .atomBf16x2
  else if op == 13 then some .facc
  else if op == 14 then some .atomLd
  else if op == 15 then some .atomSt
  else none
/-- The op field of ATOMS (R50). -/
def atomsOf (op : BitVec 4) : Option (Slot → Slot → MOrder → MScope → Instr) :=
  if op == 0 then some .atomsAdd
  else if op == 1 then some .atomsMinI32
  else if op == 2 then some .atomsMinN32
  else if op == 3 then some .atomsMaxI32
  else if op == 4 then some .atomsMaxN32
  else if op == 5 then some .atomsAnd
  else if op == 6 then some .atomsOr
  else if op == 7 then some .atomsXor
  else if op == 8 then some .atomsXchg
  else if op == 9 then some .atomsCas
  else if op == 10 then some .atomsInc
  else if op == 11 then some .atomsFadd
  else if op == 12 then some .atomsBf16x2
  else if op == 14 then some .atomsLd
  else if op == 15 then some .atomsSt
  else none
/-- Layout IO of the atomics (R48, R50). -/
def decodeIO (of : BitVec 4 → Option (Slot → Slot → MOrder → MScope → Instr)) (w : W32) :
    Except DecErr Instr :=
  if fld w 0 2 != 0 then .error .reservedField
  else
    match of (fld w 7 4), MScope.ofCode (fld w 2 3) with
    | some k, some sc => .ok (k (fld w 18 7) (fld w 11 7) (MOrder.ofCode (fld w 5 2)) sc)
    | none, _ => .error .unassignedSelector
    | some _, none => .error .badCombination

/-- The run-end flag E of a word (R46). -/
def runEnd (w : W32) : Bool := w.getLsbD 31

/-- The opcode map (R50), before the operand kinds are checked. -/
def decodeRaw (w : W32) : Except DecErr Instr :=
  let major := fld w 25 6
  let minor := fld w 21 4
  let d := fld w 14 7
  let a := fld w 7 7
  let b := fld w 0 7
  if major == 0x01 then decodeMajor01 minor d a b
  else if major == 0x02 then decodeMajor02 minor d a b
  else if major == 0x03 then decodeMajor03 minor d a b
  else if major == 0x04 then decodeShapeI Instr.addi w
  else if major == 0x05 then decodeShapeI Instr.andi w
  else if major == 0x06 then decodeShapeI Instr.ori w
  else if major == 0x07 then decodeShapeI Instr.xori w
  else if major == 0x08 then decodeShapeI Instr.sltiI32 w
  else if major == 0x09 then decodeShapeI Instr.sltiN32 w
  else if major == 0x0A then decodeIS w
  else if major == 0x0B then .ok (.bfx (fld w 18 7) (fld w 11 7) (w.getLsbD 10) (fld w 5 5) (fld w 0 5))
  else if major == 0x0C then decodeBfi w
  else if major == 0x0D then decodeShapeI Instr.addiI64 w
  else if major == 0x0E then .ok (.lui (fld w 18 7) (fld w 0 18))
  else if major == 0x0F then decodeLoi w
  else if major == 0x10 then decodeIR Instr.fadd w
  else if major == 0x11 then decodeIR Instr.fsub w
  else if major == 0x12 then decodeIR Instr.fmul w
  else if major == 0x13 then decodeIR Instr.ffma w
  else if major == 0x14 then decodeMajor14 minor d a b
  else if major == 0x15 then decodeMajor15 minor d a b
  else if major == 0x16 then decodeIP w
  else if major == 0x17 then decodeIC Instr.cvt w
  else if major == 0x18 then decodeIC Instr.cvts w
  else if major == 0x19 then decodeIN w
  else if major == 0x1A then decodeB Instr.br w
  else if major == 0x1B then decodeB Instr.brz w
  else if major == 0x1C then decodeB Instr.call w
  else if major == 0x1D then decodeMajor1D minor d a b
  else if major == 0x1E then decodeMajor1E minor d a b
  else if major == 0x1F then decodeMajor1F minor d a b
  else if major == 0x20 then decodeMajor20 minor d a b
  else if major == 0x21 then decodeMajor21 minor d a b
  else if major == 0x22 then decodeMajor22 minor d a b
  else if major == 0x23 then decodeIB w
  else if major == 0x24 then decodeMajor24 minor d a b
  else if major == 0x25 then decodeT Instr.accrd w
  else if major == 0x26 then decodeT Instr.accwr w
  else if major == 0x27 then decodeIT w
  else if major == 0x28 then decodeLd Instr.ld w
  else if major == 0x29 then decodeSt Instr.st w
  else if major == 0x2A then decodeLd Instr.lds w
  else if major == 0x2B then decodeSt Instr.sts w
  else if major == 0x2C then decodeLd Instr.ldp w
  else if major == 0x2D then decodeSt Instr.stp w
  else if major == 0x2E then decodeLd Instr.ldro w
  else if major == 0x2F then decodeWmem w
  else if major == 0x30 then decodeQmem w
  else if major == 0x31 then decodeIO atomOf w
  else if major == 0x32 then decodeIO atomsOf w
  else if major == 0x33 then decodeMajor33 minor d a b
  else if major == 0x34 then decodeMajor34 minor d a b
  else if major == 0x35 then decodeMajor35 minor d a b
  else if major == 0x36 then decodeCpy w
  else if major == 0x37 then decodeMajor37 minor d a b
  else if major == 0x38 then decodeMajor38 minor d a b
  else .error .unassignedMajor

/-- The decoder: a word is an instruction when the opcode map assigns it, its reserved fields are zero and its
operands satisfy their kinds (R53 items 1 to 6); every other word is rejected by name. -/
def decodeWord (w : W32) : Except DecErr Instr :=
  match decodeRaw w with
  | .ok i => if i.wf then .ok i else .error .badOperand
  | .error r => .error r

/-- Four bytes as the little-endian word they hold (R4, R46). -/
def wordOfBytes (b0 b1 b2 b3 : Byte) : W32 := b3 ++ b2 ++ b1 ++ b0

/-- Decoding of a byte string: one instruction from its first four bytes, and the rest. -/
def decodeBytes : Bytes → Except DecErr (Instr × Bytes)
  | b0 :: b1 :: b2 :: b3 :: rest =>
    match decodeWord (wordOfBytes b0 b1 b2 b3) with
    | .ok i => .ok (i, rest)
    | .error r => .error r
  | _ => .error .shortInput

/-- The four bytes of a word, lowest address first (R4). -/
def bytesOfWord (w : W32) : Bytes := [fld w 0 8, fld w 8 8, fld w 16 8, fld w 24 8]

/-- The instruction the decoder reads from the bits `w` of an opcode-table row; every instruction is one 32-bit word,
so the bits above `nbits` are zero. -/
def decodeTableWord (nbits w : Nat) : Option Instr :=
  match decodeBytes (bytesOfWord (BitVec.ofNat 32 (w % 2 ^ nbits))) with
  | .ok (i, _) => some i
  | .error _ => none

/-! The encoder. -/

/-- One bit as a bit vector. -/
def bit1 (b : Bool) : BitVec 1 := BitVec.ofBool b
/-- Shape F (R47). -/
def encF (e : Bool) (major : BitVec 6) (minor : BitVec 4) (d a b : Slot) : W32 :=
  bit1 e ++ major ++ minor ++ d ++ a ++ b
/-- Shape I (R47). -/
def encI (e : Bool) (major : BitVec 6) (d a : Slot) (imm : BitVec 11) : W32 := bit1 e ++ major ++ d ++ a ++ imm
/-- Shapes B and U (R47). -/
def encB (e : Bool) (major : BitVec 6) (c : Slot) (off : BitVec 18) : W32 := bit1 e ++ major ++ c ++ off
/-- Layout IR (R48). -/
def encIR (e : Bool) (major : BitVec 6) (d a b : Slot) (ty : FType) (rm : Rm) : W32 :=
  encI e major d a (rm.code ++ bit1 ty.bit ++ b)
/-- Layout IO (R48). -/
def encIO (e : Bool) (major : BitVec 6) (op : BitVec 4) (d a : Slot) (o : MOrder) (sc : MScope) : W32 :=
  encI e major d a (op ++ o.code ++ sc.code ++ (0 : BitVec 2))

/-- The word of an instruction, written from R47, R48, R50 and R51; the other agents' steps have no word. -/
def encode (e : Bool) : Instr → Option W32
  | .add d a b => some (encF e 0x01 0 d a b)
  | .sub d a b => some (encF e 0x01 1 d a b)
  | .mullo d a b => some (encF e 0x01 2 d a b)
  | .mulhiI32 d a b => some (encF e 0x01 3 d a b)
  | .mulhiN32 d a b => some (encF e 0x01 4 d a b)
  | .minI32 d a b => some (encF e 0x01 5 d a b)
  | .minN32 d a b => some (encF e 0x01 6 d a b)
  | .maxI32 d a b => some (encF e 0x01 7 d a b)
  | .maxN32 d a b => some (encF e 0x01 8 d a b)
  | .and d a b => some (encF e 0x01 9 d a b)
  | .or d a b => some (encF e 0x01 10 d a b)
  | .xor d a b => some (encF e 0x01 11 d a b)
  | .shl d a b => some (encF e 0x01 12 d a b)
  | .shr d a b => some (encF e 0x01 13 d a b)
  | .sra d a b => some (encF e 0x01 14 d a b)
  | .rol d a b => some (encF e 0x01 15 d a b)
  | .ror d a b => some (encF e 0x02 0 d a b)
  | .abs d a => some (encF e 0x02 1 d a 0)
  | .clz d a => some (encF e 0x02 2 d a 0)
  | .ctz d a => some (encF e 0x02 3 d a 0)
  | .popc d a => some (encF e 0x02 4 d a 0)
  | .brev d a => some (encF e 0x02 5 d a 0)
  | .bswap d a => some (encF e 0x02 6 d a 0)
  | .andn d a b => some (encF e 0x02 7 d a b)
  | .mad d a b => some (encF e 0x02 8 d a b)
  | .sel d a b => some (encF e 0x02 9 d a b)
  | .seq d a b => some (encF e 0x02 10 d a b)
  | .sne d a b => some (encF e 0x02 11 d a b)
  | .sltI32 d a b => some (encF e 0x02 12 d a b)
  | .sltN32 d a b => some (encF e 0x02 13 d a b)
  | .sleI32 d a b => some (encF e 0x02 14 d a b)
  | .sleN32 d a b => some (encF e 0x02 15 d a b)
  | .addI64 d a b => some (encF e 0x03 0 d a b)
  | .subI64 d a b => some (encF e 0x03 1 d a b)
  | .mulloI64 d a b => some (encF e 0x03 2 d a b)
  | .mulwI32 d a b => some (encF e 0x03 3 d a b)
  | .mulwN32 d a b => some (encF e 0x03 4 d a b)
  | .minI64 d a b => some (encF e 0x03 5 d a b)
  | .minN64 d a b => some (encF e 0x03 6 d a b)
  | .maxI64 d a b => some (encF e 0x03 7 d a b)
  | .maxN64 d a b => some (encF e 0x03 8 d a b)
  | .shlI64 d a b => some (encF e 0x03 9 d a b)
  | .shrI64 d a b => some (encF e 0x03 10 d a b)
  | .sraI64 d a b => some (encF e 0x03 11 d a b)
  | .seqI64 d a b => some (encF e 0x03 12 d a b)
  | .sltI64 d a b => some (encF e 0x03 13 d a b)
  | .sltN64 d a b => some (encF e 0x03 14 d a b)
  | .addx d a b => some (encF e 0x03 15 d a b)
  | .addi d a imm => some (encI e 0x04 d a imm)
  | .andi d a imm => some (encI e 0x05 d a imm)
  | .ori d a imm => some (encI e 0x06 d a imm)
  | .xori d a imm => some (encI e 0x07 d a imm)
  | .sltiI32 d a imm => some (encI e 0x08 d a imm)
  | .sltiN32 d a imm => some (encI e 0x09 d a imm)
  | .shli d a n => some (encI e 0x0A d a ((0 : BitVec 4) ++ (0 : BitVec 2) ++ n))
  | .shri d a n => some (encI e 0x0A d a ((0 : BitVec 4) ++ (1 : BitVec 2) ++ n))
  | .srai d a n => some (encI e 0x0A d a ((0 : BitVec 4) ++ (2 : BitVec 2) ++ n))
  | .rori d a n => some (encI e 0x0A d a ((0 : BitVec 4) ++ (3 : BitVec 2) ++ n))
  | .bfx d a sx pos len1 => some (encI e 0x0B d a (bit1 sx ++ pos ++ len1))
  | .bfi d a pos len1 => some (encI e 0x0C d a ((0 : BitVec 1) ++ pos ++ len1))
  | .addiI64 d a imm => some (encI e 0x0D d a imm)
  | .lui d imm => some (encB e 0x0E d imm)
  | .loi d imm => some (encB e 0x0F d ((0 : BitVec 4) ++ imm))
  | .fadd d a b ty rm => some (encIR e 0x10 d a b ty rm)
  | .fsub d a b ty rm => some (encIR e 0x11 d a b ty rm)
  | .fmul d a b ty rm => some (encIR e 0x12 d a b ty rm)
  | .ffma d a b ty rm => some (encIR e 0x13 d a b ty rm)
  | .fmin d a b => some (encF e 0x14 0 d a b)
  | .fmax d a b => some (encF e 0x14 1 d a b)
  | .fneg d a => some (encF e 0x14 2 d a 0)
  | .fabs d a => some (encF e 0x14 3 d a 0)
  | .fcps d a b => some (encF e 0x14 4 d a b)
  | .fseq d a b => some (encF e 0x14 5 d a b)
  | .fslt d a b => some (encF e 0x14 6 d a b)
  | .fsle d a b => some (encF e 0x14 7 d a b)
  | .fsun d a b => some (encF e 0x14 8 d a b)
  | .frcp d a => some (encF e 0x14 9 d a 0)
  | .frsq d a => some (encF e 0x14 10 d a 0)
  | .fsqrt d a => some (encF e 0x14 11 d a 0)
  | .fex2 d a => some (encF e 0x14 12 d a 0)
  | .flg2 d a => some (encF e 0x14 13 d a 0)
  | .fsin d a => some (encF e 0x14 14 d a 0)
  | .fcos d a => some (encF e 0x14 15 d a 0)
  | .haddBf16 d a b => some (encF e 0x15 0 d a b)
  | .hsubBf16 d a b => some (encF e 0x15 1 d a b)
  | .hmulBf16 d a b => some (encF e 0x15 2 d a b)
  | .hfmaBf16 d a b => some (encF e 0x15 3 d a b)
  | .hminBf16 d a b => some (encF e 0x15 4 d a b)
  | .hmaxBf16 d a b => some (encF e 0x15 5 d a b)
  | .haddF16 d a b => some (encF e 0x15 6 d a b)
  | .hsubF16 d a b => some (encF e 0x15 7 d a b)
  | .hmulF16 d a b => some (encF e 0x15 8 d a b)
  | .hfmaF16 d a b => some (encF e 0x15 9 d a b)
  | .hminF16 d a b => some (encF e 0x15 10 d a b)
  | .hmaxF16 d a b => some (encF e 0x15 11 d a b)
  | .bdot2 d a b => some (encF e 0x15 12 d a b)
  | .pk2Bf16 d a b => some (encF e 0x15 13 d a b)
  | .pk2F16 d a b => some (encF e 0x15 14 d a b)
  | .idp4 d a b sat sa sb => some (encI e 0x16 d a (bit1 sat ++ bit1 sa ++ bit1 sb ++ (0 : BitVec 1) ++ b))
  | .idp8 d a b sat sa sb => some (encI e 0x16 d a (bit1 sat ++ bit1 sa ++ bit1 sb ++ (1 : BitVec 1) ++ b))
  | .cvt d a tf sf rm => some (encI e 0x17 d a (tf.code ++ sf.code ++ rm.code))
  | .cvts d a tf sf rm => some (encI e 0x18 d a (tf.code ++ sf.code ++ rm.code))
  | .cvtiItof d a int fmt sat rm => some (encI e 0x19 d a (int.code ++ (0 : BitVec 1) ++ fmt.code ++ bit1 sat ++ rm.code))
  | .cvtiFtoi d a int fmt rm => some (encI e 0x19 d a (int.code ++ (1 : BitVec 1) ++ fmt.code ++ (0 : BitVec 1) ++ rm.code))
  | .br c off => some (encB e 0x1A c off)
  | .brz c off => some (encB e 0x1B c off)
  | .call d off => some (encB e 0x1C d off)
  | .jmp a => some (encF e 0x1D 0 0 a 0)
  | .callr d a => some (encF e 0x1D 1 d a 0)
  | .ret a => some (encF e 0x1D 2 0 a 0)
  | .nop  => some (encF e 0x1E 0 0 0 0)
  | .exit  => some (encF e 0x1E 1 0 0 0)
  | .yield  => some (encF e 0x1E 2 0 0 0)
  | .trap n => some (encF e 0x1E 3 0 0 n)
  | .brk n => some (encF e 0x1E 4 0 0 n)
  | .sys n => some (encF e 0x1E 5 0 0 n)
  | .eret  => some (encF e 0x1E 6 0 0 0)
  | .fenceI  => some (encF e 0x1E 7 0 0 0)
  | .halt  => some (encF e 0x1E 8 0 0 0)
  | .rdsr d sr => some (encF e 0x1F 0 d 0 sr.code)
  | .wrsr a sr => some (encF e 0x1F 1 0 a sr.code)
  | .wbase v => some (encF e 0x1F 2 0 0 v)
  | .wbadd v => some (encF e 0x1F 3 0 0 v)
  | .wadd d a b => some (encF e 0x20 0 d a b)
  | .wsub d a b => some (encF e 0x20 1 d a b)
  | .wmul d a b => some (encF e 0x20 2 d a b)
  | .wfma d a b => some (encF e 0x20 3 d a b)
  | .wmin d a b => some (encF e 0x20 4 d a b)
  | .wmax d a b => some (encF e 0x20 5 d a b)
  | .watt d a b => some (encF e 0x20 6 d a b)
  | .wmov d a => some (encF e 0x20 7 d a 0)
  | .whsum d a => some (encF e 0x20 8 d a 0)
  | .wdot d a b => some (encF e 0x20 9 d a b)
  | .wsplat d a => some (encF e 0x20 10 d a 0)
  | .wext d a k => some (encF e 0x20 11 d a ((0 : BitVec 5) ++ k))
  | .wins d a k => some (encF e 0x20 12 d a ((0 : BitVec 5) ++ k))
  | .wpack d a => some (encF e 0x20 13 d a 0)
  | .wmuellerG d a b => some (encF e 0x20 14 d a b)
  | .wmuellerW d a b => some (encF e 0x20 15 d a b)
  | .qsampF32 d a b => some (encF e 0x21 0 d a b)
  | .qsampN32 d a b => some (encF e 0x21 1 d a b)
  | .join a => some (encF e 0x22 0 0 a 0)
  | .leave  => some (encF e 0x22 1 0 0 0)
  | .shflIdx d a b => some (encF e 0x22 2 d a b)
  | .shflUp d a b => some (encF e 0x22 3 d a b)
  | .shflDown d a b => some (encF e 0x22 4 d a b)
  | .shflXor d a b => some (encF e 0x22 5 d a b)
  | .voteAny d a => some (encF e 0x22 6 d a 0)
  | .voteAll d a => some (encF e 0x22 7 d a 0)
  | .voteBallot d a => some (encF e 0x22 8 d a 0)
  | .barSync nb => some (encI e 0x23 0 0 ((0 : BitVec 7) ++ nb))
  | .barAddI32 d a nb => some (encI e 0x23 d a ((1 : BitVec 4) ++ (0 : BitVec 3) ++ nb))
  | .barAddF32 d a nb => some (encI e 0x23 d a ((2 : BitVec 4) ++ (0 : BitVec 3) ++ nb))
  | .barMinI32 d a nb => some (encI e 0x23 d a ((3 : BitVec 4) ++ (0 : BitVec 3) ++ nb))
  | .barMinN32 d a nb => some (encI e 0x23 d a ((4 : BitVec 4) ++ (0 : BitVec 3) ++ nb))
  | .barMinF32 d a nb => some (encI e 0x23 d a ((5 : BitVec 4) ++ (0 : BitVec 3) ++ nb))
  | .barMaxI32 d a nb => some (encI e 0x23 d a ((6 : BitVec 4) ++ (0 : BitVec 3) ++ nb))
  | .barMaxN32 d a nb => some (encI e 0x23 d a ((7 : BitVec 4) ++ (0 : BitVec 3) ++ nb))
  | .barMaxF32 d a nb => some (encI e 0x23 d a ((8 : BitVec 4) ++ (0 : BitVec 3) ++ nb))
  | .barAnd d a nb => some (encI e 0x23 d a ((9 : BitVec 4) ++ (0 : BitVec 3) ++ nb))
  | .barOr d a nb => some (encI e 0x23 d a ((10 : BitVec 4) ++ (0 : BitVec 3) ++ nb))
  | .barXor d a nb => some (encI e 0x23 d a ((11 : BitVec 4) ++ (0 : BitVec 3) ++ nb))
  | .barScanI32 d a nb => some (encI e 0x23 d a ((12 : BitVec 4) ++ (0 : BitVec 3) ++ nb))
  | .barXscanI32 d a nb => some (encI e 0x23 d a ((13 : BitVec 4) ++ (0 : BitVec 3) ++ nb))
  | .barScanF32 d a nb => some (encI e 0x23 d a ((14 : BitVec 4) ++ (0 : BitVec 3) ++ nb))
  | .barXscanF32 d a nb => some (encI e 0x23 d a ((15 : BitVec 4) ++ (0 : BitVec 3) ++ nb))
  | .mma d a b => some (encF e 0x24 0 d a b)
  | .vxm d a b => some (encF e 0x24 1 d a b)
  | .accrd d a t col i => some (encI e 0x25 d a (t ++ bit1 col ++ i))
  | .accwr d a t col i => some (encI e 0x26 d a (t ++ bit1 col ++ i))
  | .accz a t => some (encI e 0x27 0 a ((0 : BitVec 2) ++ t))
  | .accwait a t => some (encI e 0x27 0 a ((1 : BitVec 2) ++ t))
  | .ld d a k off => some (encI e 0x28 d a (k.code ++ off))
  | .st d a k off => some (encI e 0x29 d a (k.code ++ off))
  | .lds d a k off => some (encI e 0x2A d a (k.code ++ off))
  | .sts d a k off => some (encI e 0x2B d a (k.code ++ off))
  | .ldp d a k off => some (encI e 0x2C d a (k.code ++ off))
  | .stp d a k off => some (encI e 0x2D d a (k.code ++ off))
  | .ldro d a k off => some (encI e 0x2E d a (k.code ++ off))
  | .ldw d a off => some (encI e 0x2F d a ((0 : BitVec 3) ++ off))
  | .stw d a off => some (encI e 0x2F d a ((1 : BitVec 3) ++ off))
  | .ldws d a off => some (encI e 0x2F d a ((2 : BitVec 3) ++ off))
  | .stws d a off => some (encI e 0x2F d a ((3 : BitVec 3) ++ off))
  | .ldwp d a off => some (encI e 0x2F d a ((4 : BitVec 3) ++ off))
  | .stwp d a off => some (encI e 0x2F d a ((5 : BitVec 3) ++ off))
  | .ldq d a off => some (encI e 0x30 d a ((0 : BitVec 3) ++ off))
  | .stq d a off => some (encI e 0x30 d a ((1 : BitVec 3) ++ off))
  | .ldqs d a off => some (encI e 0x30 d a ((2 : BitVec 3) ++ off))
  | .stqs d a off => some (encI e 0x30 d a ((3 : BitVec 3) ++ off))
  | .atomAdd d a ord sc => some (encIO e 0x31 0 d a ord sc)
  | .atomMinI32 d a ord sc => some (encIO e 0x31 1 d a ord sc)
  | .atomMinN32 d a ord sc => some (encIO e 0x31 2 d a ord sc)
  | .atomMaxI32 d a ord sc => some (encIO e 0x31 3 d a ord sc)
  | .atomMaxN32 d a ord sc => some (encIO e 0x31 4 d a ord sc)
  | .atomAnd d a ord sc => some (encIO e 0x31 5 d a ord sc)
  | .atomOr d a ord sc => some (encIO e 0x31 6 d a ord sc)
  | .atomXor d a ord sc => some (encIO e 0x31 7 d a ord sc)
  | .atomXchg d a ord sc => some (encIO e 0x31 8 d a ord sc)
  | .atomCas d a ord sc => some (encIO e 0x31 9 d a ord sc)
  | .atomInc d a ord sc => some (encIO e 0x31 10 d a ord sc)
  | .atomFadd d a ord sc => some (encIO e 0x31 11 d a ord sc)
  | .atomBf16x2 d a ord sc => some (encIO e 0x31 12 d a ord sc)
  | .facc d a ord sc => some (encIO e 0x31 13 d a ord sc)
  | .atomLd d a ord sc => some (encIO e 0x31 14 d a ord sc)
  | .atomSt d a ord sc => some (encIO e 0x31 15 d a ord sc)
  | .atomsAdd d a ord sc => some (encIO e 0x32 0 d a ord sc)
  | .atomsMinI32 d a ord sc => some (encIO e 0x32 1 d a ord sc)
  | .atomsMinN32 d a ord sc => some (encIO e 0x32 2 d a ord sc)
  | .atomsMaxI32 d a ord sc => some (encIO e 0x32 3 d a ord sc)
  | .atomsMaxN32 d a ord sc => some (encIO e 0x32 4 d a ord sc)
  | .atomsAnd d a ord sc => some (encIO e 0x32 5 d a ord sc)
  | .atomsOr d a ord sc => some (encIO e 0x32 6 d a ord sc)
  | .atomsXor d a ord sc => some (encIO e 0x32 7 d a ord sc)
  | .atomsXchg d a ord sc => some (encIO e 0x32 8 d a ord sc)
  | .atomsCas d a ord sc => some (encIO e 0x32 9 d a ord sc)
  | .atomsInc d a ord sc => some (encIO e 0x32 10 d a ord sc)
  | .atomsFadd d a ord sc => some (encIO e 0x32 11 d a ord sc)
  | .atomsBf16x2 d a ord sc => some (encIO e 0x32 12 d a ord sc)
  | .atomsLd d a ord sc => some (encIO e 0x32 14 d a ord sc)
  | .atomsSt d a ord sc => some (encIO e 0x32 15 d a ord sc)
  | .fence sc => some (encF e 0x33 0 0 0 ((0 : BitVec 4) ++ sc.code))
  | .fenceX sc paths => some (encF e 0x33 1 0 ((0 : BitVec 4) ++ sc.code) ((0 : BitVec 2) ++ paths))
  | .tex d a => some (encF e 0x34 0 d a 0)
  | .texw d a b => some (encF e 0x34 1 d a b)
  | .texl d a => some (encF e 0x34 2 d a 0)
  | .boxt d a b => some (encF e 0x35 0 d a b)
  | .trit d a b => some (encF e 0x35 1 d a b)
  | .xfrm d a b => some (encF e 0x35 2 d a b)
  | .cpyreq d a off => some (encI e 0x36 d a ((0 : BitVec 3) ++ off))
  | .cpyreqw d a off => some (encI e 0x36 d a ((1 : BitVec 3) ++ off))
  | .nbarInit a nb => some (encF e 0x37 0 0 a ((0 : BitVec 3) ++ nb))
  | .nbarArrive nb => some (encF e 0x37 1 0 0 ((0 : BitVec 3) ++ nb))
  | .nbarExpect a nb => some (encF e 0x37 2 0 a ((0 : BitVec 3) ++ nb))
  | .nbarWait a nb => some (encF e 0x37 3 0 a ((0 : BitVec 3) ++ nb))
  | .nbarTest d a nb => some (encF e 0x37 4 d a ((0 : BitVec 3) ++ nb))
  | .emit d a b => some (encF e 0x38 0 d a b)
  | .recv d b => some (encF e 0x38 1 d 0 b)
  | .capk a b => some (encF e 0x38 2 0 a b)
  | .capd a b => some (encF e 0x38 3 0 a b)
  | .capx a b => some (encF e 0x38 4 0 a b)
  | .fwait a b => some (encF e 0x38 5 0 a b)
  | .ftest d a b => some (encF e 0x38 6 d a b)
  | .trig a => some (encF e 0x38 7 0 a 0)
  | .launch a => some (encF e 0x38 8 0 a 0)
  | .tlw a b => some (encF e 0x38 9 0 a b)
  | .slotArbitration => none
  | .groupFormation => none
  | .loadReturn => none
  | .qsampResult => none
  | .packetResult => none
  | .queueDeadlock => none
  | .gatherClose => none
  | .mmaStart => none
  | .mmaSuspend => none
  | .mmaComplete => none
  | .vxmComplete => none
  | .scoreDecay => none
  | .l2Request => none
  | .retryResend => none
  | .tableWalk => none
  | .cohortPlacement => none
  | .cohortComplete => none
  | .completionRecord => none
  | .copyTakeUp => none
  | .copyLastBeat => none
  | .multicastParked => none
  | .multicastDrain => none
  | .flueBatchApply => none
  | .counterFire => none
  | .frameTriggerFire => none
  | .haltLineArrival => none
  | .stopComplete => none
  | .scratchUncorrectable => none
  | .softError => none
  | .create => none
  | .resume => none
  | .preempt => none
  | .preemptDrained => none
  | .preemptSaved => none
  | .switchout => none
  | .switchoutComplete => none
  | .switchin => none
  | .destroy => none
  | .ctxHalt => none
  | .tlbinv => none
  | .tlbinvComplete => none
  | .hostpt => none
  | .hostClose => none
  | .hostDoorbell => none
  | .hostRecord => none
  | .partitionEntryWrite => none
  | .frameTriggerEnable => none
  | .frameTriggerDisable => none
  | .stepi => none
  | .stepr => none
  | .stepEnd => none
  | .causalTrialStart => none
  | .causalTrialEnd => none
  | .smpctlWrite => none
  | .stallSample => none
  | .rdctlWrite => none
  | .rplbaseWrite => none
  | .attgo => none
  | .attestationComplete => none
  | .podJoin => none
  | .podLeave => none
  | .podResume => none
  | .haltMessage => none
  | .causeMessage => none
  | .prepMessage => none
  | .confirmMessage => none
  | .resentMessage => none
  | .releaseMessage => none
  | .releaseTimeReached => none
  | .flueMessage => none
  | .digestMessage => none
  | .fenceMessage => none
  | .confirmTimeout => none
  | .digestCompute => none
  | .digestTimeout => none
  | .ualinkDataMessage => none
  | .dataAcknowledge => none
  | .remoteResponseTimeout => none
  | .chunkLanding => none
  | .collectiveMemberTimeout => none
  | .linkDown => none
  | .ptpSync => none
  | .ptpSyncTimeout => none
  | .ppsInput => none
  | .ppsOutput => none
  | .freezeAssert => none
  | .freezeRelease => none
  | .extest => none
  | .idcode => none
  | .samplePreload => none
  | .bypass => none
  | .scanout => none
  | .powerThrottle => none
  | .thermalTrip => none
  | .boot => none
  | .windowAccess => none
  | .registerWrite => none
  | .textureResult => none
  | .rayTestResult => none
  | .createComplete => none
  | .switchinComplete => none
  | .throttleCauseClears => none
  | .ualinkPortUp => none
  | .joinConfirmation => none
  | .ppsInputLoss => none

end Sys2Proof
end

