-- ==== Sys2Proof/Machine/State.lean ====
section
/-! DEFINITION. The state of one Butrix Lanzor device: every piece of state the manual gives it, as plain data, the
faults and refusals of the model, and the state right after reset. -/

namespace Sys2Proof.Machine

/-- Why the model stops. No trap of the device is a fault here: traps are next states (R334, R337). -/
inductive Fault
  /-- Raised by a word instruction executed in a state in which no slot issues; no step reaches it. Safe. -/
  | noIssuingEntry
  /-- Raised by an access of the host or of a context command to a physical address at or above the capacity, which
  R183 never maps to a slice. Safe. -/
  | badPhysicalAddress
  deriving DecidableEq, Repr

/-- Why the model refuses an instruction. -/
inductive Refusal
  /-- An instruction that has no meaning yet. Safe. -/
  | notModelled (mnemonic : String)
  deriving DecidableEq, Repr

/-- A finite map in canonical form: keys strictly rising, no entry equal to the default. -/
abbrev Sparse (α : Type) := List (Nat × α)

/-! Names. -/

/-- A group: its cohort and %gid (R127). -/
structure GrpKey where
  ck : CohKey
  gid : Nat
  deriving DecidableEq, Repr
/-- A thread, or a stream of a thread pair: its cohort, %tid, and whether it is an address stream (R124). -/
structure ThKey where
  ck : CohKey
  tid : Nat
  addr : Bool
  deriving DecidableEq, Repr

/-! Threads, groups and frontiers. -/

/-- A thread pending at a JOIN (R128, R149): its key, the pc of its JOIN, and the clock it began to wait. -/
structure JoinWait where
  key : BitVec 16
  pc : W64
  since : Nat
  deriving DecidableEq, Repr

/-- The state of one thread or stream (R33 to R41, R94, R101). -/
structure Thread where
  key : ThKey
  role : Nat
  split : Bool
  gid : Nat
  gallot : Nat
  wallot : Nat
  regs : Sparse W32
  wregs : Sparse W128
  wb : Nat
  visit : W32
  status : W32
  trap : BitVec 8
  xpc : W64
  xsup : Bool
  time : W64
  phase : PhaseId
  exited : Bool
  join : Option JoinWait
  recSeq : Nat
  deriving DecidableEq, Repr

/-- What a blocked entry waits for (R135), with the operands its test needs. -/
inductive Wait
  | bar (n : Nat)
  | arrive (n : Nat)
  | nbar (n : Nat) (parity : List (Nat × Bool))
  | fwait (targets : List (Nat × Nat × W64))
  | recv (d b : Slot) (unassigned : List Nat)
  | accwait (tiles : List Nat)
  deriving DecidableEq, Repr

/-- How an entry stands in a stop (R340): running or halted, at the first or a secondary cause, or at a breakpoint. -/
inductive EntryStat
  | plain | trapped | breakpoint
  deriving DecidableEq, Repr

/-- An entry of a frontier (R130): pc, block priority, members, the clock since which it is ready and not issuing
(R132), what it waits for, and how it resumes (R334, R359). -/
structure Entry where
  addr : Bool
  pc : W64
  prio : Nat
  members : List Nat
  readySince : Nat
  wait : Option Wait
  stat : EntryStat
  skip : Bool
  noMatch : Bool
  deriving DecidableEq, Repr

/-- A group (R127): members ascending, frontier in (priority, pc) order, throttling score (R138) with
the multiples of 1,024 clocks by which it has decayed, MMAs issued (R166), the clock of its last run (R140). -/
structure Group where
  key : GrpKey
  role : Nat
  members : List Nat
  frontier : List Entry
  score : Nat
  decayed : Nat
  mmaSeq : Nat
  since : Nat
  deriving DecidableEq, Repr

/-- A run in progress in an issue slot (R131): the issuing entry, the pc of its next instruction, the run-end flag of
the word being executed, the instructions issued, and, while it stalls, since when and on which queues, as (member,
queue) (R134, R189), the clock at which it last tested what it waits for, and the registers whose results it waits for, as (member, whether
spectral, register) (R364). -/
structure Run where
  gk : GrpKey
  addr : Bool
  members : List Nat
  pc : W64
  startPc : W64
  e : Bool
  count : Nat
  noMatch : Bool
  single : Bool
  stalledSince : Option Nat
  waits : List (Nat × Nat)
  tested : Nat := 0
  needs : List (Nat × Bool × Nat) := []
  deriving DecidableEq, Repr

/-- An issue slot (R133, R140, R142, R362, R372, R416). -/
structure IssueSlot where
  run : Option Run
  served : Option (Nat × GrpKey)
  sampled : Option (Nat × GrpKey)
  detCur : Option GrpKey
  detYield : Option GrpKey
  lastDet : Bool
  anyRun : Bool
  idleUntil : Nat
  deriving DecidableEq, Repr

/-! Cohorts. -/

/-- A trap record (R335), with the clock of its condition and, for a request, its engine and sequence number, for the
order of R338. -/
structure TrapRec where
  cause : Nat
  sub : Nat
  sup : Bool
  write : Bool
  malformed : Bool
  cow : Bool
  poison : Bool
  req : Bool
  launch : Nat
  coh : Nat
  tid : Nat
  gid : Nat
  pc : W64
  addr : W64
  info1 : W64
  info2 : W64
  ptptime : W64
  ltime : W64
  clock : Nat
  kind : Nat
  engine : Nat
  seq : Nat
  deriving DecidableEq, Repr

/-- The operations of BAR (R50, R152). -/
inductive BarOp
  | sync | addI | addF | minI | minN | minF | maxI | maxN | maxF | and | or | xor | scanI | xscanI | scanF | xscanF
  deriving DecidableEq, Repr

/-- A thread's arrival at a named barrier in the current phase: by BAR with its op, operand and destination, or by
NBAR.ARRIVE (waits = false) (R153, R155, R314). -/
structure Arrival where
  tid : Nat
  addr : Bool
  waits : Bool
  op : BarOp
  x : W32
  d : Slot
  deriving DecidableEq, Repr

/-- A named barrier register (R277) with its completions so far (R218), arrivals of the phase (R156), groups counted,
arrivals deferred to the next phase (R314), and the copy that last reduced PEND (R278). -/
structure Barrier where
  pend : Int
  expb : Nat
  phase : Bool
  arr : Nat
  expa : Nat
  k : Nat
  arrivals : List Arrival
  groups : List Nat
  deferred : List Arrival
  lastCredit : Option TrapRec
  deriving DecidableEq, Repr

/-- An entry of a capability table (R289). -/
structure Cap where
  loc : Nat
  time : W64
  count : Nat
  deriving DecidableEq, Repr

/-- A bound accumulator tile (R157): its number and elements. -/
structure Tile where
  no : Nat
  elems : Sparse W32
  deriving DecidableEq, Repr

/-- An entry of a queue of a thread pair (R187, R188): filled, or reserved by the pending load named. -/
inductive QEntry
  | full (v : W32)
  | reserved (id : Nat)
  deriving DecidableEq, Repr
/-- The eight queues of a thread pair (R187). -/
structure PairQueues where
  tid : Nat
  q : List (List QEntry)
  deriving DecidableEq, Repr

/-! Copies. -/

/-- A copy template as read at take-up (R271). -/
structure Template where
  efmt : Nat
  rank : Nat
  pmode : Nat
  op : Nat
  perm : List Nat
  box : List Nat
  sb : List Nat
  ss : List Nat
  ds : List Nat
  padv : W32
  xhandle : Nat
  gdim : Nat
  deriving DecidableEq, Repr
/-- A collective extension (R394). -/
structure CollExt where
  mode : Nat
  rop : Nat
  chloc : Nat
  grid : List Nat
  repl : Nat
  chunk : Nat
  timeout : Nat
  root : Nat
  deriving DecidableEq, Repr

/-- STATUS of a copy request in a stop record (R340). -/
inductive CopyStatus
  | queued | active | complete | failed (cause sub : Nat) | waitSlot | cancelled
  deriving DecidableEq, Repr

/-- A request accepted by a copy engine (R265, R308) and its progress (R281): the request line, the issuer with its mode,
%gid and core, its phase id and, once taken up, the template; the destination offsets that valid elements have written (R272);
the tiles it has taken hold of (R275);
for a collective, the chunks sent, the members that failed with the chunks they had completed, and the clock since which
a chunk of each member is due (R396, R397). -/
structure CopyReq where
  ck : CohKey
  tid : Nat
  seq : Nat
  line : Bytes
  phase : PhaseId
  status : CopyStatus
  idx : Nat
  tmpl : Option Template
  ext : Option CollExt
  counted : Bool
  sup : Bool
  core : Nat
  written : List Int
  gid : Nat
  held : List Nat
  sent : Nat
  failedPeers : List (Nat × Nat)
  due : List (Nat × Nat)
  credit : Nat
  deriving DecidableEq, Repr

/-- A taken slot of a cluster's holding buffer (R276): the parked box by destination offset, the receivers still to drain,
and what a record of the request's overflow holds (R278). -/
structure HoldSlot where
  eng : Nat
  seq : Nat
  ck : CohKey
  order : Nat
  data : Sparse Byte
  receivers : List Nat
  dnb : Nat
  bytes : Nat
  parked : Bool
  overflow : TrapRec
  deriving DecidableEq, Repr

/-! Residency. -/

/-- Where a cohort is (R125, R350): waiting to be placed, resident on a virtual core, or saved. -/
inductive CohState
  | waiting
  | resident (vcore : Nat)
  | saved (vcore : Nat)
  | killed (vcore : Nat)
  deriving DecidableEq, Repr

/-- The access paths, in the order of a path set (R49, R203). -/
inductive MemPath
  | gen | ro | copy | acc | coll
  deriving DecidableEq, Repr
/-- A word of a cohort's scratch, or an element of one of its tiles. -/
inductive ScrCell
  | scratch (word : Nat)
  | tile (no elem : Nat)
  deriving DecidableEq, Repr
/-- What a cohort's scratch and tiles held before a run of writes on one path, which a read on another path may still give (R214, R215): the
threads, by %tid and reading path, that a FENCE.X has let see the writes since; and the words for which one has read what they wrote. -/
structure OldScratch where
  path : MemPath
  scratch : Sparse Byte
  tiles : List Tile
  seen : List (Nat × MemPath)
  read : List (Nat × MemPath × ScrCell)
  deriving DecidableEq, Repr

/-- A cohort (R125, R126): everything its threads share; `older` is what reads on another path may still give of its scratch and tiles, oldest
first (R215). -/
structure Cohort where
  key : CohKey
  st : CohState
  residency : Nat
  relaunches : Nat
  scratchSize : Nat
  scratch : Sparse Byte
  bars : List Barrier
  caps : List Cap
  tiles : List Tile
  queues : List PairQueues
  slotWaiting : List (Nat × CopyReq)
  older : List OldScratch := []
  deriving DecidableEq, Repr

/-! Launches. -/

/-- A role entry of a launch header (R121). -/
structure Role where
  entry : Nat
  aentry : Nat
  gallot : Nat
  wallot : Nat
  ngroups : Nat
  gsize : Nat
  split : Bool
  mclass : Nat
  deriving DecidableEq, Repr

/-- A launch header (R120) as read, with its block-priority table (R65) as (START, PRIO). -/
structure Header where
  raw : Bytes
  idem : Bool
  det : Bool
  rpl : Nat
  supl : Bool
  gx : Nat
  gy : Nat
  gz : Nat
  tdepth : Nat
  scratch : Nat
  textbase : W64
  bpbase : W64
  donech : Nat
  intime : W64
  roles : List Role
  bp : List (Nat × Nat)
  deriving DecidableEq, Repr

/-- The input binding of a launch (R293). -/
inductive Binding
  | none
  | host
  | fixed (loc : Nat) (t : W64)
  deriving DecidableEq, Repr

/-- A merge point of DET traffic (R380): a direction of a link between two dies, the port of a slice, the input of an engine. -/
inductive MergePt
  | link (src dst : Nat)
  | slice (n : Nat)
  | engine (e : Nat)
  deriving DecidableEq, Repr
/-- A launch (R122, R124, R126): its header, the next %coh to place, cohorts not yet completed, its binding, whether it
holds its launch capability (R289), and its replay ordinal (R367); for a DET launch, its virtual sources in the order of its schedule,
whose turn it is at each merge point, and the sources that wait at the inputs of engines (R380). -/
structure Launch where
  ctx : Nat
  id : Nat
  order : Nat
  hdr : Header
  sup : Bool
  nextCoh : Nat
  remaining : Nat
  binding : Binding
  holdsCap : Bool
  ordinal : Option Nat
  recordPending : Bool
  sources : List Nat := []
  turns : List (MergePt × Nat) := []
  asking : List (MergePt × Nat) := []
  deriving DecidableEq, Repr

/-! Logical time. -/

/-- A step of a path summary (R285, R286). -/
inductive SumStep
  | enter | inc | leave
  deriving DecidableEq, Repr
/-- An edge of the graph (R285). -/
structure Edge where
  src : Nat
  dst : Nat
  sum : Nat
  deriving DecidableEq, Repr
/-- The graph of a context (R285). -/
structure Graph where
  depths : List Nat
  sums : List (List SumStep)
  edges : List Edge
  image : Bytes
  deriving DecidableEq, Repr

/-- A count key with its signed count (R287, R288). -/
structure Count where
  loc : Nat
  time : W64
  n : Int
  deriving DecidableEq, Repr

/-- A batch of count changes on its way to the nodes (R295): the nodes (dies) that have applied it, and, once it has left for the other
members of the job, those that have not (R393); one that a step formed leaves in the next resume (R391). -/
structure Batch where
  srcId : Nat
  vdev : Nat
  seq : Nat
  incs : List CountChange
  decs : List CountChange
  home : Nat
  applied : List Nat
  peers : List Nat
  stepped : Bool := false
  left : Bool := false
  deriving DecidableEq, Repr

/-- A Flue node (R294 to R298): counts, the part of them that each member of the job sourced (R397), reported frontiers F
and input frontiers I by location, next sequence number expected of each (virtual device, source). -/
structure FlueNode where
  counts : List Count
  bySrc : List (Nat × Count)
  f : List (List W64)
  i : List (List W64)
  next : List ((Nat × Nat) × Nat)
  deriving DecidableEq, Repr

/-- The source of a record (R293): a thread, a launch that completed, the host interface, a frame trigger unit, or the device itself, which
posts notices (R339). -/
inductive RecSrc
  | thread (launch coh tid : Nat)
  | launch (id : Nat)
  | host
  | unit (k : Nat)
  | device
  deriving DecidableEq, Repr
/-- A record of the record store (R293), with its place there. -/
structure Record where
  id : Nat
  slot : Nat
  loc : Nat
  time : W64
  payload : Bytes
  source : RecSrc
  counted : Bool
  batch : Option (Nat × Nat)
  delivered : Bool
  deriving DecidableEq, Repr

/-- An armed launch counter (R300). -/
structure Counter where
  idx : Nat
  loc : Nat
  cnt : Bool
  frn : Bool
  ctime : W64
  ccount : Nat
  hdr : Header
  die : Nat
  deriving DecidableEq, Repr

/-- A RECV in progress (R320): the entry's members still unassigned, in the order of their executions. -/
structure RecvWait where
  key : ThKey
  loc : Nat
  t : Option W64
  d : Slot
  b : Slot
  deriving DecidableEq, Repr

/-! Traps and stops. -/


/-- The stop record a unit has written (R340). -/
structure StopRec where
  unit : StopUnit
  clock : Nat
  ptp : W64
  entries : List Bytes
  deriving DecidableEq, Repr

/-- STATE of CTXSTAT (R348). -/
inductive CtxSt
  | none | creating | running | halting | stopped | saving | saved | restoring
  deriving DecidableEq, Repr

/-- The context descriptor (R344). -/
structure Desc where
  ctxid : Nat
  part : Nat
  en : BitVec 5
  ptroot : Nat
  privbase : W64
  privshift : Nat
  privcohs : Nat
  apbase : W64
  dtbase : W64
  dtcount : Nat
  rscount : Nat
  rsbase : W64
  graphbase : W64
  hostch : Nat
  seqn : Nat
  isctl : W32
  seqbase : W64
  syscall : W64
  stopbase : W64
  stopsize : Nat
  savebase : W64
  savesize : Nat
  inithdr : W64
  deriving DecidableEq, Repr

/-- The debug, experiment and replay registers of a context (R356, R360, R365, R367). -/
structure Debug where
  dbgctl : W32
  dbgstat : W32
  bpaddr : List W64
  wpaddr : List W64
  wpcfg : List W32
  dbgtgt : W64
  cxctl : W32
  cxlo : W64
  cxhi : W64
  cxppc : W64
  cxlen : W32
  cxcount : W32
  cxin : W32
  cxout : W32
  cxStart : Nat
  rplbase : W64
  rplsize : W32
  rplptr : W32
  rplmiss : W32
  rpldrop : W32
  rplOrd : Nat
  deriving DecidableEq, Repr

/-- The Damper states (R387). -/
inductive Damper
  | none | run | freezing | frozen | ready | drained | armed
  deriving DecidableEq, Repr

/-- A message held in a replay buffer until acknowledged (R389). -/
structure HeldMsg where
  peer : Nat
  seq : Nat
  body : DataBody
  sent : Bool
  deriving DecidableEq, Repr

/-- The stages of a pod resume at the root (R392). -/
inductive ResumeStage
  | idle | prep | resend | released
  deriving DecidableEq, Repr

/-- A replica digest received (R398). -/
structure DigestSeen where
  s : Nat
  vdev : Nat
  hash : Bytes
  deriving DecidableEq, Repr

/-- A context's place in a pod (R383 to R398); the writes of DEVMAP entries that traffic still keeps waiting (R352). -/
structure Pod where
  podcfg : W64
  podtmo : W32
  devmap : Sparse W32
  pctbase : W64
  refused : Bool
  damper : Damper
  epoch : Nat
  joinPending : Bool
  resending : Bool
  causes : List (Nat × CauseEntry)
  stage : ResumeStage
  answered : List Nat
  stageStart : Nat
  releaseAt : Nat
  pflags2 : W32
  replctl : W32
  digbase : List W64
  diglen : List W32
  digests : List DigestSeen
  digNext : Nat
  digStart : List (Nat × Nat)
  cseqOut : List (Nat × Nat)
  cseqIn : List (Nat × Nat)
  seqOut : List (Nat × Nat)
  lastApplied : List (Nat × Nat)
  held : List HeldMsg
  chunksIn : List (Nat × Chunk)
  mapWrites : List (Nat × W32) := []
  deriving DecidableEq, Repr

/-- The state of the cores that a PREEMPT or a SWITCHOUT vacates (R350). -/
inductive PreState
  | drain | save
  deriving DecidableEq, Repr

/-- A step in progress (R360): the stream of a group whose entry issues, the thread that DBGCMD named, the members of the entry, and
how many trap records the stop held before. -/
structure Stepping where
  gk : GrpKey
  addr : Bool
  tid : Nat
  members : List Nat
  traps : Nat
  deriving DecidableEq, Repr

/-- A context (R344 to R349), with its remap tables (R352): virtual cores and virtual copy engines to physical ones; of its last stop, the
clock and PTP time of completion and the trap records written then (R339, R349). -/
structure Context where
  id : Nat
  desc : Desc
  st : CtxSt
  nextLaunch : Nat
  launchOrder : Nat
  graph : Graph
  nodes : List FlueNode
  batches : List Batch
  batchSeq : List (Nat × Nat)
  records : List Record
  nextRecord : Nat
  recvs : List RecvWait
  counters : List Counter
  hostpt : W64
  hostClosed : Bool
  traps : List TrapRec
  stopped : List StopUnit
  stopRecs : List StopRec
  stopAt : Option (Nat × W64)
  stopTraps : Nat := 0
  cores : List (Nat × Nat)
  pre : List (Nat × PreState)
  vacant : List (Nat × Nat)
  preBusy : Bool
  savedDir : List (CohKey × Nat × Nat)
  stepping : Option Stepping
  stepLanes : List (ThKey × Nat × Nat × Nat)
  dbg : Debug
  pod : Pod
  hostHold : List (W64 × Bytes)
  image : List (W64 × Bytes)
  savedHolds : List (Nat × HoldSlot)
  engs : List (Nat × Nat) := []
  deriving DecidableEq, Repr

/-! Cores. -/

/-- The path tag of an L1 line (R180). -/
inductive PathTag
  | gen | ro
  deriving DecidableEq, Repr
/-- An L1 line (R180, R181): line number PA[55:6] (with the owning device of a remote line), tag, sector valid bits,
dirty bytes, data, and, where a GEN load filled it, the group whose load did while that group exists (R138). -/
structure L1Line where
  vdev : Option Nat
  line : Nat
  tag : PathTag
  checked : Bool
  valid : List Bool
  dirty : List Bool
  data : Bytes
  owner : Option (Option GrpKey)
  deriving DecidableEq, Repr

/-- An MMA or a closed VXM gather accepted by a matrix engine (R144, R163, R173): rows and columns are the decoded
fragments. -/
structure MmaReq where
  id : Nat
  gk : GrpKey
  cls : Nat
  issue : Nat
  slot : Nat
  seq : Nat
  tile : Nat
  desc : W32
  a : List (List W32)
  b : List (List W32)
  aSlot : Nat
  bSlot : Nat
  frag : List (ThKey × List Nat)
  groupsDone : Nat
  occupied : Nat
  vxm : Bool
  deriving DecidableEq, Repr

/-- A row of a VXM gather (R173): the thread, its input, and the allotment registers of its result. -/
structure VxmRow where
  key : ThKey
  x : List W32
  dst : List (Option Nat)
  deriving DecidableEq, Repr
/-- An open or closed VXM gather (R173). -/
structure Gather where
  id : Nat
  ck : CohKey
  desc : W32
  cls : Nat
  opened : Nat
  slot : Nat
  weights : List W32
  rows : List VxmRow
  deriving DecidableEq, Repr

/-- A matrix engine (R144): accepted requests, the running one with its start clock, open gathers, and closed ones by
request id. -/
structure MatrixEngine where
  queue : List MmaReq
  running : Option (MmaReq × Nat)
  gathers : List Gather
  closed : List Gather
  deriving DecidableEq, Repr

/-- A tag register of the reuse-distance unit (R366). -/
structure RdTag where
  reg : Nat
  line : Nat
  seen : List Nat
  deriving DecidableEq, Repr

/-- A physical core. `started` holds the launches, as (context, %launch), that have started on it (R44, R182); `turn` the clock in which
a slot issued last, and the place of the slot after it in the order of that clock (R312). -/
structure Core where
  slots : List IssueSlot
  l1 : List L1Line
  victims : List (Nat × Option GrpKey)
  isctl : W32
  seqCache : List (Nat × Nat × Bytes)
  started : List (Nat × Nat)
  fetchBuf : List (Nat × Nat × W32)
  eng : MatrixEngine
  smpctl : W32
  smpbase : W64
  smpsize : W32
  smpptr : W32
  smpdrop : W32
  smpStart : Nat
  smpNext : Nat
  rdctl : W32
  rdlaunch : W32
  rdhist : List W32
  rdtags : List RdTag
  ecccor : W64
  eccunc : W64
  turn : Nat × Nat := (0, 0)
  deriving DecidableEq, Repr

/-! Copy engines. -/

/-- A copy engine (R264, R265). -/
structure Engine where
  queue : List CopyReq
  nextSeq : List (Nat × Nat)
  deriving DecidableEq, Repr
/-! The memory system. -/

/-- The read state of a word (R220). -/
inductive ReadSt
  | none | one (a : Agent) | several
  deriving DecidableEq, Repr
/-- The shadow metadata of a sector (R220): context, phase, and for each of eight words its writer and readers. -/
structure Shadow where
  ctx : Nat
  phase : PhaseId
  words : List (Option Agent × ReadSt)
  deriving DecidableEq, Repr
/-- A pinned line (R216): line number, the holder core and the cohort that set it. A line of this device may be held by a core
of another virtual device, and a core of this device may hold a line of another (R384). -/
structure Pin where
  line : Nat
  core : Nat
  ck : CohKey
  vdev : Option Nat := none
  dev : Option Nat := none
  deriving DecidableEq, Repr
/-- The translation structures (R197): the micro-TLB and the TLB of a core, and the shared TLB of a die. -/
inductive TlbAt
  | micro (core : Nat)
  | core (core : Nat)
  | shared (die : Nat)
  deriving DecidableEq, Repr
/-- A cached translation (R197). -/
structure TlbEntry where
  lvl : TlbAt
  ctx : Nat
  vbase : Nat
  size : Nat
  pte : W64
  deriving DecidableEq, Repr
/-- A register or queue write that lands later (R101). -/
inductive Dest
  | g (key : ThKey) (reg : Nat) (v : W32)
  | w (key : ThKey) (reg : Nat) (v : W128)
  | q (ck : CohKey) (tid queue id : Nat) (v : W32)
  deriving DecidableEq, Repr
/-- The unit a late result comes from. -/
inductive RetKind
  | load | qsamp | packet | texture | ray
  deriving DecidableEq, Repr
/-- A result on its way to its destinations (R101, R227). -/
structure Ret where
  id : Nat
  kind : RetKind
  dests : List Dest
  deriving DecidableEq, Repr

/-- What a queued request does at its slice and where its result goes (R181, R184, R227, R235). A write carries the dirty
bytes of an evicted line. A probe re-sends a refused request of the instruction or copy that waits for it (R217); a remote
request waits for the owner's response (R385). -/
inductive ReqOp
  | fillGen (n : Nat) (signed : Bool)
  | fillRo (n : Nat) (signed : Bool)
  | atom (op : AtomOp) (x y : W64) (acq pins : Bool)
  | write (data : List (Option Byte))
  | probe
  | remote (body : DataBody)
  deriving DecidableEq, Repr
/-- The shape of the destinations a request's result is written to: an allotment register list (lowest word first),
a spectral register, or a queue entry; none discards it (R227). -/
inductive ReqDest
  | none
  | regs (rs : List (Option Nat))
  | wreg (r : Nat)
  | queue (q id : Nat)
  deriving DecidableEq, Repr
/-- A response to a remote request (R384, R385): the bytes of its accesses, the first access refused and why, or a pinned
line (R217). -/
inductive Resp
  | data (l : List Bytes)
  | error (k : Nat) (e : RemErr)
  | retry (line : Nat)
  deriving DecidableEq, Repr
/-- A request in flight between a source and a slice (R184, R217, R385): issuer, address, operation, destination, members
merged into it (R237), refusals so far with the clock of the last, and the response of a remote owner. -/
structure Req where
  id : Nat
  src : ReqSrc
  key : ThKey
  merged : List (ThKey × ReqDest)
  vdev : Option Nat
  pa : Nat
  op : ReqOp
  dest : ReqDest
  refusals : Nat
  refusedAt : Nat
  sentAt : Nat
  resp : Option Resp
  deriving DecidableEq, Repr
/-- A walk of a shared-TLB miss (R197): waiting for a walker or in progress, or ended without a translation, with the cores whose
accesses have joined it. -/
structure Walk where
  id : Nat
  ctx : Nat
  die : Nat
  va : W64
  waiters : List Nat
  failed : Bool
  deriving DecidableEq, Repr

/-! The rest of the device. -/

/-- A frame trigger unit (R303), with the F0 of its enabling, the PTP time at which its context last resumed since then, and the frame of the
capability that it holds. -/
structure FrameUnit where
  ctl : W32
  start : W64
  period : W32
  frame : W32
  stat : W32
  f0 : Nat
  lateUntil : Nat
  capNo : Nat := 0
  deriving DecidableEq, Repr

/-- The fuses (R1, R355, R369, R412, R413): ordering code, spare mapping, board-debug fuse, key digest, version floor,
serial. -/
structure Fuses where
  code : Nat
  bad : List Nat
  debug : Bool
  keyDigest : Bytes
  floor : Nat
  serial : Bytes
  deriving DecidableEq, Repr

/-- The management registers that belong to no context (R348, R354, R411 to R414). -/
structure Mgmt where
  bootstat : BitVec 4
  imgVersion : Nat
  imgHash : Bytes
  winbase : W64
  attnonce : Bytes
  attgo : Bool
  attbuf : Bytes
  pwrlim : BitVec 12
  thr : Bool
  trip : Bool
  ctxarg : W64
  ctxNamed : Nat
  errs : List (Nat × Nat × Nat)
  busy : Bool
  dbgsel : W32
  tlbinva : W64
  tlbinv : W32
  parts : List Bytes
  pstat : Bool
  creating : Option (Nat × Nat)
  restoring : Option (Nat × Option (Nat × Nat))
  saving : Option Nat
  haltCmd : Option Nat
  foreign : Nat
  deriving DecidableEq, Repr

/-- The time port (R399). -/
structure TimePort where
  ctl : W32
  locked : Bool
  pps : Bool
  offset : BitVec 24
  good : Nat
  lastSync : Nat
  lastPps : Nat
  outSecond : Nat
  ns : Nat
  deriving DecidableEq, Repr

/-- What the device sends out: MSI-X vectors (R401), control and data messages to members and acknowledgements
(R382, R389), error responses to requests of any other accelerator (R381), the 1PPS output, the test data output, what a
host read of the window to memory gives (R401). -/
inductive Output
  | msix (vector : Nat)
  | ctl (dst : Nat) (m : CtlMsg)
  | data (dst : Nat) (m : DataMsg)
  | ack (dst jobid seq : Nat)
  | reject (dst jobid seq : Nat)
  | pps
  | tdo (bits : W32)
  | host (data : Bytes)
  deriving DecidableEq, Repr

/-- The state of one device; the engines are those of each context, at 32 · CTXID and the virtual number. -/
structure State where
  clock : Nat
  threads : List Thread
  groups : List Group
  cohorts : List Cohort
  launches : List Launch
  contexts : List Context
  cores : List (Nat × Core)
  engines : List (Nat × Engine)
  holds : List (Nat × Nat × HoldSlot)
  mem : List Host.Cell
  poison : List Nat
  shadow : List (Nat × Shadow)
  pins : List Pin
  tlb : List TlbEntry
  walks : List Walk
  reqs : List Req
  rets : List Ret
  units : List (Nat × FrameUnit)
  mgmt : Mgmt
  time : TimePort
  fuses : Fuses
  ring : Sparse Byte
  bells : List Nat
  flash : Sparse Byte
  ports : BitVec 18
  frozen : Bool
  tapIr : BitVec 8
  cur : Option (Nat × Nat)
  op : EvOp
  inputs : List (Instr × EvOp)
  outputs : List Output
  nextId : Nat
  free : Nat
  moved : Nat := 0
  deriving DecidableEq, Repr

/-- An issue slot in which nothing has run. -/
def IssueSlot.fresh : IssueSlot :=
  { run := none, served := none, sampled := none, detCur := none, detYield := none, lastDet := false, anyRun := false,
    idleUntil := 0 }
/-- A matrix engine with no request. -/
def MatrixEngine.fresh : MatrixEngine := { queue := [], running := none, gathers := [], closed := [] }
/-- A core right after reset (R137, R362). -/
def Core.fresh : Core :=
  { slots := List.replicate 4 IssueSlot.fresh, l1 := [], victims := [], isctl := 0xA2010200, seqCache := [], started := [],
    fetchBuf := [], eng := MatrixEngine.fresh, smpctl := 0, smpbase := 0, smpsize := 0, smpptr := 0, smpdrop := 0,
    smpStart := 0, smpNext := 0, rdctl := 0, rdlaunch := 0, rdhist := List.replicate 16 0, rdtags := [],
    ecccor := 0, eccunc := 0 }
/-- A copy engine with no request. -/
def Engine.fresh : Engine := { queue := [], nextSeq := [] }
/-- A frame trigger unit right after reset (R303). -/
def FrameUnit.fresh : FrameUnit := { ctl := 0, start := 0, period := 0, frame := 0, stat := 0, f0 := 0,
                                         lateUntil := 0 }
/-- A named barrier at cohort start (R154). -/
def Barrier.fresh (expa : Nat) : Barrier :=
  { pend := 0, expb := 0, phase := false, arr := 0, expa := expa, k := 0, arrivals := [], groups := [], deferred := [],
    lastCredit := none }
/-- The debug registers at reset (R356, R365, R367). -/
def Debug.fresh : Debug :=
  { dbgctl := 0, dbgstat := 0, bpaddr := List.replicate 8 0, wpaddr := List.replicate 4 0,
    wpcfg := List.replicate 4 0x200, dbgtgt := 0, cxctl := 0, cxlo := 0, cxhi := 0, cxppc := 0, cxlen := 0,
    cxcount := 0, cxin := 0, cxout := 0, cxStart := 0, rplbase := 0, rplsize := 0, rplptr := 0, rplmiss := 0,
    rpldrop := 0, rplOrd := 0 }
/-- The pod registers at reset (R383, R398, R414): RTO 64, DIGTO 1,000. -/
def Pod.fresh : Pod :=
  { podcfg := 0, podtmo := 0x004003E8, devmap := [], pctbase := 0, refused := false, damper := .none, epoch := 0,
    joinPending := false, resending := false, causes := [], stage := .idle, answered := [], stageStart := 0,
    releaseAt := 0, pflags2 := 0, replctl := 0, digbase := List.replicate 8 0, diglen := List.replicate 8 0,
    digests := [], digNext := 0, digStart := [], cseqOut := [], cseqIn := [], seqOut := [], lastApplied := [],
    held := [], chunksIn := [] }
/-- The fuses of the device modelled at reset (log entry 8). -/
def Fuses.fresh : Fuses :=
  { code := 2, bad := [], debug := false, keyDigest := List.replicate 32 0, floor := 0, serial := List.replicate 16 0 }
/-- The management registers at reset (R348, R354, R414). -/
def Mgmt.fresh : Mgmt :=
  { bootstat := 0, imgVersion := 0, imgHash := [], winbase := 0, attnonce := List.replicate 32 0, attgo := false,
    attbuf := [], pwrlim := 3100, thr := false, trip := false, ctxarg := 0, ctxNamed := 0,
    errs := [], busy := false, dbgsel := 0, tlbinva := 0, tlbinv := 0x00100000,
    parts := List.replicate 8 (List.replicate 64 0), pstat := false, creating := none, restoring := none,
    saving := none, haltCmd := none, foreign := 0 }
/-- The time port at reset (R399). -/
def TimePort.fresh : TimePort :=
  { ctl := 0, locked := false, pps := false, offset := 0, good := 0, lastSync := 0, lastPps := 0, outSecond := 0, ns := 0 }

/-- The device right after reset, before it boots (R412): no context exists, memory lists nothing. -/
def State.reset : State :=
  { clock := 0, threads := [], groups := [], cohorts := [], launches := [], contexts := [], cores := [], engines := [],
    holds := [], mem := [], poison := [], shadow := [], pins := [], tlb := [], walks := [], reqs := [], rets := [],
    units := [], mgmt := Mgmt.fresh, time := TimePort.fresh, fuses := Fuses.fresh, ring := [], bells := [],
    flash := [], ports := 0, frozen := false, tapIr := 0x01, cur := none, op := .none, inputs := [], outputs := [],
    nextId := 1, free := 0, moved := 0 }

end Sys2Proof.Machine
end

