-- ==== Sys2Proof/Machine/Ops.lean ====
section
/-! DEFINITION. The named operations over memory, registers and tables that every meaning uses: sparse maps, bytes of
memory, the lookup and replacement of threads, groups, cohorts, launches, contexts, cores and engines, the end of an
instruction and of a run, taking a trap, and the halt line. -/

namespace Sys2Proof.Machine

/-- What a meaning answers. -/
abbrev Out := Host.Outcome State Fault Refusal

/-! Sparse maps. -/

/-- The value at a key, or the default. -/
def sget {α : Type} (dflt : α) (m : Sparse α) (k : Nat) : α :=
  match m with
  | [] => dflt
  | (i, v) :: rest => if k == i then v else if k < i then dflt else sget dflt rest k
/-- Sets a key, keeping the canonical form: the default value is not listed. -/
def sput {α : Type} [DecidableEq α] (dflt : α) (m : Sparse α) (k : Nat) (v : α) : Sparse α :=
  match m with
  | [] => if v = dflt then [] else [(k, v)]
  | (i, u) :: rest =>
    if k < i then (if v = dflt then (i, u) :: rest else (k, v) :: (i, u) :: rest)
    else if k == i then (if v = dflt then rest else (k, v) :: rest)
    else (i, u) :: sput dflt rest k v
/-- The canonical form: keys strictly rising, no entry equal to the default. -/
def swf {α : Type} [DecidableEq α] (dflt : α) : Sparse α → Bool
  | [] => true
  | [(_, v)] => decide (v ≠ dflt)
  | (i, v) :: (j, u) :: rest => decide (i < j) && decide (v ≠ dflt) && swf dflt ((j, u) :: rest)

/-! Bytes. -/

/-- What a byte of HBM4E that nothing has written reads as (log entry 3). -/
def Memory.unlisted : Byte := 0
/-- The canonical form of a memory (log entry 3). -/
def Memory.wf (m : List Host.Cell) : Bool := swf Memory.unlisted m
/-- One byte of physical memory. -/
def Memory.readByte (m : List Host.Cell) (pa : Nat) : Byte := sget Memory.unlisted m pa
/-- Writes one byte of physical memory. -/
def Memory.writeByte (m : List Host.Cell) (pa : Nat) (v : Byte) : List Host.Cell := sput Memory.unlisted m pa v
/-- `n` bytes from an address up. -/
def Memory.read (m : List Host.Cell) (pa n : Nat) : Bytes := (List.range n).map fun i => Memory.readByte m (pa + i)
/-- Writes bytes from an address up. -/
def Memory.write (m : List Host.Cell) (pa : Nat) : Bytes → List Host.Cell
  | [] => m
  | b :: bs => Memory.write (Memory.writeByte m pa b) (pa + 1) bs
/-- Writes the bytes that are present, from an address up (a byte-masked write). -/
def Memory.writeMasked (m : List Host.Cell) (pa : Nat) : List (Option Byte) → List Host.Cell
  | [] => m
  | some b :: bs => Memory.writeMasked (Memory.writeByte m pa b) (pa + 1) bs
  | none :: bs => Memory.writeMasked m (pa + 1) bs

/-- A little-endian byte string as a number (R4). -/
def leNat : Bytes → Nat
  | [] => 0
  | b :: bs => b.toNat + 256 * leNat bs
/-- A number as `n` little-endian bytes (R4). -/
def natLe (n : Nat) (x : Nat) : Bytes :=
  match n with
  | 0 => []
  | k + 1 => BitVec.ofNat 8 (x % 256) :: natLe k (x / 256)
/-- `n` bytes of a byte string from an offset, as a number; bytes beyond the string read as zero. -/
def leAt (b : Bytes) (off n : Nat) : Nat := leNat ((b.drop off).take n)
/-- The `n` 4-byte words of a byte string. -/
def wordsOf : Bytes → List W32
  | b0 :: b1 :: b2 :: b3 :: rest => wordOfBytes b0 b1 b2 b3 :: wordsOf rest
  | _ => []
/-- The bytes of a list of words. -/
def bytesOfWords (ws : List W32) : Bytes := ws.flatMap bytesOfWord
/-- Two words as a 64-bit value, low half first (R4, R35). -/
def join64 (lo hi : W32) : W64 := hi ++ lo
/-- The low half of a pair. -/
def lo32 (v : W64) : W32 := v.extractLsb' 0 32
/-- The high half of a pair. -/
def hi32 (v : W64) : W32 := v.extractLsb' 32 32
/-- Sample k of a packet (R37). -/
def sample (v : W128) (k : Nat) : W32 := v.extractLsb' (32 * k) 32
/-- A packet of four samples (R37). -/
def packet (x0 x1 x2 x3 : W32) : W128 := x3 ++ x2 ++ x1 ++ x0
/-- The four samples of a packet. -/
def samples (v : W128) : List W32 := [sample v 0, sample v 1, sample v 2, sample v 3]
/-- A packet from a list of samples; missing samples are zero. -/
def packetOf (l : List W32) : W128 := packet (l.getD 0 0) (l.getD 1 0) (l.getD 2 0) (l.getD 3 0)
/-- A number as a 64-bit value. -/
def w64 (n : Nat) : W64 := BitVec.ofNat 64 n
/-- A number as a 32-bit value. -/
def w32 (n : Nat) : W32 := BitVec.ofNat 32 n
/-- A program counter or jump target modulo 2^56 (R55, R87). -/
def pc56 (v : W64) : W64 := v &&& 0x00FFFFFFFFFFFFFF#64
/-- The program counter after an instruction that transfers no control (R87). -/
def nextPc (pc : W64) : W64 := pc56 (pc + 4)

/-! Tables. -/

/-- Updates the list entries that satisfy a predicate. -/
def updWhere {α : Type} (p : α → Bool) (f : α → α) (l : List α) : List α := l.map fun x => if p x then f x else x
/-- The entry of an association list, or the default. -/
def aget {α : Type} (dflt : α) : List (Nat × α) → Nat → α
  | [], _ => dflt
  | (i, v) :: rest, k => if k == i then v else aget dflt rest k
/-- Sets an entry of an association list. -/
def aput {α : Type} : List (Nat × α) → Nat → α → List (Nat × α)
  | [], k, v => [(k, v)]
  | (i, u) :: rest, k, v => if k == i then (i, v) :: rest else (i, u) :: aput rest k v
/-- The entry of an association list by any key. -/
def kget {κ α : Type} [DecidableEq κ] (dflt : α) : List (κ × α) → κ → α
  | [], _ => dflt
  | (i, v) :: rest, k => if k = i then v else kget dflt rest k
/-- Sets an entry of an association list by any key. -/
def kput {κ α : Type} [DecidableEq κ] : List (κ × α) → κ → α → List (κ × α)
  | [], k, v => [(k, v)]
  | (i, u) :: rest, k, v => if k = i then (i, v) :: rest else (i, u) :: kput rest k v
/-- Inserts before the first entry that is greater, so that equal entries keep their order. -/
def insertBy {α : Type} (lt : α → α → Bool) (x : α) : List α → List α
  | [] => [x]
  | y :: ys => if lt x y then x :: y :: ys else y :: insertBy lt x ys
/-- Sorts by insertion; equal entries keep their order. -/
def sortBy {α : Type} (lt : α → α → Bool) : List α → List α
  | [] => []
  | x :: xs => insertBy (fun a b => !lt b a) x (sortBy lt xs)
/-- Sorts numbers ascending. -/
def sortNat (l : List Nat) : List Nat := sortBy (fun a b => decide (a < b)) l

/-! Lookups in the state. -/

/-- The thread or stream of a name. -/
def State.thread? (s : State) (k : ThKey) : Option Thread := s.threads.find? fun t => decide (t.key = k)
/-- The group of a name. -/
def State.group? (s : State) (k : GrpKey) : Option Group := s.groups.find? fun g => decide (g.key = k)
/-- The cohort of a name. -/
def State.cohort? (s : State) (k : CohKey) : Option Cohort := s.cohorts.find? fun c => decide (c.key = k)
/-- The launch of a context and identifier. -/
def State.launch? (s : State) (ctx id : Nat) : Option Launch := s.launches.find? fun l => l.ctx == ctx && l.id == id
/-- The context of an identifier. -/
def State.context? (s : State) (id : Nat) : Option Context := s.contexts.find? fun c => c.id == id
/-- The physical core of a number. -/
def State.core (s : State) (i : Nat) : Core := aget Core.fresh s.cores i
/-- The copy engine of a number. -/
def State.engine (s : State) (i : Nat) : Engine := aget Engine.fresh s.engines i
/-- An issue slot of a core. -/
def Core.slot (c : Core) (i : Nat) : IssueSlot := c.slots.getD i IssueSlot.fresh

/-! Replacements in the state, one per table. -/

/-- Replaces the threads. -/
def State.setThreads (s : State) (x : List Thread) : State := { s with threads := x }
/-- Replaces the groups. -/
def State.setGroups (s : State) (x : List Group) : State := { s with groups := x }
/-- Replaces the cohorts. -/
def State.setCohorts (s : State) (x : List Cohort) : State := { s with cohorts := x }
/-- Replaces the launches. -/
def State.setLaunches (s : State) (x : List Launch) : State := { s with launches := x }
/-- Replaces the contexts. -/
def State.setContexts (s : State) (x : List Context) : State := { s with contexts := x }
/-- Replaces the cores. -/
def State.setCores (s : State) (x : List (Nat × Core)) : State := { s with cores := x }
/-- Replaces the copy engines. -/
def State.setEngines (s : State) (x : List (Nat × Engine)) : State := { s with engines := x }
/-- Replaces the bytes of memory. -/
def State.setMem (s : State) (x : List Host.Cell) : State := { s with mem := x }
/-- Replaces the results under way. -/
def State.setRets (s : State) (x : List Ret) : State := { s with rets := x }
/-- Replaces the requests in flight. -/
def State.setReqs (s : State) (x : List Req) : State := { s with reqs := x }
/-- Replaces the management registers. -/
def State.setMgmt (s : State) (x : Mgmt) : State := { s with mgmt := x }

/-- Replaces one thread by its name. -/
def State.putThread (s : State) (t : Thread) : State :=
  s.setThreads (updWhere (fun u => decide (u.key = t.key)) (fun _ => t) s.threads)
/-- Updates one thread by its name. -/
def State.updThread (s : State) (k : ThKey) (f : Thread → Thread) : State :=
  s.setThreads (updWhere (fun u => decide (u.key = k)) f s.threads)
/-- Updates one group by its name. -/
def State.updGroup (s : State) (k : GrpKey) (f : Group → Group) : State :=
  s.setGroups (updWhere (fun g => decide (g.key = k)) f s.groups)
/-- Updates one cohort by its name. -/
def State.updCohort (s : State) (k : CohKey) (f : Cohort → Cohort) : State :=
  s.setCohorts (updWhere (fun c => decide (c.key = k)) f s.cohorts)
/-- Updates one launch. -/
def State.updLaunch (s : State) (ctx id : Nat) (f : Launch → Launch) : State :=
  s.setLaunches (updWhere (fun l => l.ctx == ctx && l.id == id) f s.launches)
/-- Updates one context. -/
def State.updContext (s : State) (id : Nat) (f : Context → Context) : State :=
  s.setContexts (updWhere (fun c => c.id == id) f s.contexts)
/-- Updates one core. -/
def State.updCore (s : State) (i : Nat) (f : Core → Core) : State := s.setCores (aput s.cores i (f (s.core i)))
/-- Updates one slot of one core. -/
def State.updSlot (s : State) (i j : Nat) (f : IssueSlot → IssueSlot) : State :=
  s.updCore i fun c => { c with slots := c.slots.set j (f (c.slot j)) }
/-- Updates one copy engine. -/
def State.updEngine (s : State) (i : Nat) (f : Engine → Engine) : State :=
  s.setEngines (aput s.engines i (f (s.engine i)))
/-- Sends something out of the device. -/
def State.send (s : State) (o : Output) : State := { s with outputs := s.outputs ++ [o] }
/-- Takes the next identifier. -/
def State.newId (s : State) : Nat × State := (s.nextId, { s with nextId := s.nextId + 1 })
/-- Moves to the next free value (log entry 7). -/
def State.useFree (s : State) : Nat × State := (s.free, { s with free := s.free + 1 })

/-! Names that threads read (R38, R124). -/

/-- The virtual core a cohort is resident on. -/
def Cohort.vcore (c : Cohort) : Nat :=
  match c.st with
  | .resident v => v
  | .killed v => v
  | .saved v => v
  | .waiting => 0
/-- The physical core behind a virtual core of a context (R352); 136, which is no core, where none is mapped. -/
def Context.phys (c : Context) (v : Nat) : Nat := aget 136 c.cores v
/-- The virtual device number of a context (R383). -/
def Context.self (c : Context) : Nat := (c.pod.podcfg.extractLsb' 0 10).toNat
/-- The virtual die of a virtual core: 32 cores per die (R2, R6). -/
def dieOf (vcore : Nat) : Nat := vcore / 32
/-- The physical die of a physical core (R352, R414). -/
def physDie (core : Nat) : Nat := core / 34
/-- The cluster of a core: clusters of 8 (R2). -/
def clusterOf (vcore : Nat) : Nat := vcore / 8
/-- The position of a thread in its group's membership order (R38). -/
def Group.laneOf (g : Group) (tid : Nat) : Nat := g.members.findIdx (fun t => t == tid)
/-- The issue slot that serves a group: %gid mod 4, and ((%gid + 2) mod 4) for an address stream (R133). -/
def slotOf (gid : Nat) (addr : Bool) : Nat := if addr then (gid + 2) % 4 else gid % 4

/-- The priority of an instruction address by the block-priority table (R65, R130). -/
def prioAt (bp : List (Nat × Nat)) (off : Nat) : Nat :=
  bp.foldl (fun acc e => if e.1 ≤ off then e.2 else acc) 0x8000
/-- The block priority of a program counter in a launch (R65, R130). The offset of one below TEXTBASE, to which the spec gives no priority,
wraps modulo 2^64, so that the last entry of the table applies: DESIGN CHOICE (log entry 85). -/
def Launch.prio (l : Launch) (pc : W64) : Nat := prioAt l.hdr.bp (pc - l.hdr.textbase).toNat
/-- The block priority of a program counter for the threads of a cohort. -/
def State.prio (s : State) (ck : CohKey) (pc : W64) : Nat :=
  match s.launch? ck.ctx ck.launch with
  | some l => l.prio pc
  | none => 0x8000

/-! Frontiers (R130). -/

/-- Frontier order: ascending priority, then ascending program counter. -/
def Entry.before (x y : Entry) : Bool :=
  decide (x.prio < y.prio) || (x.prio == y.prio && decide (x.pc.toNat < y.pc.toNat))
/-- Union of two member sets in ascending %tid. -/
def mergeTids (a b : List Nat) : List Nat := sortNat (a ++ b.filter fun x => !a.contains x)
/-- An entry takes its place in a frontier: it merges with an entry that is not blocked and holds the same program
counter in the same stream, keeping the larger of the two waiting counts; otherwise it is inserted after the entries
of equal order (R130, R132). -/
def placeEntry (en : Entry) (fr : List Entry) : List Entry :=
  let same := fun (x : Entry) => x.addr == en.addr && x.wait.isNone && decide (x.stat = .plain) && decide (x.pc = en.pc)
  if en.members.isEmpty then fr
  else if en.wait.isNone && decide (en.stat = .plain) && fr.any same then
    updWhere same
      (fun x => { x with members := mergeTids x.members en.members, readySince := min x.readySince en.readySince,
                         noMatch := x.noMatch && en.noMatch }) fr
  else insertBy Entry.before en fr
/-- A ready entry at a program counter. -/
def readyEntry (addr : Bool) (pc : W64) (prio : Nat) (members : List Nat) (clock : Nat) : Entry :=
  { addr := addr, pc := pc, prio := prio, members := members, readySince := clock, wait := none, stat := .plain,
    skip := false, noMatch := false }
/-- Members arrive at program counters in a group's frontier (R130, R131). -/
def State.arrive (s : State) (gk : GrpKey) (addr : Bool) (nexts : List (Nat × W64)) : State :=
  s.updGroup gk fun g =>
    let put := fun fr (p : Nat × W64) => placeEntry (readyEntry addr p.2 (s.prio gk.ck p.2) [p.1] s.clock) fr
    { g with frontier := nexts.foldl put g.frontier }

/-! The issuing entry. -/

/-- The issuing entry of this step: core, slot, and the run in progress. -/
structure Iss where
  core : Nat
  slot : Nat
  run : Run
  deriving DecidableEq, Repr

/-- The run of the slot that issues in this step. -/
def State.issuing (s : State) : Option Iss :=
  match s.cur with
  | some (c, j) =>
    match ((s.core c).slot j).run with
    | some r => some { core := c, slot := j, run := r }
    | none => none
  | none => none
/-- The cohort of the issuing entry. -/
def Iss.ck (i : Iss) : CohKey := i.run.gk.ck
/-- The name of a member. -/
def Iss.thKey (i : Iss) (tid : Nat) : ThKey := { ck := i.run.gk.ck, tid := tid, addr := i.run.addr }
/-- The members of the issuing entry in membership order (R130). -/
def State.members (s : State) (i : Iss) : List Thread := i.run.members.filterMap fun t => s.thread? (i.thKey t)
/-- Ends the run in progress of a slot; from this clock on its group waits for its next run (R140). -/
def State.clearRun (s : State) (i : Iss) : State :=
  (s.updSlot i.core i.slot fun x => { x with run := none }).updGroup i.run.gk fun g => { g with since := s.clock }

/-- Counts an execution of the instruction at the progress point of a running causal experiment (R365). -/
def State.countProgress (s : State) (i : Iss) : State :=
  s.updContext i.ck.ctx fun c =>
    if c.dbg.cxctl.getLsbD 31 && decide (c.dbg.cxppc = i.run.pc) then
      { c with dbg := { c.dbg with cxcount := c.dbg.cxcount + 1 } }
    else c

/-- The end of an instruction (R87, R131): every member has a next program counter; the run ends when the instruction
ends it, when its E bit is 1, when it is the 24th, or when a step issues one instruction; otherwise it goes on at the
next word. -/
def State.retire (s : State) (i : Iss) (ends : Bool) (nexts : List (Nat × W64)) : State :=
  let s := s.countProgress i
  if ends || i.run.e || decide (24 ≤ i.run.count + 1) || i.run.single then
    (s.clearRun i).arrive i.run.gk i.run.addr nexts
  else
    s.updSlot i.core i.slot fun x =>
      { x with run := some { i.run with pc := nextPc i.run.pc, count := i.run.count + 1, stalledSince := none,
                                        waits := [], needs := [],
                                        noMatch := false } }
/-- Every member goes on at the next word. -/
def Iss.fallThrough (i : Iss) : List (Nat × W64) := i.run.members.map fun t => (t, nextPc i.run.pc)
/-- The instruction waits as a dependence stall: it holds its slot and nothing changes (R134). The members that wait on a
queue are named with it (R188), and the registers that it waits for (R364). -/
def State.stall (s : State) (i : Iss) (q : List (Nat × Nat)) (needs : List (Nat × Bool × Nat) := []) : State :=
  let from' := if q = i.run.waits then i.run.stalledSince.getD s.clock else s.clock
  let r : Run := { i.run with stalledSince := some from', waits := q, tested := s.clock, needs := needs }
  s.updSlot i.core i.slot fun x => { x with run := some r }
/-- A DET slot comes to a switch point where its current group is gone or has no ready entry left (R142). -/
def State.switchPoint (s : State) (i : Iss) : State :=
  if (match s.group? i.run.gk with
    | some g => g.frontier.any fun en => en.addr == i.run.addr && en.wait.isNone
    | none => false) then s
  else s.updSlot i.core i.slot fun x => { x with detCur := if x.detCur = some i.run.gk then none else x.detCur }
/-- The entry blocks at the instruction it waits in: the run ends and the slot is free (R135). -/
def State.block (s : State) (i : Iss) (w : Wait) : State :=
  ((s.clearRun i).updGroup i.run.gk fun g =>
    let en := { (readyEntry i.run.addr i.run.pc (s.prio i.ck i.run.pc) i.run.members s.clock) with wait := some w }
    { g with frontier := insertBy Entry.before en g.frontier }).switchPoint i

/-! Which groups a slot serves (R133). -/

/-- Whether a cohort belongs to a DET launch (R142). -/
def State.isDet (s : State) (ck : CohKey) : Bool :=
  match s.launch? ck.ctx ck.launch with
  | some l => l.hdr.det
  | none => false
/-- The cohorts on a physical core. -/
def State.cohortsOn (s : State) (core : Nat) : List Cohort :=
  s.cohorts.filter fun c => match c.st with
    | .resident v => (match s.context? c.key.ctx with | some x => x.phys v == core | none => false)
    | .killed v => (match s.context? c.key.ctx with | some x => x.phys v == core | none => false)
    | .waiting => false
    | .saved _ => false
/-- Whether a group's role is split (R124). -/
def State.isSplit (s : State) (g : Group) : Bool :=
  match s.launch? g.key.ck.ctx g.key.ck.launch with
  | some l => (match l.hdr.roles[g.role]? with | some r => r.split | none => false)
  | none => false
/-- A group, or one stream of a split group, bound to a slot. -/
structure Bound where
  g : Group
  addr : Bool
  res : Nat
  order : Nat
  det : Bool
  deriving DecidableEq, Repr
/-- The place of a bound group in the order of R140: cohort residency order, then %gid. -/
def Bound.before (x y : Bound) : Bool :=
  decide (x.res < y.res) || (x.res == y.res && decide (x.g.key.gid < y.g.key.gid))
/-- Launch creation order of a launch (R125). -/
def State.launchOrder (s : State) (ck : CohKey) : Nat :=
  match s.launch? ck.ctx ck.launch with
  | some l => l.order
  | none => 0
/-- The groups of the cohorts on a core. -/
def State.groupsOn (s : State) (core : Nat) : List (Cohort × Group) :=
  (s.cohortsOn core).flatMap fun c => (s.groups.filter fun g => decide (g.key.ck = c.key)).map fun g => (c, g)
/-- The groups bound to a slot of a core, in the order of R140. -/
def State.boundTo (s : State) (core slot : Nat) : List Bound :=
  sortBy Bound.before ((s.groupsOn core).flatMap fun p =>
    let b := fun (addr : Bool) =>
      ({ g := p.2, addr := addr, res := p.1.residency, order := s.launchOrder p.1.key, det := s.isDet p.1.key } : Bound)
    (if slotOf p.2.key.gid false == slot then [b false] else []) ++
    (if s.isSplit p.2 && slotOf p.2.key.gid true == slot then [b true] else []))
/-- After a group left a core's slots: a slot with no group bound has served none, and one that is not bound to both modes
has issued no run since both were (R372, R416). -/
def State.idleSlots (s : State) (core : Nat) : State :=
  (List.range 4).foldl (fun s j =>
    let b := s.boundTo core j
    s.updSlot core j fun x =>
      let x := if b.isEmpty then { x with served := none } else x
      if b.any (·.det) && b.any (fun y => !y.det) then x else { x with anyRun := false }) s

/-! Traps. -/

/-- The trap causes (R334). -/
inductive Cause
  | illegalEncoding | registerRange | misaligned | pageFault | protection | accBusy | memoryRace | barrierOverflow
  | copyFault | traversalBudget | breakpoint | step | software | fpException | queueDeadlock | timeOrder
  | scratchUncorrectable | replicaMismatch | peerHalt | narrowScopeStall | blockFormat | groupShape
  deriving DecidableEq, Repr
/-- The codes of the trap causes (R334). -/
def Cause.code : Cause → Nat
  | .illegalEncoding => 0x01 | .registerRange => 0x02 | .misaligned => 0x03 | .pageFault => 0x04 | .protection => 0x05
  | .accBusy => 0x06 | .memoryRace => 0x07 | .barrierOverflow => 0x08 | .copyFault => 0x09 | .traversalBudget => 0x0A
  | .breakpoint => 0x0B | .step => 0x0C | .software => 0x0D | .fpException => 0x0E | .queueDeadlock => 0x10
  | .timeOrder => 0x11 | .scratchUncorrectable => 0x12 | .replicaMismatch => 0x13 | .peerHalt => 0x14
  | .narrowScopeStall => 0x15 | .blockFormat => 0x18 | .groupShape => 0x19

/-- A trap as an instruction raises it, and what its record holds (R335, R336). Its rank orders R45: 1 to 6, then 7 and up
for the instruction's own causes in their order, and 100 for FP_EXCEPTION. -/
structure Trap where
  rank : Nat
  cause : Cause
  sub : Nat := 0
  write : Bool := false
  malformed : Bool := false
  cow : Bool := false
  poison : Bool := false
  addr : W64 := 0
  info1 : W64 := 0
  info2 : W64 := 0
  deriving DecidableEq, Repr

/-- ILLEGAL_ENCODING, rank 1 (R45, R53). -/
def Trap.illegal : Trap := { rank := 1, cause := .illegalEncoding }
/-- REGISTER_RANGE of a slot or spectral register, rank 2 (R33, R37, R336). -/
def Trap.range (n : Nat) (isW : Bool) : Trap :=
  { rank := 2, cause := .registerRange, info1 := w64 (n % 1024) ||| (if isW then 0x400#64 else 0) }
/-- PROTECTION, rank 3: a privileged instruction or special register (R38, R40, R54). -/
def Trap.privilege : Trap := { rank := 3, cause := .protection }
/-- PROTECTION from an address, rank 4 (R42). -/
def Trap.addrProt (a : W64) (wr : Bool) : Trap := { rank := 4, cause := .protection, addr := a, write := wr }
/-- MISALIGNED, rank 5 (R42). -/
def Trap.misaligned (a : W64) (wr : Bool) : Trap := { rank := 5, cause := .misaligned, addr := a, write := wr }

/-- Of the members' trap conditions, the one reported: the highest-ranked, against the lowest lane that meets it
(R45, R146, R225, R305). -/
def firstTrap : List (Nat × Option Trap) → Option (Nat × Trap)
  | [] => none
  | (_, none) :: rest => firstTrap rest
  | (t, some x) :: rest =>
    match firstTrap rest with
    | some (u, y) => if y.rank < x.rank then some (u, y) else some (t, x)
    | none => some (t, x)

/-- HALT control messages leave for every member of the job that is in it and not fenced, once per episode, when the
halt line rises (R387). -/
def Context.liveMembers (c : Context) : List Nat :=
  (c.pod.devmap.filter fun e => e.2.getLsbD 31 && !e.2.getLsbD 30).map (·.1)
/-- The job identifier (R383). -/
def Context.jobid (c : Context) : Nat := (c.pod.podcfg.extractLsb' 32 32).toNat
/-- How many parts a control message is split into (R382): a CAUSE entry of 64 bytes does not fit the BODY of one (R390), and a FLUE message
takes the parts its changes need (R393; log entry 93). -/
def ctlParts : CtlBody → Nat
  | .cause _ => 2
  | .flue b => 1 + Config.flueParts (b.incs.length + b.decs.length)
  | .halt | .prep _ | .confirm | .resent | .release _ | .digest _ _ | .fence _ => 1
/-- The next control message to a member, in its parts, each with its 32-bit per-source sequence number (R382). -/
def Context.ctlTo (c : Context) (dst : Nat) (b : CtlBody) : Context × List Output :=
  let n := aget 0 c.pod.cseqOut dst
  let k := ctlParts b
  ({ c with pod := { c.pod with cseqOut := aput c.pod.cseqOut dst ((n + k) % 2 ^ 32) } },
   (List.range k).map fun j =>
     .ctl dst { src := c.self, jobid := c.jobid, epoch := c.pod.epoch, cseq := (n + j) % 2 ^ 32, body := b, last := j + 1 == k })
/-- A control message to each of a list of members. -/
def Context.ctlAll (c : Context) (dsts : List Nat) (b : CtlBody) : Context × List Output :=
  dsts.foldl (fun acc d => let r := acc.1.ctlTo d b; (r.1, acc.2 ++ r.2)) (c, [])
/-- Replaces a context and sends messages. -/
def State.putSent (s : State) (p : Context × List Output) : State :=
  let t := s.updContext p.1.id (fun _ => p.1)
  { t with outputs := t.outputs ++ p.2 }

/-- The halt line of a context rises (R337): RUNNING becomes HALTING; a running causal experiment is cut (R365); in a
job the Damper enters FREEZING and floods HALT (R387). -/
def State.raiseHalt (s : State) (ctx : Nat) : State :=
  match s.context? ctx with
  | none => s
  | some c =>
    if c.st = .running then
      let d := c.dbg
      let c := { c with st := .halting,
                        dbg := if d.cxctl.getLsbD 31 then
                            { d with cxctl := (d.cxctl &&& 0x7FFFFFFF#32) ||| 0x40000000#32 } else d }
      if c.pod.damper = .run then
        let f : Context := { c with pod := { c.pod with damper := .freezing } }
        s.putSent (f.ctlAll (c.liveMembers.filter fun m => m != c.self) .halt)
      else s.updContext ctx fun _ => c
    else s

/-- PTP time as %ptptime reads it (R38, R98). -/
def State.ptp (s : State) : W64 := w64 s.time.ns

/-- The record of a trap of a thread (R335). -/
def State.trapRec (s : State) (i : Iss) (t : Nat) (x : Trap) : TrapRec :=
  let th := s.thread? (i.thKey t)
  { cause := x.cause.code, sub := x.sub,
    sup := match th with | some th => th.status.getLsbD 31 | none => false,
    write := x.write, malformed := x.malformed, cow := x.cow, poison := x.poison, req := false,
    launch := i.ck.launch, coh := i.ck.coh, tid := t, gid := i.run.gk.gid, pc := i.run.pc, addr := x.addr,
    info1 := x.info1, info2 := x.info2, ptptime := s.ptp,
    ltime := match th with | some th => th.time | none => 0,
    clock := s.clock, kind := 0, engine := 0, seq := 0 }
/-- Adds a trap record to the stop under way of a context. -/
def State.addTrap (s : State) (ctx : Nat) (r : TrapRec) : State :=
  s.updContext ctx fun c => { c with traps := c.traps ++ [r] }

/-- Whether a request waits only for what its instruction asked beforehand: a refused request that is re-sent (R217), or an access of
another device (R385). -/
def Req.asked (r : Req) : Bool := r.vdev.isSome || decide (r.op = .probe)
/-- What an instruction asked beforehand goes with it when it traps. -/
def State.dropAsked (s : State) (i : Iss) : State :=
  s.setReqs (s.reqs.filter fun r => !(r.asked && r.merged.isEmpty && (i.run.members.any fun t => decide (r.key = i.thKey t))))

/-- TAKING A TRAP (R45, R334 to R338): every member of the issuing entry takes the cause code in %trap and stops at the
instruction; the record holds the pc of the instruction; the run ends; the halt line of the context rises. `after` is
true for the causes whose thread continues at PC + 4 when the context resumes (R334). A debug breakpoint leaves the
entry at STATUS 6 (R340, R357 to R359). -/
def State.takeTrap (s : State) (i : Iss) (t : Nat) (x : Trap) (after : Bool := false) : State :=
  let r := s.trapRec i t x
  let s1 := (s.dropAsked i).setThreads (updWhere
    (fun u => decide (u.key.ck = i.ck) && u.key.addr == i.run.addr && i.run.members.contains u.key.tid)
    (fun u => { u with trap := BitVec.ofNat 8 x.cause.code }) s.threads)
  let s2 := (s1.clearRun i).updGroup i.run.gk fun g =>
    let en := { (readyEntry i.run.addr i.run.pc (s.prio i.ck i.run.pc) i.run.members s.clock) with
                  stat := if x.cause = .breakpoint ∧ x.info1 = 0x80#64 then .breakpoint else .trapped,
                  skip := after }
    { g with frontier := insertBy Entry.before en g.frontier }
  (s2.addTrap i.ck.ctx r).raiseHalt i.ck.ctx

/-- SYS: the call of the supervisor within one thread (R94): the return state takes PC + 4 and SUP, the thread enters
supervisor mode; the program counter goes to the entry of the system-call table. -/
def Thread.enterSys (t : Thread) (pc : W64) : Thread :=
  { t with xpc := nextPc pc, xsup := t.status.getLsbD 31, status := t.status ||| 0x80000000#32 }
/-- ERET: SUP returns from the return state; the program counter goes to XPC (R95). -/
def Thread.leaveSys (t : Thread) : Thread :=
  { t with status := (t.status &&& 0x7FFFFFFF#32) ||| (if t.xsup then 0x80000000#32 else 0) }

end Sys2Proof.Machine
end

