-- ==== Sys2Proof/Machine/Paths.lean ====
section
/-! DEFINITION. The access paths of a cohort's scratch and tiles (R167, R203, R204, R214, R215): what a read on one path gives of words that
another path wrote. -/

namespace Sys2Proof.Machine

/-- A path set (R49). -/
def pathsOf (b : BitVec 5) : List MemPath :=
  ([MemPath.gen, .ro, .copy, .acc, .coll].zip (List.range 5)).filterMap fun p => if b.getLsbD p.2 then some p.1 else none
/-- A word of scratch or of tiles. -/
def cellIn (scratch : Sparse Byte) (tiles : List Tile) : ScrCell → W32
  | .scratch w => w32 (leNat ((List.range 4).map fun k => sget 0 scratch (4 * w + k)))
  | .tile n e => match tiles.find? fun x => x.no == n with
    | some x => sget 0 x.elems e
    | none => 0
/-- A word of a cohort's scratch or tiles now. -/
def Cohort.cell (c : Cohort) (x : ScrCell) : W32 := cellIn c.scratch c.tiles x
/-- A word before a run of writes. -/
def OldScratch.cell (o : OldScratch) (x : ScrCell) : W32 := cellIn o.scratch o.tiles x
/-- Whether every read of a thread on a path sees a run of writes: it is on that path (R204), or a FENCE.X bridges the two (R215). -/
def OldScratch.known (o : OldScratch) (tid : Nat) (p : MemPath) : Bool := decide (o.path = p) || o.seen.contains (tid, p)
/-- Whether a thread may still read, on a path, what the scratch and the tiles held before a write. -/
def Cohort.blind (c : Cohort) (tid : Nat) (p : MemPath) : Bool := c.older.any fun o => !o.known tid p
/-- A path is about to write scratch or tiles of a cohort: what they hold is kept, once for a run of writes on one path that no thread has
seen. -/
def Cohort.keep (c : Cohort) (p : MemPath) : Cohort :=
  match c.older.getLast? with
  | some o => if decide (o.path = p) && o.seen.isEmpty && o.read.isEmpty then c
    else { c with older := c.older ++ [{ path := p, scratch := c.scratch, tiles := c.tiles, seen := [], read := [] }] }
  | none => { c with older := [{ path := p, scratch := c.scratch, tiles := c.tiles, seen := [], read := [] }] }
/-- The older values that a thread's read on a path may give of a word, each with its place among the runs of writes; from the last run
back to the last one that the thread has seen change the word (R214, R215). -/
def oldValues (tid : Nat) (p : MemPath) (x : ScrCell) : List (Nat × OldScratch) → W32 → List (Nat × W32)
  | [], _ => []
  | (j, o) :: rest, after =>
    if o.known tid p || o.read.contains (tid, p, x) then (if o.cell x = after then oldValues tid p x rest after else [])
    else (j, o.cell x) :: oldValues tid p x rest (o.cell x)
/-- A thread has read what the runs of writes up to a place wrote to a word. -/
def Cohort.noteRead (c : Cohort) (tid : Nat) (p : MemPath) (x : ScrCell) (n : Nat) : Cohort :=
  { c with older := ((List.range c.older.length).zip c.older).map fun q =>
      if q.1 < n && !q.2.known tid p && !q.2.read.contains (tid, p, x) then { q.2 with read := q.2.read ++ [(tid, p, x)] } else q.2 }
/-- A thread's read of a word on a path: its value now, or an older one (R215), which of them is free. -/
def State.seeCell (s : State) (ck : CohKey) (tid : Nat) (p : MemPath) (x : ScrCell) : W32 × State :=
  match s.cohort? ck with
  | none => (0, s)
  | some c =>
    let n := c.older.length
    let l := oldValues tid p x ((List.range n).zip c.older).reverse (c.cell x)
    if l.isEmpty then (c.cell x, s)
    else
      let f := s.useFree
      match l[Config.freeNat f.1 % (l.length + 1)]? with
      | some v => (v.2, f.2.updCohort ck fun c => c.noteRead tid p x v.1)
      | none => (c.cell x, f.2.updCohort ck fun c => c.noteRead tid p x n)
/-- What the reads of an instruction or a request give on a path, by thread and word: what the words hold now where every reader sees every
write. -/
def State.see (s : State) (c : Cohort) (p : MemPath) (l : List (Nat × ScrCell)) : (Nat → ScrCell → W32) × State :=
  if l.any fun x => c.blind x.1 p then
    let r := l.foldl (fun (acc : List ((Nat × ScrCell) × W32) × State) x =>
      let w := acc.2.seeCell c.key x.1 p x.2
      (acc.1 ++ [(x, w.1)], w.2)) ([], s)
    (fun t x => kget 0 r.1 (t, x), r.2)
  else (fun _ x => c.cell x, s)
/-- Bytes of a cohort's scratch (R177). -/
def Cohort.readScratch (c : Cohort) (o n : Nat) : Bytes := (List.range n).map fun k => sget 0 c.scratch (o + k)
/-- The words that a range of bytes touches, as places from an offset up. -/
def wordsAt (o n : Nat) : List Nat := (List.range ((o + n + 3) / 4 - o / 4)).map fun k => o / 4 + k
/-- What reads of n bytes of scratch, or of a tile, give on a path, by thread and offset; `now` is what the bytes are. -/
def State.seeBytes (s : State) (c : Cohort) (p : MemPath) (n : Nat) (word : Nat → ScrCell) (now : Nat → Bytes) (l : List (Nat × Nat)) :
    (Nat → Nat → Bytes) × State :=
  if l.any fun x => c.blind x.1 p then
    let r := s.see c p (l.flatMap fun x => (wordsAt x.2 n).map fun w => (x.1, word w))
    (fun t o => ((bytesOfWords ((wordsAt o n).map fun w => r.1 t (word w))).drop (o % 4)).take n, r.2)
  else (fun _ o => now o, s)
/-- What reads of n bytes of scratch give on a path. -/
def State.seeScratch (s : State) (c : Cohort) (p : MemPath) (n : Nat) (l : List (Nat × Nat)) : (Nat → Nat → Bytes) × State :=
  s.seeBytes c p n .scratch (fun o => c.readScratch o n) l
/-- A FENCE.X of some threads lets their reads on each path of its set see what the others of the set wrote (R215). -/
def Cohort.bridge (c : Cohort) (tids : List Nat) (ps : List MemPath) : Cohort :=
  { c with older := c.older.map fun o =>
      if ps.contains o.path then
        { o with seen := (o.seen ++ tids.flatMap fun t => (ps.filter fun p => decide (p ≠ o.path)).map fun p => (t, p)).eraseDups }
      else o }

end Sys2Proof.Machine
end

