-- ==== Sys2Proof/Machine/Float.lean ====
section
/-! DEFINITION. Numbers: the plain and blocked formats of R9 to R18, the rounding of R19 to R26, the arithmetic of R75,
R76 and R83 and the sums of R23 and R29 to R31. Values are exact: a number is (-1)^s × m × 2^e with natural m. -/

namespace Sys2Proof.Machine

/-- The flags an operation raises, as FLAGS holds them: [4] NV, [3] DZ, [2] OF, [1] UF, [0] NX (R39). -/
abbrev Fl := BitVec 5
/-- Invalid. -/
def flNV : Fl := 0b10000#5
/-- Divide by zero. -/
def flDZ : Fl := 0b01000#5
/-- Overflow. -/
def flOF : Fl := 0b00100#5
/-- Underflow. -/
def flUF : Fl := 0b00010#5
/-- Inexact. -/
def flNX : Fl := 0b00001#5

/-- The rounding modes of R19 without DYN. -/
inductive RMode | rne | rtz | rdn | rup | rto deriving DecidableEq, Repr

/-- A decoded operand: a NaN (signalling or not), an infinity, or (-1)^s × m × 2^e. -/
inductive FV
  | nan (signalling : Bool)
  | inf (s : Bool)
  | fin (s : Bool) (m : Nat) (e : Int)
  deriving DecidableEq, Repr

/-- Whether a value is a NaN. -/
def FV.isNaN : FV → Bool | .nan _ => true | .inf _ => false | .fin _ _ _ => false
/-- Whether a value is a signalling NaN. -/
def FV.isSNaN : FV → Bool | .nan b => b | .inf _ => false | .fin _ _ _ => false
/-- Whether a value is an infinity. -/
def FV.isInf : FV → Bool | .inf _ => true | .nan _ => false | .fin _ _ _ => false
/-- Whether a value is a zero. -/
def FV.isZero : FV → Bool | .fin _ m _ => m == 0 | .nan _ => false | .inf _ => false
/-- The sign of a value; a NaN counts as positive. -/
def FV.sign : FV → Bool | .fin s _ _ => s | .inf s => s | .nan _ => false
/-- The opposite value. -/
def FV.neg : FV → FV | .nan b => .nan b | .inf s => .inf !s | .fin s m e => .fin (!s) m e
/-- The value of an exact integer. -/
def FV.ofInt (x : Int) : FV := .fin (decide (x < 0)) x.natAbs 0

/-- The parameters of a binary floating-point format (R10): exponent bits, fraction bits, and how far its bits stand
above the bottom of its container (13 for FX19). -/
structure FPar where
  eb : Nat
  fb : Nat
  up : Nat
  deriving DecidableEq, Repr
/-- FP32. -/
def parF32 : FPar := { eb := 8, fb := 23, up := 0 }
/-- FX19 (R13). -/
def parFX19 : FPar := { eb := 8, fb := 10, up := 13 }
/-- BF16. -/
def parBF16 : FPar := { eb := 8, fb := 7, up := 0 }
/-- FP16. -/
def parF16 : FPar := { eb := 5, fb := 10, up := 0 }
/-- E5M2. -/
def parE5M2 : FPar := { eb := 5, fb := 2, up := 0 }
/-- E4M3. -/
def parE4M3 : FPar := { eb := 4, fb := 3, up := 0 }
/-- E3M4. -/
def parE3M4 : FPar := { eb := 3, fb := 4, up := 0 }
/-- P: significand bits with the implicit one. -/
def FPar.p (f : FPar) : Nat := f.fb + 1
/-- The exponent bias. -/
def FPar.bias (f : FPar) : Int := (2 ^ (f.eb - 1) - 1 : Nat)
/-- EMIN. -/
def FPar.emin (f : FPar) : Int := 1 - f.bias
/-- EMAX. -/
def FPar.emax (f : FPar) : Int := f.bias
/-- The weight, as an exponent of two, of the last bit of a subnormal. -/
def FPar.qmin (f : FPar) : Int := f.emin - f.fb
/-- A pattern with the given sign and lower bits, in its container. -/
def FPar.pattern (f : FPar) (s : Bool) (low : Nat) : Nat :=
  ((if s then 2 ^ (f.eb + f.fb) else 0) + low) * 2 ^ f.up
/-- The infinity of a sign (R12). -/
def FPar.infBits (f : FPar) (s : Bool) : Nat := f.pattern s ((2 ^ f.eb - 1) * 2 ^ f.fb)
/-- The canonical NaN (R11). -/
def FPar.nanBits (f : FPar) : Nat := f.pattern false ((2 ^ f.eb - 1) * 2 ^ f.fb + 2 ^ (f.fb - 1))
/-- The largest finite value of a sign (R12). -/
def FPar.maxBits (f : FPar) (s : Bool) : Nat := f.pattern s ((2 ^ f.eb - 1) * 2 ^ f.fb - 1)

/-- Reads a pattern of a floating-point format (R10 to R13). -/
def decodeF (f : FPar) (x : Nat) : FV :=
  let b := x / 2 ^ f.up
  let frac := b % 2 ^ f.fb
  let ex := b / 2 ^ f.fb % 2 ^ f.eb
  let s := b / 2 ^ (f.fb + f.eb) % 2 == 1
  if ex == 2 ^ f.eb - 1 then
    if frac == 0 then .inf s else .nan (frac < 2 ^ (f.fb - 1))
  else if ex == 0 then .fin s frac f.qmin
  else .fin s (frac + 2 ^ f.fb) (f.qmin + (ex - 1 : Nat))

/-- Whether a kept magnitude n with last bit weight 2^q exceeds the largest finite value (R20). -/
def FPar.over (f : FPar) (n : Nat) (q : Int) : Bool :=
  let qtop := f.emax - f.fb
  if qtop ≤ q then decide (2 ^ f.p - 1 < n * 2 ^ (q - qtop).toNat) else false
/-- The result of an overflow (R21). -/
def FPar.overflow (f : FPar) (mode : RMode) (s sat : Bool) : Nat :=
  if sat then f.maxBits s
  else match mode with
    | .rne => f.infBits s
    | .rtz | .rto => f.maxBits s
    | .rdn => if s then f.infBits true else f.maxBits false
    | .rup => if s then f.maxBits true else f.infBits false

/-- Rounds n units and a remainder up or not (R19, R20): `half` compares the remainder with half a unit. -/
def roundUp (mode : RMode) (s : Bool) (n : Nat) (half : Ordering) : Nat :=
  match mode with
  | .rne => match half with
    | .gt => n + 1
    | .eq => if n % 2 == 1 then n + 1 else n
    | .lt => n
  | .rtz => n
  | .rup => if s then n else n + 1
  | .rdn => if s then n + 1 else n
  | .rto => if n % 2 == 1 then n else n + 1
/-- Splits m × 2^e at weight 2^q: the units, whether anything remains, and how the remainder compares with half a unit;
`sticky` says that the exact value lies strictly between m and m + 1 units of 2^e. -/
def splitAt (m : Nat) (e q : Int) (sticky : Bool) : Nat × Bool × Ordering :=
  if q ≤ e then (m * 2 ^ (e - q).toNat, sticky, .lt)
  else
    let w := 2 ^ (q - e).toNat
    let rem := m % w
    (m / w, rem != 0 || sticky,
     if 2 * rem < w then .lt else if 2 * rem == w && !sticky then .eq else .gt)

/-- RoundFloat of R20 and R21 on the exact value (-1)^s × m × 2^e, or a value strictly between m and m + 1 units when
`sticky`; an m of zero keeps the sign s. -/
def roundFloat (f : FPar) (mode : RMode) (sat s : Bool) (m : Nat) (e : Int) (sticky : Bool := false) : Fl × Nat :=
  if m == 0 && !sticky then (0, f.pattern s 0)
  else
    let top := if m == 0 then e else e + Nat.log2 m
    let q := max top f.emin - f.fb
    let sp := splitAt m e q sticky
    let n := if sp.2.1 then roundUp mode s sp.1 sp.2.2 else sp.1
    if f.over n q then (flOF ||| flNX, f.overflow mode s sat)
    else
      let inexact := sp.2.1
      let tiny := q == f.qmin && decide (n < 2 ^ f.fb)
      ((if inexact then flNX else 0) ||| (if inexact && tiny then flUF else 0),
       f.pattern s ((q - f.qmin).toNat * 2 ^ f.fb + n))

/-- The sign of a sum whose exact value is zero (R23). -/
def zeroSign (mode : RMode) (signs : List Bool) : Bool :=
  if signs.all id && !signs.isEmpty then true
  else if signs.all (!·) then false
  else mode == .rdn
/-- The exact sum of finite terms as an integer of units of 2^e, with e the least exponent. -/
def exactSum (ts : List (Bool × Nat × Int)) : Int × Int :=
  let e := ts.foldl (fun acc t => min acc t.2.2) (match ts with | [] => 0 | t :: _ => t.2.2)
  (ts.foldl (fun acc t => acc + (if t.1 then -1 else 1) * (t.2.1 * 2 ^ (t.2.2 - e).toNat : Nat)) 0, e)
/-- The finite terms among values. -/
def finTerms (ts : List FV) : List (Bool × Nat × Int) :=
  ts.filterMap fun t => match t with | .fin s m e => some (s, m, e) | .nan _ => none | .inf _ => none
/-- The product of two values with its sign (R23); none for 0 × Inf. NaN operands give a NaN. -/
def mulFV (x y : FV) : Option FV :=
  match x, y with
  | .nan a, .nan b => some (.nan (a || b))
  | .nan a, _ => some (.nan a)
  | _, .nan b => some (.nan b)
  | .inf s, .fin t m _ => if m == 0 then none else some (.inf (s != t))
  | .fin s m _, .inf t => if m == 0 then none else some (.inf (s != t))
  | .inf s, .inf t => some (.inf (s != t))
  | .fin s m e, .fin t n d => some (.fin (s != t) (m * n) (e + d))
/-- The sum of terms, one rounding (R29), with the special values of R75 and R83; a term of none is 0 × Inf. R83 does not order its
cases: that a NaN term settles the result before infinities of both signs are looked at, so that a quiet NaN beside them sets no NV, is
DESIGN CHOICE (log entry 87). -/
def sumRound (f : FPar) (mode : RMode) (ts : List (Option FV)) : Fl × Nat :=
  let vs := ts.filterMap id
  let nv := if vs.any FV.isSNaN || ts.any Option.isNone then flNV else 0
  if ts.any Option.isNone || vs.any FV.isNaN then (nv, f.nanBits)
  else if vs.any (fun v => v.isInf && v.sign) && vs.any (fun v => v.isInf && !v.sign) then (flNV, f.nanBits)
  else if vs.any FV.isInf then (nv, f.infBits (vs.any fun v => v.isInf && v.sign))
  else
    let r := exactSum (finTerms vs)
    if r.1 == 0 then (nv, f.pattern (zeroSign mode (vs.map FV.sign)) 0)
    else
      let q := roundFloat f mode false (decide (r.1 < 0)) r.1.natAbs r.2
      (nv ||| q.1, q.2)

/-- The operations of FArith (R75). -/
inductive FOp | add | sub | mul | fma deriving DecidableEq, Repr
/-- FArith of R75 on decoded operands. -/
def fArith (op : FOp) (x y z : FV) (f : FPar) (mode : RMode) : Fl × Nat :=
  match op with
  | .add => sumRound f mode [some x, some y]
  | .sub => sumRound f mode [some x, some y.neg]
  | .mul => match mulFV x y with
    | none => (flNV, f.nanBits)
    | some p => match p with
      | .nan b => ((if b then flNV else 0), f.nanBits)
      | .inf s => (0, f.infBits s)
      | .fin s m e => roundFloat f mode false s m e
  | .fma => sumRound f mode [mulFV x y, some z]

/-- Compares two finite or infinite values, zeros of both signs equal. -/
def cmpFV (x y : FV) : Ordering :=
  match x, y with
  | .inf s, .inf t => if s == t then .eq else if s then .lt else .gt
  | .inf s, _ => if s then .lt else .gt
  | _, .inf t => if t then .gt else .lt
  | .fin s m e, .fin t n d =>
    let r := (exactSum [(s, m, e), (!t, n, d)]).1
    if r < 0 then .lt else if r == 0 then .eq else .gt
  | .nan _, _ => .eq
  | _, .nan _ => .eq
/-- Whether x is less than y with -0 below +0 (R76). -/
def lessZ (x y : FV) : Bool :=
  match cmpFV x y with
  | .lt => true
  | .gt => false
  | .eq => x.isZero && y.isZero && x.sign && !y.sign
/-- FMIN and FMAX of R76 on patterns of a format. -/
def fMinMax (f : FPar) (isMax : Bool) (a b : Nat) : Fl × Nat :=
  let x := decodeF f a
  let y := decodeF f b
  let nv := if x.isSNaN || y.isSNaN then flNV else 0
  let r :=
    if x.isNaN && y.isNaN then f.nanBits
    else if x.isNaN then b
    else if y.isNaN then a
    else if isMax then (if lessZ x y then b else a)
    else if lessZ y x then b else a
  (nv, r)

/-! Plain formats. -/

/-- The element width of a plain format (R9). -/
def fmtWidth : PFmt → Nat
  | .f32 | .fx19 => 32
  | .bf16 | .f16 => 16
  | .e5m2 | .e4m3 | .e3m4 | .i8 | .n8 | .h8 => 8
  | .i4 | .n4 | .h4 => 4
  | .h2 => 2
  | .bin1 => 1
/-- The parameters of a plain floating-point format. -/
def fmtPar : PFmt → Option FPar
  | .f32 => some parF32 | .fx19 => some parFX19 | .bf16 => some parBF16 | .f16 => some parF16
  | .e5m2 => some parE5M2 | .e4m3 => some parE4M3 | .e3m4 => some parE3M4
  | .i8 | .n8 | .i4 | .n4 | .h8 | .h4 | .h2 | .bin1 => none
/-- A two's-complement code of w bits. -/
def signedOf (w x : Nat) : Int := if x < 2 ^ (w - 1) then x else (x : Int) - 2 ^ w
/-- The value of a half-step code of w bits (R14): (2c + 1) halves. -/
def halfStep (w x : Nat) : FV :=
  let c := 2 * signedOf w x + 1
  .fin (decide (c < 0)) c.natAbs (-1)
/-- Reads an element of a plain format (R10 to R14); bits above its width are ignored. -/
def decodeP (t : PFmt) (v : Nat) : FV :=
  let x := v % 2 ^ fmtWidth t
  match t with
  | .f32 => decodeF parF32 x
  | .fx19 => decodeF parFX19 x
  | .bf16 => decodeF parBF16 x
  | .f16 => decodeF parF16 x
  | .e5m2 => decodeF parE5M2 x
  | .e4m3 => decodeF parE4M3 x
  | .e3m4 => decodeF parE3M4 x
  | .i8 => .ofInt (signedOf 8 x)
  | .n8 => .ofInt x
  | .i4 => .ofInt (signedOf 4 x)
  | .n4 => .ofInt x
  | .h8 => halfStep 8 x
  | .h4 => halfStep 4 x
  | .h2 => halfStep 2 x
  | .bin1 => .fin (x == 0) 1 0

/-- Rounds to an integer by R20 with q = 1 and clamps to a range (R24): the integer and the flags. -/
def roundInt (mode : RMode) (lo hi : Int) (v : FV) : Fl × Int :=
  match v with
  | .nan _ => (flNV, 0)
  | .inf s => (flNV, if s then lo else hi)
  | .fin s m e =>
    let sp := splitAt m e 0 false
    let n := if sp.2.1 then roundUp mode s sp.1 sp.2.2 else sp.1
    let x : Int := if s then -(n : Int) else n
    if x < lo then (flNV, lo) else if hi < x then (flNV, hi)
    else ((if sp.2.1 then flNX else 0), x)
/-- Floor of m × 2^e with sign s, minus one half, in units of 2^(e - 1) kept exact: floor (x - 1/2) and the doubled
distance of x from that level's centre, as (lo, 2d numerator, 2d denominator). -/
def halfParts (s : Bool) (m : Nat) (e : Int) : Int × Nat × Nat :=
  let k := min (e - 1) (-1)
  let w := 2 ^ (-k).toNat
  let x : Int := (if s then -1 else 1) * (m * 2 ^ (e - k).toNat : Nat) - (w / 2 : Nat)
  (x / (w : Int), (2 * (x % (w : Int))).toNat, w)
/-- RoundHalfStep of R25 on a value: flags and the code as an integer. -/
def roundHalfStep (n : Nat) (mode : RMode) (v : FV) : Fl × Int :=
  let top : Int := 2 ^ (n - 1) - 1
  let bot : Int := -(2 ^ (n - 1))
  match v with
  | .nan _ => (flNV, 0)
  | .inf s => (flNV, if s then bot else top)
  | .fin s m e =>
    let p := halfParts s m e
    let lo := p.1
    let hi := lo + 1
    let nx := if p.2.1 == 0 then (0 : Fl) else flNX
    let c :=
      if p.2.1 == 0 then lo
      else match mode with
        | .rne => if p.2.1 < p.2.2 then lo else if p.2.2 < p.2.1 then hi else if lo % 2 == 0 then lo else hi
        | .rtz => if s then min hi (-1) else max lo 0
        | .rdn => lo
        | .rup => hi
        | .rto => if lo % 2 == 1 then lo else hi
    if c < bot then (nx ||| flNV, bot) else if top < c then (nx ||| flNV, top) else (nx, c)
/-- Conversion to BIN1 (R26). -/
def roundBin1 (v : FV) : Fl × Nat :=
  match v with
  | .nan _ => (flNV, 1)
  | .inf s => (flNV, if s then 0 else 1)
  | .fin s m e =>
    let one := (exactSum [(false, m, e), (true, 1, 0)]).1 == 0
    ((if one then 0 else flNX), if s then 0 else 1)
/-- An integer as a code of w bits. -/
def codeOf (w : Nat) (x : Int) : Nat := (x % (2 ^ w : Int)).toNat
/-- Conversion of a value to a floating-point format (R85). -/
def convF (f : FPar) (sat : Bool) (mode : RMode) (v : FV) : Fl × Nat :=
  match v with
  | .nan b => ((if b then flNV else 0), f.nanBits)
  | .inf s => if sat then (flNX, f.maxBits s) else (0, f.infBits s)
  | .fin s m e => roundFloat f mode sat s m e
/-- Conversion of a value to a plain format (R85): flags and the code. -/
def convP (t : PFmt) (sat : Bool) (mode : RMode) (v : FV) : Fl × Nat :=
  match t with
  | .f32 => convF parF32 sat mode v
  | .fx19 => convF parFX19 sat mode v
  | .bf16 => convF parBF16 sat mode v
  | .f16 => convF parF16 sat mode v
  | .e5m2 => convF parE5M2 sat mode v
  | .e4m3 => convF parE4M3 sat mode v
  | .e3m4 => convF parE3M4 sat mode v
  | .i8 => let r := roundInt mode (-128) 127 v; (r.1, codeOf 8 r.2)
  | .n8 => let r := roundInt mode 0 255 v; (r.1, codeOf 8 r.2)
  | .i4 => let r := roundInt mode (-8) 7 v; (r.1, codeOf 4 r.2)
  | .n4 => let r := roundInt mode 0 15 v; (r.1, codeOf 4 r.2)
  | .h8 => let r := roundHalfStep 8 mode v; (r.1, codeOf 8 r.2)
  | .h4 => let r := roundHalfStep 4 mode v; (r.1, codeOf 4 r.2)
  | .h2 => let r := roundHalfStep 2 mode v; (r.1, codeOf 2 r.2)
  | .bin1 => roundBin1 v

/-! Blocked formats (R16 to R18). -/

/-- The blocked formats. -/
inductive BFmt | px7 | px4 | px2 | hb8 | hb4 | hb2 | ib8 | ib4 | nb8 | nb4 | eb43 | eb52 | bb1
  deriving DecidableEq, Repr
/-- The blocked format of a code (R16). -/
def BFmt.ofCode (c : Nat) : Option BFmt :=
  if c < 0x20 then none
  else [BFmt.px7, .px4, .px2, .hb8, .hb4, .hb2, .ib8, .ib4, .nb8, .nb4, .eb43, .eb52, .bb1][c - 0x20]?
/-- The code of a blocked format (R16). -/
def BFmt.code : BFmt → Nat
  | .px7 => 0x20 | .px4 => 0x21 | .px2 => 0x22 | .hb8 => 0x23 | .hb4 => 0x24 | .hb2 => 0x25 | .ib8 => 0x26
  | .ib4 => 0x27 | .nb8 => 0x28 | .nb4 => 0x29 | .eb43 => 0x2A | .eb52 => 0x2B | .bb1 => 0x2C
/-- Element width in bits (R16). -/
def BFmt.w : BFmt → Nat
  | .px7 => 8 | .px4 => 5 | .px2 => 3 | .hb8 => 8 | .hb4 => 4 | .hb2 => 2 | .ib8 => 8
  | .ib4 => 4 | .nb8 => 8 | .nb4 => 4 | .eb43 => 8 | .eb52 => 8 | .bb1 => 1
/-- Groups per block (R16). -/
def BFmt.groups : BFmt → Nat
  | .px7 => 3 | .px4 => 5 | .px2 => 7 | .hb8 => 3 | .hb4 => 6 | .hb2 => 12 | .ib8 => 3
  | .ib4 => 6 | .nb8 => 3 | .nb4 => 6 | .eb43 => 3 | .eb52 => 3 | .bb1 => 20
/-- Whether a group carries a MICRO byte (R16). -/
def BFmt.px : BFmt → Bool
  | .px7 | .px4 | .px2 => true
  | .hb8 | .hb4 | .hb2 | .ib8 | .ib4 | .nb8 | .nb4 | .eb43 | .eb52 | .bb1 => false
/-- Group size in bytes (R16): GEXP, MICRO for PX, and sixteen elements of w bits. -/
def BFmt.size (t : BFmt) : Nat := 1 + (if t.px then 1 else 0) + 2 * t.w
/-- The plain value of an element of a blocked format (R17). -/
def BFmt.plain (t : BFmt) (x : Nat) : FV :=
  match t with
  | .px7 => .fin (x / 128 == 1) (x % 128) (-6)
  | .px4 => .fin (x / 16 == 1) (x % 16) (-3)
  | .px2 => .fin (x / 4 == 1) (x % 4) (-1)
  | .hb8 => decodeP .h8 x
  | .hb4 => decodeP .h4 x
  | .hb2 => decodeP .h2 x
  | .ib8 => decodeP .i8 x
  | .ib4 => decodeP .i4 x
  | .nb8 => decodeP .n8 x
  | .nb4 => decodeP .n4 x
  | .eb43 => decodeP .e4m3 x
  | .eb52 => decodeP .e5m2 x
  | .bb1 => decodeP .bin1 x
/-- Multiplies a finite value by a power of two. -/
def FV.scale (v : FV) (k : Int) : FV :=
  match v with
  | .nan b => .nan b
  | .inf s => .inf s
  | .fin s m e => .fin s m (e + k)
/-- The sixteen elements of a group of a block (R16, R17). -/
def blockGroup (t : BFmt) (bscale : Nat) (g : Bytes) : List FV :=
  let gexp := leAt g 0 1
  let micro := if t.px then leAt g 1 1 else 0
  let bits := leNat (g.drop (if t.px then 2 else 1))
  (List.range 16).map fun i =>
    let v := t.plain (bits / 2 ^ (i * t.w) % 2 ^ t.w)
    v.scale ((bscale : Int) - 127 + gexp - 127 - (if (micro / 2 ^ (i / 2)) % 2 == 1 then 1 else 0))
/-- The groups of a block as byte strings. -/
def blockGroups (t : BFmt) (b : Bytes) : List Bytes :=
  (List.range t.groups).map fun g => (b.drop (2 + g * t.size)).take t.size
/-- The format and the elements of a blocked block; none raises BLOCK_FORMAT (R16 to R18). -/
def decodeBlock (b : Bytes) : Option (BFmt × List FV) :=
  match BFmt.ofCode (leAt b 0 1) with
  | none => none
  | some t =>
    let gs := blockGroups t b
    if leAt b 1 1 == 0xFF || gs.any (fun g => leAt g 0 1 == 0xFF) then none
    else some (t, gs.flatMap (blockGroup t (leAt b 1 1)))

end Sys2Proof.Machine
end

