-- ==== Sys2Proof/Machine/Flags.lean ====
section
/-! DEFINITION. The fields of %status (R39, R40), the rounding mode in force (R67), and the sticky flags and the
FP_EXCEPTION trap of an arithmetic instruction (R22, R41). -/

namespace Sys2Proof.Machine

/-- FLAGS of %status. -/
def Thread.flags (t : Thread) : Fl := t.status.extractLsb' 0 5
/-- EN of %status. -/
def Thread.enables (t : Thread) : Fl := t.status.extractLsb' 16 5
/-- RM of %status. -/
def Thread.rmField (t : Thread) : BitVec 3 := t.status.extractLsb' 8 3
/-- SUP of %status. -/
def Thread.sup (t : Thread) : Bool := t.status.getLsbD 31
/-- RPL of %status. -/
def Thread.rpl (t : Thread) : Nat := (t.status.extractLsb' 26 2).toNat
/-- DET of %status. -/
def Thread.det (t : Thread) : Bool := t.status.getLsbD 25
/-- ETB of %status. -/
def Thread.etb (t : Thread) : Bool := t.status.getLsbD 21
/-- The rounding mode of a code of R19; codes that RM never holds count as RNE. -/
def modeOf (c : BitVec 3) : RMode :=
  match c.toNat with
  | 1 => .rtz
  | 2 => .rdn
  | 3 => .rup
  | 4 => .rto
  | _ => .rne
/-- The rounding mode in force for a thread (R67). -/
def Thread.dyn (t : Thread) : RMode := modeOf t.rmField
/-- The mode a rounding field selects (R19, R40). -/
def Thread.mode (t : Thread) : Rm → RMode
  | .rne => .rne
  | .rtz => .rtz
  | .rdn => .rdn
  | .rup => .rup
  | .rto => .rto
  | .dyn => t.dyn
/-- ORs raised flags into FLAGS (R41). -/
def Thread.raise (t : Thread) (f : Fl) : Thread := { t with status := t.status ||| f.zeroExtend 32 }
/-- FP_EXCEPTION, rank 8, when a raised flag is enabled; the record lists the flags (R41, R336). -/
def Thread.fpTrap (t : Thread) (f : Fl) : Option Trap :=
  if f &&& t.enables = 0 then none
  else some { rank := 100, cause := .fpException, info1 := f.zeroExtend 64 }

/-- The bits of %status that WRSR writes in user mode: ETB, RM, FLAGS (R39). -/
def statusRW : W32 := 0x0020071F#32
/-- The bits that WRSR writes in supervisor mode: EN as well (R39). -/
def statusSup : W32 := 0x003F071F#32
/-- Whether a value written to %status holds a reserved rounding code (R40). -/
def badRM (v : W32) : Bool := decide (5 ≤ (v.extractLsb' 8 3).toNat)
/-- %status after WRSR (R40). -/
def Thread.writeStatus (t : Thread) (v : W32) : Thread :=
  let m := if t.sup then statusSup else statusRW
  { t with status := (t.status &&& ~~~m) ||| (v &&& m) }
/-- What refuses a write of %status (R40): a reserved RM, rank 1; a changed EN in user mode, rank 3. -/
def Thread.statusTrap (t : Thread) (v : W32) : Option Trap :=
  if badRM v then some .illegal
  else if !t.sup && (v.extractLsb' 16 5 : Fl) != t.enables then some .privilege
  else none

end Sys2Proof.Machine
end

