-- ==== Sys2Proof/Machine/Operands.lean ====
section
/-! DEFINITION. Operand forms: the fields of an instruction as the machine checks, reads and writes them (R33, R35, R37,
R49, R105), the queues of split roles (R186 to R189), the scoreboard (R134, R164, R227), and the frame every instruction
that acts on its members one by one runs in (R45, R66, R225). -/

namespace Sys2Proof.Machine

/-- Which streams of a split role may execute a form (R186). -/
inductive Stream | both | compute | address | unsplit deriving DecidableEq, Repr
/-- How a field is used. -/
inductive FUse | rd | wr | rw deriving DecidableEq, Repr
/-- An operand field: general slots or spectral registers, its use, its first number and how many it spans. -/
structure Fld where
  isW : Bool
  use : FUse
  first : Nat
  n : Nat
  deriving DecidableEq, Repr
/-- A g field read. -/
def Fld.g (a : Slot) : Fld := { isW := false, use := .rd, first := a.toNat, n := 1 }
/-- A g field written. -/
def Fld.dg (d : Slot) : Fld := { isW := false, use := .wr, first := d.toNat, n := 1 }
/-- A g field read and then written. -/
def Fld.rwg (d : Slot) : Fld := { isW := false, use := .rw, first := d.toNat, n := 1 }
/-- A field of n slots read. -/
def Fld.gs (a : Slot) (n : Nat) : Fld := { isW := false, use := .rd, first := a.toNat, n := n }
/-- A field of n slots written. -/
def Fld.dgs (d : Slot) (n : Nat) : Fld := { isW := false, use := .wr, first := d.toNat, n := n }
/-- A field of n slots read and then written. -/
def Fld.rwgs (d : Slot) (n : Nat) : Fld := { isW := false, use := .rw, first := d.toNat, n := n }
/-- A field of n spectral registers read. -/
def Fld.w (a : Slot) (n : Nat := 1) : Fld := { isW := true, use := .rd, first := a.toNat, n := n }
/-- A field of n spectral registers written. -/
def Fld.dw (d : Slot) (n : Nat := 1) : Fld := { isW := true, use := .wr, first := d.toNat, n := n }
/-- A spectral register read and then written. -/
def Fld.rww (d : Slot) : Fld := { isW := true, use := .rw, first := d.toNat, n := 1 }
/-- Whether a field is read. -/
def Fld.reads (f : Fld) : Bool := f.use != .wr
/-- Whether a field is written. -/
def Fld.writes (f : Fld) : Bool := f.use != .rd
/-- The numbers a field spans. -/
def Fld.span (f : Fld) : List Nat := (List.range f.n).map (f.first + ·)
/-- Whether a slot names a queue for a thread (R187). -/
def Thread.isQueue (t : Thread) (slot : Nat) : Bool := t.split && decide (120 ≤ slot)
/-- The allotment register of a slot; none for slot 0 and for a queue (R33, R187). -/
def Thread.regOf (t : Thread) (slot : Nat) : Option Nat :=
  if slot == 0 || t.isQueue slot then none else some (t.wb + slot)

/-! Legality in the stream (R49, R53, R186, R187). -/

/-- Whether a stream may execute a form (R186); QMEM only in an address stream, JOIN and LEAVE in no stream. -/
def Thread.mayRun (t : Thread) (st : Stream) : Bool :=
  match st with
  | .both => true
  | .compute => !(t.split && t.key.addr)
  | .address => t.split && t.key.addr
  | .unsplit => !t.split
/-- Whether a field breaks the queue rules of a split role (R49, R187): a wider operand that includes a queue, or a
queue named against its direction. -/
def Thread.badQueue (t : Thread) (f : Fld) : Bool :=
  t.split && !f.isW && decide (120 ≤ f.first + f.n - 1) &&
    (decide (2 ≤ f.n) ||
     match f.use with
     | .rw => true
     | .rd => if t.key.addr then decide (f.first < 124) else decide (124 ≤ f.first)
     | .wr => if t.key.addr then decide (124 ≤ f.first) else decide (f.first < 124))
/-- The first number of a field outside the thread's allotments (R33, R35, R37, R105). -/
def Thread.outside (t : Thread) (f : Fld) : Option Nat :=
  f.span.find? fun n =>
    if f.isW then decide (t.wallot ≤ n)
    else match t.regOf n with
      | some r => decide (t.gallot ≤ r)
      | none => false
/-- The trap an operand check raises for a member: ILLEGAL_ENCODING before REGISTER_RANGE, fields in the order
d, a, b (R45). -/
def Thread.operandTrap (t : Thread) (st : Stream) (fs : List Fld) : Option Trap :=
  if !t.mayRun st || fs.any t.badQueue then some .illegal
  else (fs.filterMap fun f => (t.outside f).map fun n => Trap.range n f.isW).head?

/-! The scoreboard. -/

/-- The allotment registers of a thread that wait for a result of an earlier instruction (R101, R134). -/
def State.pendingG (s : State) (k : ThKey) : List Nat :=
  (s.rets.flatMap fun r => r.dests.filterMap fun d => match d with
    | .g k' r _ => if k' = k then some r else none
    | .w _ _ _ => none
    | .q _ _ _ _ _ => none) ++
  (s.reqs.flatMap fun q => ((q.key, q.dest) :: q.merged).flatMap fun p =>
    if p.1 = k then (match p.2 with | .regs rs => rs.filterMap id | .none => [] | .wreg _ => [] | .queue _ _ => [])
    else []) ++
  (s.cores.flatMap fun c => (c.2.eng.gathers ++ c.2.eng.closed).flatMap fun g => g.rows.flatMap fun r =>
    if r.key = k then r.dst.filterMap id else [])
/-- The spectral registers of a thread that wait for a result of an earlier instruction. -/
def State.pendingW (s : State) (k : ThKey) : List Nat :=
  (s.rets.flatMap fun r => r.dests.filterMap fun d => match d with
    | .w k' r _ => if k' = k then some r else none
    | .g _ _ _ => none
    | .q _ _ _ _ _ => none) ++
  (s.reqs.flatMap fun q => ((q.key, q.dest) :: q.merged).filterMap fun p =>
    if p.1 = k then (match p.2 with | .wreg r => some r | .none => none | .regs _ => none | .queue _ _ => none)
    else none)
/-- The fragment registers of a thread that an MMA in flight holds against writes (R164). -/
def State.heldFrags (s : State) (k : ThKey) : List Nat :=
  s.cores.flatMap fun c => (c.2.eng.queue ++ (c.2.eng.running.map (·.1)).toList).flatMap fun q =>
    q.frag.flatMap fun p => if p.1 = k then p.2 else []
/-- Whether a field must wait for the scoreboard (R134). -/
def State.fieldBusy (s : State) (t : Thread) (f : Fld) : Bool :=
  if f.isW then f.span.any fun n => (s.pendingW t.key).contains n
  else f.span.any fun n => match t.regOf n with
    | none => false
    | some r => (s.pendingG t.key).contains r || (f.writes && (s.heldFrags t.key).contains r)
/-- The registers of a field that wait, as (member, whether spectral, register). -/
def State.busyRegs (s : State) (t : Thread) (f : Fld) : List (Nat × Bool × Nat) :=
  if f.isW then (f.span.filter fun n => (s.pendingW t.key).contains n).map fun n => (t.key.tid, true, n)
  else ((f.span.filterMap t.regOf).filter fun r => (s.pendingG t.key).contains r || (f.writes && (s.heldFrags t.key).contains r)).map
    fun r => (t.key.tid, false, r)

/-! Queues. -/

/-- The queues of a thread pair (R187). -/
def State.pairQueues (s : State) (k : ThKey) : List (List QEntry) :=
  match s.cohort? k.ck with
  | none => List.replicate 8 []
  | some c => match c.queues.find? fun q => q.tid == k.tid with
    | some q => q.q
    | none => List.replicate 8 []
/-- Updates the queues of a thread pair. -/
def State.updQueues (s : State) (k : ThKey) (f : List (List QEntry) → List (List QEntry)) : State :=
  s.updCohort k.ck fun c =>
    { c with queues := updWhere (fun q => q.tid == k.tid) (fun q => { q with q := f q.q }) c.queues }
/-- Whether the other stream of a pair has exited. -/
def State.otherExited (s : State) (k : ThKey) : Bool :=
  match s.thread? { k with addr := !k.addr } with
  | some t => t.exited
  | none => true
/-- The queues a list of fields pops, in the order a, b, d: R188 orders a before b, and that a d field that is only read comes
last is DESIGN CHOICE (log entry 75). -/
def Thread.pops (t : Thread) (fs : List Fld) : List Nat :=
  ((fs.drop 1) ++ fs.take 1).filterMap fun f =>
    if f.use == .rd && !f.isW && t.isQueue f.first then some (f.first - 120) else none
/-- The queues a list of fields pushes. -/
def Thread.pushes (t : Thread) (fs : List Fld) : List Nat :=
  fs.filterMap fun f => if f.use == .wr && !f.isW && t.isQueue f.first then some (f.first - 120) else none
/-- Whether an entry is filled. -/
def QEntry.isFull : QEntry → Bool | .full _ => true | .reserved _ => false
/-- The queue a member must wait on, if any (R188). -/
def State.queueWait (s : State) (t : Thread) (fs : List Fld) : Option Nat :=
  let q := s.pairQueues t.key
  match (t.pops fs).find? fun j =>
      let l := q.getD j []
      let n := ((t.pops fs).filter fun i => i == j).length
      decide (l.length < n) || !(l.take n).all QEntry.isFull with
  | some j => some j
  | none => (t.pushes fs).find? fun j => decide (16 ≤ (q.getD j []).length) && !s.otherExited t.key
/-- A pop from a queue that holds nothing and whose pushing stream has exited raises QUEUE_DEADLOCK (R189). -/
def State.queueDead (s : State) (t : Thread) (fs : List Fld) : Option Trap :=
  let q := s.pairQueues t.key
  match (t.pops fs).find? fun j =>
      let l := q.getD j []
      s.otherExited t.key && l.all QEntry.isFull && decide (l.length < ((t.pops fs).filter fun i => i == j).length) with
  | some j => some { rank := 7, cause := .queueDeadlock, info1 := w64 j }
  | none => none

/-! Reading. -/

/-- The values of the fields of a member: words of each g field, packets of each w field; empty for a field that is
only written. A pop that finds nothing and never will reads as zero: the fields it leaves unread are named with the trap
that the member meets at rank 7 (R45, R189). -/
structure Reads where
  g : List (List W32)
  w : List (List W128)
  unread : List Nat := []
  dead : Option Trap := none
  deriving DecidableEq, Repr
/-- The single word of field k. -/
def Reads.x (r : Reads) (k : Nat) : W32 := (r.g.getD k []).getD 0 0
/-- The 64-bit value of the pair of field k (R35). -/
def Reads.p (r : Reads) (k : Nat) : W64 := join64 ((r.g.getD k []).getD 0 0) ((r.g.getD k []).getD 1 0)
/-- The words of field k. -/
def Reads.l (r : Reads) (k : Nat) : List W32 := r.g.getD k []
/-- The packet of field k. -/
def Reads.pk (r : Reads) (k : Nat) : W128 := (r.w.getD k []).getD 0 0
/-- The packets of field k. -/
def Reads.pks (r : Reads) (k : Nat) : List W128 := r.w.getD k []
/-- An allotment register. -/
def Thread.reg (t : Thread) (n : Nat) : W32 := sget 0 t.regs n
/-- A spectral register. -/
def Thread.wreg (t : Thread) (n : Nat) : W128 := sget 0 t.wregs n
/-- A slot of the window (R33); a queue slot reads as zero here. -/
def Thread.slot (t : Thread) (n : Nat) : W32 :=
  match t.regOf n with
  | some r => t.reg r
  | none => 0
/-- The entries of the queues that successive pops take (R188). -/
def popValues (q : List (List QEntry)) : List Nat → List W32
  | [] => []
  | j :: js =>
    (match (q.getD j []).head? with | some (.full v) => v | some (.reserved _) => 0 | none => 0) ::
      popValues (q.set j ((q.getD j []).drop 1)) js
/-- The words a g field reads: a pair at slot 0 reads as zero in both halves (R35). -/
def Thread.fieldWords (t : Thread) (f : Fld) : List W32 :=
  if f.isW || !f.reads then []
  else if f.first == 0 then List.replicate f.n 0
  else f.span.map t.slot
/-- Puts the popped values in the place of the queue fields, in the order a, b, d. -/
def fillPops (t : Thread) (fs : List Fld) (vs : List W32) : List (List W32) :=
  let isPop := fun (f : Fld) => f.use == .rd && !f.isW && t.isQueue f.first
  let go := fun (acc : List W32 × List (List W32)) (f : Fld) =>
    if isPop f then (acc.1.drop 1, acc.2 ++ [[acc.1.getD 0 0]]) else (acc.1, acc.2 ++ [t.fieldWords f])
  let ab := (fs.drop 1).foldl go (vs, [])
  let d := (fs.take 1).foldl go (ab.1, [])
  d.2 ++ ab.2
/-- The fields of a list, by number, whose pops find no entry in the queues, in the order of `Thread.pops`. -/
def unreadFields (t : Thread) (q : List (List QEntry)) (fs : List Fld) : List Nat :=
  let nums := List.range fs.length
  ((nums.drop 1 ++ nums.take 1).foldl (fun (acc : List Nat × List Nat) k =>
    match t.pops ((fs.drop k).take 1) with
    | j :: _ => (acc.1 ++ [j], if (q.getD j []).length ≤ acc.1.count j then acc.2 ++ [k] else acc.2)
    | [] => acc) ([], [])).2
/-- Everything a member reads (R66, R104). -/
def State.readFields (s : State) (t : Thread) (fs : List Fld) : Reads :=
  let q := s.pairQueues t.key
  { g := if (t.pops fs).isEmpty then fs.map t.fieldWords else fillPops t fs (popValues q (t.pops fs)),
    w := fs.map fun f => if f.isW && f.reads then f.span.map t.wreg else [],
    unread := if (t.pops fs).isEmpty then [] else unreadFields t q fs,
    dead := s.queueDead t fs }
/-- The QUEUE_DEADLOCK conditions of the members, to be ranked with their other causes (R45, R189). -/
def deadTraps (ms : List (Thread × Reads)) : List (Nat × Option Trap) := ms.map fun m => (m.1.key.tid, m.2.dead)

/-! Writing. -/

/-- Writes one slot: slot 0 discards (R33); a queue slot is pushed elsewhere. -/
def Thread.writeSlot (t : Thread) (n : Nat) (v : W32) : Thread :=
  match t.regOf n with
  | some r => { t with regs := sput 0 t.regs r v }
  | none => t
/-- Writes an allotment register. -/
def Thread.writeReg (t : Thread) (r : Nat) (v : W32) : Thread := { t with regs := sput 0 t.regs r v }
/-- Writes a spectral register. -/
def Thread.writeW (t : Thread) (r : Nat) (v : W128) : Thread := { t with wregs := sput 0 t.wregs r v }

/-- What an instruction does to one member: slots and spectral registers written (by a result that lands later when a
unit is named), flags raised, a change of the thread's own state, and a control transfer. -/
structure Eff where
  g : List (Nat × W32) := []
  w : List (Nat × W128) := []
  late : Option RetKind := none
  fl : Fl := 0
  th : Thread → Thread := id
  next : Option W64 := none
/-- Writes of n words from a slot; slot 0 discards them all (R35). -/
def putWords (d : Slot) (ws : List W32) : List (Nat × W32) :=
  if d = 0 then [] else (List.range ws.length).zipWith (fun i w => (d.toNat + i, w)) ws
/-- The effect of writing one slot. -/
def Eff.slot (d : Slot) (v : W32) (fl : Fl := 0) : Eff := { g := putWords d [v], fl := fl }
/-- The effect of writing a pair. -/
def Eff.pair (d : Slot) (v : W64) : Eff := { g := putWords d [lo32 v, hi32 v] }
/-- The effect of writing a spectral register. -/
def Eff.wr (d : Slot) (v : W128) (fl : Fl := 0) : Eff := { w := [(d.toNat, v)], fl := fl }

/-- The thread after an effect (R41). -/
def Thread.apply (t : Thread) (e : Eff) : Thread :=
  (e.th (e.w.foldl (fun t p => t.writeW p.1 p.2) (e.g.foldl (fun t p => t.writeSlot p.1 p.2) t))).raise e.fl
/-- The queues after an effect: the pops, then the pushes that the popping stream can still take (R188, R189). -/
def State.moveQueues (s : State) (t : Thread) (fs : List Fld) (g : List (Nat × W32)) : State :=
  let pushed := g.filter fun p => t.isQueue p.1
  if (t.pops fs).isEmpty && pushed.isEmpty then s
  else s.updQueues t.key fun q =>
    let q1 := (t.pops fs).foldl (fun q j => q.set j ((q.getD j []).drop 1)) q
    if s.otherExited t.key then q1
    else pushed.foldl (fun q p => q.set (p.1 - 120) (q.getD (p.1 - 120) [] ++ [.full p.2])) q1
/-- Reserves entry `id` at the tail of the queue a slot names, unless its popping stream has exited (R188, R189). -/
def State.reserve (s : State) (t : Thread) (slot id : Nat) : State :=
  if s.otherExited t.key then s
  else s.updQueues t.key fun q => q.set (slot - 120) (q.getD (slot - 120) [] ++ [.reserved id])
/-- Where a late write of a slot goes (R101). -/
def Thread.destOf (t : Thread) (id : Nat) (p : Nat × W32) : Option Dest :=
  match t.regOf p.1 with
  | some r => some (.g t.key r p.2)
  | none => if t.isQueue p.1 then some (.q t.key.ck t.key.tid (p.1 - 120) id p.2) else none
/-- The members' writes are handed to a unit whose result lands later; queue entries are reserved now (R101, R188). -/
def State.promise (s : State) (t : Thread) (k : RetKind) (g : List (Nat × W32)) (w : List (Nat × W128)) : State :=
  let s1 := (g.filter fun p => t.isQueue p.1).foldl (fun s p => s.reserve t p.1 s.nextId) s
  let r : Ret := { id := s.nextId, kind := k,
                   dests := g.filterMap (t.destOf s.nextId) ++ w.map fun p => .w t.key p.1 p.2 }
  { s1 with rets := s1.rets ++ [r], nextId := s.nextId + 1 }
/-- One member's effect takes place. -/
def State.commit1 (s : State) (fs : List Fld) (t : Thread) (e : Eff) : State :=
  match e.late with
  | none => (s.putThread (t.apply e)).moveQueues t fs e.g
  | some k => ((s.putThread (t.apply { e with g := [], w := [] })).moveQueues t fs []).promise t k e.g e.w
/-- The members' effects take place. -/
def State.commit (s : State) (fs : List Fld) (l : List (Thread × Eff)) : State :=
  l.foldl (fun s p => s.commit1 fs p.1 p.2) s

/-! The frame of an instruction. -/

/-- Runs an instruction of the issuing entry: operand checks of every member first (R45, R225), then the wait for
operands (R134, R188), then the instruction with the members and what they read. The instruction ranks the dead pops of
its members with their other causes (R45, R189). -/
def State.operandsQ (s : State) (st : Stream) (fs : List Fld) (k : Iss → List (Thread × Reads) → Out) : Out :=
  match s.issuing with
  | none => .fault .noIssuingEntry
  | some i =>
    let ms := s.members i
    match firstTrap (ms.map fun t => (t.key.tid, t.operandTrap st fs)) with
    | some (t, x) => .next (s.takeTrap i t x)
    | none =>
      match ms.filterMap fun t => if (s.queueDead t fs).isSome then none else (s.queueWait t fs).map fun j => (t.key.tid, j) with
      | w :: ws => .next (s.stall i (w :: ws))
      | [] =>
        if ms.any fun t => fs.any (s.fieldBusy t) then .next (s.stall i [] (ms.flatMap fun t => fs.flatMap (s.busyRegs t)))
        else k i (ms.map fun t => (t, s.readFields t fs))
/-- Runs an instruction whose members raise nothing above rank 7: a dead pop is its first cause (R45, R189). -/
def State.operands (s : State) (st : Stream) (fs : List Fld) (k : Iss → List (Thread × Reads) → Out) : Out :=
  s.operandsQ st fs fun i ms =>
    match firstTrap (deadTraps ms) with
    | some (t, x) => .next (s.takeTrap i t x)
    | none => k i ms

/-- The members' effects take place and the instruction ends (R87, R131). -/
def State.finish (s : State) (i : Iss) (fs : List Fld) (ends : Bool) (l : List (Thread × Eff)) : State :=
  (s.commit fs l).retire i (ends || l.any fun p => p.2.next.isSome)
    (l.map fun p => (p.1.key.tid, p.2.next.getD (nextPc i.run.pc)))

/-- The cause of a member whose pop is dead: a cause of the instruction above rank 7, else the dead pop (R45, R189). -/
def deadCause (x : Trap) : Except Trap Eff → Trap
  | .error y => if y.rank < x.rank then y else x
  | .ok _ => x
/-- What a member's own part of an instruction comes to beside its dead pop, if it has one. -/
def Reads.gives (r : Reads) (e : Except Trap Eff) : Except Trap Eff :=
  match r.dead with
  | none => e
  | some x => .error (deadCause x e)
/-- An instruction that acts on each member by itself: no member acts if any member traps, FP_EXCEPTION last (R41, R45,
R225). -/
def State.memberwise (s : State) (st : Stream) (fs : List Fld) (ends : Bool)
    (f : Iss → Thread → Reads → Except Trap Eff) : Out :=
  s.operandsQ st fs fun i ms =>
    let rs := ms.map fun m => (m.1, m.2.gives (f i m.1 m.2))
    match firstTrap (rs.map fun r => (r.1.key.tid, match r.2 with
        | .error x => some x
        | .ok e => r.1.fpTrap e.fl)) with
    | some (t, x) => .next (s.takeTrap i t x)
    | none =>
      .next (s.finish i fs ends (rs.filterMap fun r => match r.2 with
        | .ok e => some (r.1, e)
        | .error _ => none))
/-- An instruction that cannot trap beyond its operands and flags. -/
def State.compute (s : State) (fs : List Fld) (f : Thread → Reads → Eff) : Out :=
  s.memberwise .both fs false fun _ t r => .ok (f t r)
/-- The same, in compute streams only. -/
def State.computeC (s : State) (fs : List Fld) (f : Thread → Reads → Eff) : Out :=
  s.memberwise .compute fs false fun _ t r => .ok (f t r)

end Sys2Proof.Machine
end

