-- ==== Sys2Proof/Machine/Xlate.lean ====
section
/-! DEFINITION. Address translation (R42, R183, R197 to R201, R385, R415): the page-table walk, the permission rows, and
the translation structures, which may serve an old entry until an invalidation removes it. -/

namespace Sys2Proof.Machine

/-- The HBM4E capacity of an ordering code: codes 0 and 2 hold 768 GiB, codes 1 and 3 hold 512 GiB (R1, R183). -/
def capacityOf (code : Nat) : Nat := if code % 2 == 0 then 768 * 2 ^ 30 else 512 * 2 ^ 30
/-- The HBM4E capacity of the device. -/
def State.capacity (s : State) : Nat := capacityOf s.fuses.code
/-- The slice of a physical address (R183). -/
def sliceOf (pa : Nat) : Nat := (pa / 2 ^ 8 % 512) ^^^ (pa / 2 ^ 17 % 512) ^^^ (pa / 2 ^ 26 % 512)
/-- The stack that holds a slice (R183). -/
def stackOf (slice : Nat) : Nat := slice / 32
/-- The channel of a slice within its stack (R183). -/
def channelOf (slice : Nat) : Nat := slice % 32
/-- The compute die over a slice's stack (R183). -/
def sliceDie (slice : Nat) : Nat := stackOf slice / 4
/-- The byte address within its channel (R183). -/
def localAddr (pa : Nat) : Nat := pa / 2 ^ 17 * 2 ^ 8 + pa % 2 ^ 8
/-- The number of a physical core as the source of a request. -/
def ReqSrc.isCore (r : Sys2Proof.ReqSrc) (c : Nat) : Bool := decide (r = .core c)
/-- A slice refuses a request to a line pinned by another core (R217). -/
def State.refused (s : State) (src : ReqSrc) (line : Nat) : Bool :=
  s.pins.any fun p => p.line == line && p.vdev.isNone && !(p.dev.isNone && decide (src = .core p.core))
/-- A slice refuses a request of a device of the job to a line that its core does not hold (R217, R384). -/
def State.refusedTo (s : State) (dev : Nat) (holder : Option Nat) (line : Nat) : Bool :=
  s.pins.any fun p => p.line == line && p.vdev.isNone && !(decide (p.dev = some dev) && decide (holder = some p.core))
/-- Whether a byte range touches a poisoned sector (R343). -/
def State.poisoned (s : State) (pa n : Nat) : Bool :=
  s.poison.any fun x => decide (pa / 32 ≤ x) && decide (x ≤ (pa + n - 1) / 32)
/-- Writes the bytes that are present at the slices; a sector written whole loses its poison (R343). -/
def State.writePhys (s : State) (pa : Nat) (data : List (Option Byte)) : State :=
  let whole := fun x => decide (pa ≤ 32 * x) && decide (32 * x + 32 ≤ pa + data.length) &&
    ((data.drop (32 * x - pa)).take 32).all Option.isSome
  { s with mem := Memory.writeMasked s.mem pa data,
           poison := s.poison.filter fun x => !whole x }
/-- Reads bytes at the slices. -/
def State.readPhys (s : State) (pa n : Nat) : Bytes := Memory.read s.mem pa n
/-- Reads a little-endian number at the slices. -/
def State.readNat (s : State) (pa n : Nat) : Nat := leNat (s.readPhys pa n)

/-! The walk. -/

/-- What a walk gives: the leaf with its page size, a PAGE_FAULT (malformed or not), a poisoned entry (R343), or a refused
read of a pinned page-table line (R217). -/
inductive WalkRes
  | leaf (pte : W64) (size : Nat)
  | fault (malformed : Bool)
  | poison
  | pinned (line : Nat)
  deriving DecidableEq, Repr
/-- The levels of the table (R198): level, lowest index bit, index bits, size of the next table, size of a leaf. -/
def walkLevels : List (Nat × Nat × Nat × Nat × Nat) :=
  [(3, 43, 13, 2 ^ 16, 1), (2, 30, 13, 2 ^ 12, 2 ^ 30), (1, 21, 9, 2 ^ 8, 2 ^ 21), (0, 16, 5, 1, 2 ^ 16)]
/-- ADDR of an entry (R199). -/
def pteAddr (e : W64) : Nat := (e.extractLsb' 8 40).toNat * 2 ^ 8
/-- VDEV of an entry (R199). -/
def pteVdev (e : W64) : Nat := (e.extractLsb' 48 10).toNat
/-- The virtual device that holds a page, if another (R199, R384). -/
def pteRemote (self : Nat) (e : W64) : Option Nat :=
  if e.getLsbD 59 && pteVdev e != self then some (pteVdev e) else none
/-- Whether an entry is malformed at a level (R200). -/
def pteMalformed (cap self level tsize lsize : Nat) (e : W64) : Bool :=
  let t := e.getLsbD 1
  let size := if t then tsize else lsize
  let base := pteAddr e
  (e.extractLsb' 60 4 != (0 : BitVec 4)) || (t && level == 0) || (!t && level == 3) || (base % size != 0) ||
  (e.getLsbD 6 && e.getLsbD 3) || (e.getLsbD 7 && e.getLsbD 3) ||
  (!e.getLsbD 59 && pteVdev e != 0) || (e.getLsbD 59 && t) ||
  ((pteRemote self e).isNone && decide (cap < base + size))
/-- A page-table walk through the slices (R197 to R200). An entry with V = 0 is not read further: that it is not marked malformed
whatever its other bits hold is DESIGN CHOICE (log entry 76). -/
def State.walkFrom (s : State) (src : ReqSrc) (self : Nat) (va : Nat) :
    List (Nat × Nat × Nat × Nat × Nat) → Nat → WalkRes
  | [], _ => .fault true
  | (level, shift, bits, tsize, lsize) :: rest, table =>
    let pa := table + 8 * (va / 2 ^ shift % 2 ^ bits)
    if s.refused src (pa / 64) then .pinned (pa / 64)
    else if s.poisoned pa 8 then .poison
    else
      let e := w64 (s.readNat pa 8)
      if !e.getLsbD 0 then .fault false
      else if pteMalformed s.capacity self level tsize lsize e then .fault true
      else if e.getLsbD 1 then s.walkFrom src self va rest (pteAddr e)
      else .leaf e lsize
/-- The walk of a context's table for an address. -/
def State.walk (s : State) (c : Context) (src : ReqSrc) (va : Nat) : WalkRes :=
  s.walkFrom src c.self va walkLevels c.desc.ptroot

/-! Permissions (R200). -/

/-- The kinds of access the rows of R200 distinguish. -/
inductive AccK | load | store | atomic | fetch deriving DecidableEq, Repr
/-- Whether an access writes. -/
def AccK.writes : AccK → Bool
  | .store | .atomic => true
  | .load | .fetch => false
/-- Who makes an access: in user mode or not, by a DET launch or not (R200, R415). -/
structure Who where
  user : Bool
  det : Bool
  deriving DecidableEq, Repr
/-- An access of the device as supervisor: RD and W alone (R415). -/
def Who.device : Who := { user := false, det := false }
/-- An access of a thread. -/
def Thread.who (t : Thread) : Who := { user := !t.sup, det := t.det }
/-- The trap a translation raises at rank 6 (R45, R335). -/
def Trap.xlate (va : W64) (k : AccK) (c : Cause) (malformed cow poison : Bool) : Trap :=
  { rank := 6, cause := c, addr := va, write := k.writes, malformed := malformed, cow := cow, poison := poison }
/-- The rows of R200 on a leaf, in their order: user mode, DET, then the access's own needs. -/
def permTrap (va : W64) (k : AccK) (w : Who) (e : W64) : Option Trap :=
  let prot := some (Trap.xlate va k .protection false false false)
  let rd := e.getLsbD 2
  let wr := e.getLsbD 3
  if w.user && e.getLsbD 5 then prot
  else if w.det && wr && !e.getLsbD 58 then prot
  else match k with
    | .load => if rd then none else prot
    | .fetch => if e.getLsbD 4 then none else prot
    | .store | .atomic =>
      if k = .atomic && !rd then prot
      else if wr then none
      else if e.getLsbD 7 then some (Trap.xlate va k .pageFault false true false) else prot

/-! Translation. -/

/-- The outcome of a translation: a physical place (on another virtual device, or here), whether its page is CHECKED; the
trap; or a walk that the access waits for, refused at a pinned line (R217) or under way. -/
inductive XR
  | ok (vdev : Option Nat) (pa : Nat) (checked : Bool)
  | trap (t : Trap)
  | pinned (line : Option Nat)
  deriving DecidableEq, Repr
/-- Whether a translation structure serves a source on a die (R197): the two of its core and the shared one of the die; an engine
or the device itself uses the shared one (log entry 77). -/
def TlbAt.serves (l : TlbAt) (src : ReqSrc) (die : Nat) : Bool :=
  match l with
  | .micro n => decide (src = .core n)
  | .core n => decide (src = .core n)
  | .shared d => d == die
/-- The entries that a source on a die may use for an address (R197, R201). -/
def State.tlbHits (s : State) (ctx : Nat) (src : ReqSrc) (die va : Nat) : List TlbEntry :=
  s.tlb.filter fun e => e.ctx == ctx && e.lvl.serves src die && decide (e.vbase ≤ va) && decide (va < e.vbase + e.size)
/-- The outcome that a leaf gives an access (R200, R385); one to a device whose DEVMAP entry is being rewritten is held at its source (R352). -/
def leafOutcome (c : Context) (va : W64) (k : AccK) (w : Who) (e : W64) (size : Nat) : XR :=
  match permTrap va k w e with
  | some t => .trap t
  | none =>
    let pa := pteAddr e + va.toNat % size
    match pteRemote c.self e with
    | none => .ok none pa (e.getLsbD 58)
    | some v =>
      let d := sget 0 c.pod.devmap v
      if c.pod.mapWrites.any fun p => p.1 == v then .pinned none
      else if !d.getLsbD 31 || d.getLsbD 30 then .trap (Trap.xlate va k .protection false false false)
      else .ok (some v) pa (e.getLsbD 58)
/-- The sets and ways of a translation structure (R197): 64 entries, fully associative; 1,024 in 8 ways; 32,768 in 16 ways. -/
def TlbAt.shape : TlbAt → Nat × Nat
  | .micro _ => (1, 64)
  | .core _ => (128, 8)
  | .shared _ => (2048, 16)
/-- The set of an entry: the low bits of its page number (log entry 77). -/
def TlbEntry.set (e : TlbEntry) : Nat := e.vbase / e.size % e.lvl.shape.1
/-- An entry enters a translation structure (R197); a full set gives up any one of its entries (log entry 77). An old translation of
the page stays until an invalidation removes it (R201). -/
def State.enterTlb (s : State) (e : TlbEntry) : State :=
  if s.tlb.contains e then s
  else
    let peers := s.tlb.filter fun x => decide (x.lvl = e.lvl) && x.set == e.set
    if peers.length < e.lvl.shape.2 then { s with tlb := e :: s.tlb }
    else
      let f := s.useFree
      match peers[Config.freeNat f.1 % peers.length]? with
      | some x => { f.2 with tlb := e :: f.2.tlb.erase x }
      | none => { f.2 with tlb := e :: f.2.tlb }
/-- The structures that an access of a source on a die fills, nearest first (R197). -/
def fillsOf (src : ReqSrc) (die : Nat) : List TlbAt :=
  match src with
  | .core n => [.micro n, .core n, .shared die]
  | .engine _ => [.shared die]
/-- A translation enters the structures of a source (R197). -/
def State.fillTlb (s : State) (ctx : Nat) (src : ReqSrc) (die va : Nat) (pte : W64) (size : Nat) : State :=
  (fillsOf src die).foldl (fun s l => s.enterTlb { lvl := l, ctx := ctx, vbase := va / size * size, size := size, pte := pte }) s
/-- Whether a walk is for an address's 64 KiB region (R197). -/
def Walk.covers (w : Walk) (ctx die va : Nat) : Bool := w.ctx == ctx && w.die == die && w.va.toNat / 65536 == va / 65536
/-- A miss of a core joins the walk for its 64 KiB region, or starts one (R197). -/
def State.addWalk (s : State) (ctx die va core : Nat) : State :=
  let join := fun (w : Walk) => if w.waiters.contains core then w else { w with waiters := w.waiters ++ [core] }
  if s.walks.any fun w => w.covers ctx die va then
    { s with walks := updWhere (fun w => w.covers ctx die va) join s.walks }
  else { s with walks := s.walks ++ [{ id := s.nextId, ctx := ctx, die := die, va := w64 va, waiters := [core], failed := false }],
                nextId := s.nextId + 1 }
/-- A core's access meets the end of the walk that it waited for: the walk is gone once every core has. -/
def State.leaveWalk (s : State) (ctx die va core : Nat) : State :=
  let leave := fun (w : Walk) => { w with waiters := w.waiters.erase core }
  { s with walks := (updWhere (fun w => w.covers ctx die va) leave s.walks).filter fun w => !w.waiters.isEmpty }
/-- The outcome that a walk gives an access (R200, R343). -/
def WalkRes.outcome (r : WalkRes) (c : Context) (va : W64) (k : AccK) (w : Who) : XR :=
  match r with
  | .leaf pte size => leafOutcome c va k w pte size
  | .fault m => .trap (Trap.xlate va k .pageFault m false false)
  | .poison => .trap (Trap.xlate va k .pageFault false false true)
  | .pinned l => .pinned (some l)
/-- An access that no structure serves (R197): a core waits for a walker, and meets the fault of a walk that found none; an engine or the device
walks as it accesses. -/
def State.xlateMiss (s : State) (c : Context) (die : Nat) (src : ReqSrc) (va : W64) (k : AccK) (w : Who) : XR × State :=
  let fresh := s.walk c src va.toNat
  let filled := fun (s : State) => match fresh with
    | .leaf pte size => s.fillTlb c.id src die va.toNat pte size
    | .fault _ | .poison | .pinned _ => s
  match src with
  | .engine _ => (fresh.outcome c va k w, filled s)
  | .core n =>
    if s.walks.any fun x => x.covers c.id die va.toNat && x.failed && x.waiters.contains n then
      (fresh.outcome c va k w, filled (s.leaveWalk c.id die va.toNat n))
    else
      (.pinned (match fresh with | .pinned l => some l | .leaf _ _ | .fault _ | .poison => none), s.addWalk c.id die va.toNat n)
/-- Translates an access (R197 to R201): where the entries that may serve it and the table differ, it uses any one of them, whole
(R201). -/
def State.xlate (s : State) (c : Context) (die : Nat) (src : ReqSrc) (va : W64) (k : AccK) (w : Who) : XR × State :=
  match s.tlbHits c.id src die va.toNat with
  | [] => s.xlateMiss c die src va k w
  | e :: es =>
    let fresh := s.walk c src va.toNat
    let now : List (W64 × Nat) := match fresh with
      | .leaf pte size => [(pte, size)]
      | .fault _ | .poison | .pinned _ => []
    let l := ((e :: es).map (fun x => (x.pte, x.size)) ++ now).eraseDups
    let use := fun (p : W64 × Nat) (s : State) =>
      (leafOutcome c va k w p.1 p.2, s.fillTlb c.id src die va.toNat p.1 p.2)
    let ends := match fresh with
      | .fault _ => 1
      | .leaf _ _ | .poison | .pinned _ => 0
    if l.length + ends ≤ 1 then use (e.pte, e.size) s
    else
      let f := s.useFree
      match l[Config.freeNat f.1 % (l.length + ends)]? with
      | some p => use p f.2
      | none => (fresh.outcome c va k w, f.2)

/-- The address rules of R42 before translation: bits [63:56] set, then alignment. -/
def addrTrap (va : W64) (size : Nat) (wr : Bool) : Option Trap :=
  if va.extractLsb' 56 8 ≠ (0 : BitVec 8) then some (.addrProt va wr)
  else if va.toNat % size ≠ 0 then some (.misaligned va wr)
  else none

/-- Pieces of a byte range that stay within one 64 KiB page: lengths from an address up. -/
def pagePieces (va : Nat) : Nat → Nat → List (Nat × Nat)
  | 0, _ => []
  | fuel + 1, n =>
    if n == 0 then []
    else
      let k := min n (65536 - va % 65536)
      (va, k) :: pagePieces (va + k) fuel (n - k)
/-- What a fetch from a context's space gives: a value, the trap of the first page that fails, a wait for a line that another
core pins (R217) or for a walk, or bytes to ask of another device (R384). -/
inductive Got (α : Type)
  | ok (a : α)
  | trap (t : Trap)
  | wait (line : Option Nat)
  | ask (vdev pa n : Nat)
  deriving DecidableEq, Repr
/-- Goes on with the value of a fetch. -/
def Got.andThen {α β : Type} (r : Got α × State) (k : α → State → Got β × State) : Got β × State :=
  match r.1 with
  | .ok a => k a r.2
  | .trap t => (.trap t, r.2)
  | .wait l => (.wait l, r.2)
  | .ask v pa n => (.ask v pa n, r.2)
/-- A fetch of bytes. -/
abbrev RV := Got Bytes
/-- The bytes an access of a remote request names. -/
def remLen (a : RemAcc) : Nat :=
  match a.op with
  | .read n => n
  | .write d => d.length
  | .atom _ _ _ _ => 8
/-- Whether two remote accesses are the same one, asked again. -/
def remLike (a b : RemAcc) : Bool :=
  a.pa == b.pa && remLen a == remLen b && (match a.op, b.op with
    | .read _, .read _ | .write _, .write _ | .atom _ _ _ _, .atom _ _ _ _ => true
    | _, _ => false)
/-- Whether a request in flight asks a device for a list of accesses. -/
def Req.asks (r : Req) (key : ThKey) (vdev : Nat) (test : Bool) (accs : List RemAcc) : Bool :=
  decide (r.key = key) && decide (r.vdev = some vdev) && (match r.op with
    | .remote (.ask _ _ t l) => t == test && l.length == accs.length && (l.zip accs).all fun p => remLike p.1 p.2
    | _ => false)
/-- A read of bytes at the owner, checked nowhere. -/
def readAcc (pa n : Nat) : RemAcc := { pa := pa, op := .read n, chk := none }
/-- The final answer a requester has received from another device, if any; a retry response is none (R217). -/
def State.answered? (s : State) (key : ThKey) (vdev : Nat) (test : Bool) (accs : List RemAcc) : Option Resp :=
  match (s.reqs.find? fun r => r.asks key vdev test accs).bind (·.resp) with
  | some (.retry _) => none
  | x => x
/-- The answer to a read of bytes. -/
def State.answer (s : State) (key : ThKey) (vdev pa n : Nat) : Option (Except RemErr Bytes) :=
  match s.answered? key vdev false [readAcc pa n] with
  | some (.data l) => some (.ok (l.headD []))
  | some (.error _ e) => some (.error e)
  | some (.retry _) => none
  | none => none
/-- The lines a byte range touches. -/
def linesOf (pa n : Nat) : List Nat := (List.range ((pa + n - 1) / 64 + 1 - pa / 64)).map (pa / 64 + ·)
/-- The result of one piece of a read. -/
def State.readPiece (s : State) (src : ReqSrc) (key : ThKey) (va : Nat) (n : Nat) (x : XR) : RV :=
  match x with
  | .trap t => .trap t
  | .pinned l => .wait l
  | .ok (some v) pa _ =>
    match s.answer key v pa n with
    | none => .ask v pa n
    | some (.ok b) => .ok (b.take n)
    | some (.error e) => .trap (Trap.xlate (w64 va) .load .pageFault (decide (e = .malformed)) false (decide (e ≠ .malformed)))
  | .ok none pa _ =>
    match (linesOf pa n).find? (s.refused src) with
    | some l => .wait (some l)
    | none => if s.poisoned pa n then .trap (Trap.xlate (w64 va) .load .pageFault false false true)
              else .ok (s.readPhys pa n)
/-- Reads bytes of a context's space at the slices, for a thread or on the device's own account (R415). -/
def State.readVirt (s : State) (c : Context) (die : Nat) (src : ReqSrc) (key : ThKey) (va : W64) (n : Nat) (w : Who) :
    RV × State :=
  (pagePieces va.toNat (n / 65536 + 2) n).foldl (fun acc p =>
    Got.andThen acc fun bs s =>
      if 2 ^ 56 ≤ p.1 then (.trap (.addrProt (w64 p.1) false), s)
      else
        let r := s.xlate c die src (w64 p.1) .load w
        Got.andThen (r.2.readPiece src key p.1 p.2 r.1, r.2) fun b s => (.ok (bs ++ b), s)) (.ok [], s)
/-- The number under which the device itself reads and writes (R415): no context has it for an engine. -/
def deviceSrc : ReqSrc := .engine 0
/-- A key that names no thread, for the device's own accesses. -/
def deviceKey (ctx : Nat) : ThKey := { ck := { ctx := ctx, launch := 0, coh := 0 }, tid := 4096, addr := false }
/-- Reads a structure of a context as supervisor (R415). -/
def State.readSup (s : State) (c : Context) (va : W64) (n : Nat) : RV × State :=
  s.readVirt c 0 deviceSrc (deviceKey c.id) va n .device
/-! Messages to other members of the job (R389). -/

/-- A data message to a member: it takes the next sequence number and is held until acknowledged; it leaves at once only
while the job runs, or re-sends what it holds (R387, R389, R391). -/
def Context.dataTo (c : Context) (peer : Nat) (b : DataBody) : Context × List Output :=
  let n := (aget 0 c.pod.seqOut peer + 1) % 2 ^ 32
  let go := decide (c.pod.damper = .run ∨ c.pod.damper = .none) || c.pod.resending
  let m : HeldMsg := { peer := peer, seq := n, body := b, sent := go }
  ({ c with pod := { c.pod with seqOut := aput c.pod.seqOut peer n, held := c.pod.held ++ [m] } },
   if go then [.data peer { src := c.self, jobid := c.jobid, seq := n, body := b }] else [])
/-- Sends a data message of a context. -/
def State.sendData (s : State) (ctx peer : Nat) (b : DataBody) : State :=
  match s.context? ctx with
  | none => s
  | some c => s.putSent (c.dataTo peer b)

/-! Requests to other devices (R384, R385). -/

/-- A source asks another device, once, under a name: a request with its message, numbered by its identifier. -/
def State.askFor (s : State) (src : ReqSrc) (k : ThKey) (vdev : Nat) (test : Bool) (accs : List RemAcc) : State :=
  if s.reqs.any fun r => r.asks k vdev test accs then s
  else
    let holder := match src with
      | .core n => some n
      | .engine _ => none
    let b : DataBody := .ask s.nextId holder test accs
    let r : Req := { id := s.nextId, src := src, key := k, merged := [], vdev := some vdev, pa := (accs.map (·.pa)).headD 0,
                     op := .remote b, dest := .none, refusals := 0, refusedAt := 0, sentAt := s.clock, resp := none }
    ({ s with reqs := s.reqs ++ [r], nextId := s.nextId + 1 } : State).sendData k.ck.ctx vdev b
/-- Drops the requests to other devices that wait under a name. -/
def State.dropAnswers (s : State) (k : ThKey) : State :=
  { s with reqs := s.reqs.filter fun r => !(decide (r.key = k) && r.vdev.isSome) }
/-- A request to a line is refused (R217): its requester waits under a name, and re-sends it. -/
def State.probeFor (s : State) (src : ReqSrc) (key : ThKey) (line : Nat) : State :=
  if s.reqs.any fun r => decide (r.op = .probe) && decide (r.key = key) && r.pa / 64 == line then s
  else { s with reqs := s.reqs ++ [{ id := s.nextId, src := src, key := key, merged := [], vdev := none,
                                     pa := 64 * line, op := .probe, dest := .none, refusals := 1,
                                     refusedAt := s.clock, sentAt := s.clock, resp := none }],
                nextId := s.nextId + 1 }
/-- Drops the probes that wait under a name. -/
def State.dropProbes (s : State) (key : ThKey) : State :=
  { s with reqs := s.reqs.filter fun r => !(decide (r.op = .probe) && decide (r.key = key)) }
/-- The key of a remote write that no thread waits for: the dirty bytes that a core writes back (R384). -/
def backKey (ctx core : Nat) : ThKey := { ck := { ctx := ctx, launch := 0, coh := 0 }, tid := 16384 + core, addr := false }
/-- A core's dirty bytes leave for the device that holds their page, which answers when it has written them (R384, R385). -/
def State.sendWrite (s : State) (ctx core vdev pa : Nat) (data : List (Option Byte)) : State :=
  let b : DataBody := .ask s.nextId (some core) false [{ pa := pa, op := .write data, chk := none }]
  let r : Req := { id := s.nextId, src := .core core, key := backKey ctx core, merged := [], vdev := some vdev, pa := pa,
                   op := .remote b, dest := .none, refusals := 0, refusedAt := 0, sentAt := s.clock, resp := none }
  ({ s with reqs := s.reqs ++ [r], nextId := s.nextId + 1 } : State).sendData ctx vdev b

/-- Writes one page's part of a byte range of a context's space as supervisor (R415): at the slices, or, once it has answered, on the
device that holds the page (R384); a pinned line is waited for (R217). -/
def State.writePiece (s : State) (c : Context) (va : Nat) (data : Bytes) : Got Unit × State :=
  if 2 ^ 56 ≤ va then (.trap (.addrProt (w64 va) true), s)
  else
    let r := s.xlate c 0 deviceSrc (w64 va) .store .device
    match r.1 with
    | .trap t => (.trap t, r.2)
    | .pinned l => (.wait l, r.2)
    | .ok (some v) pa _ =>
      let accs : List RemAcc := [{ pa := pa, op := .write (data.map some), chk := none }]
      (match r.2.answered? (deviceKey c.id) v false accs with
        | some (.error _ e) =>
          (.trap (Trap.xlate (w64 va) .store .pageFault (decide (e = .malformed)) false (decide (e ≠ .malformed))), r.2)
        | some (.data _) => (.ok (), r.2)
        | some (.retry _) => (.ask v pa data.length, r.2)
        | none => (.ask v pa data.length, r.2.askFor deviceSrc (deviceKey c.id) v false accs))
    | .ok none pa _ =>
      (match (linesOf pa data.length).find? (r.2.refused deviceSrc) with
        | some l => (.wait (some l), r.2)
        | none => (.ok (), r.2.writePhys pa (data.map some)))
/-- Writes bytes of a context's space as supervisor (R415): the pieces before the first that fails or waits. -/
def State.writeVirt (s : State) (c : Context) (va : W64) (data : Bytes) : Got Unit × State :=
  (pagePieces va.toNat (data.length / 65536 + 2) data.length).foldl (fun acc p =>
    Got.andThen acc fun _ s => s.writePiece c p.1 ((data.drop (p.1 - va.toNat)).take p.2)) (.ok (), s)
/-- Writes several byte ranges in turn, up to the first that fails or waits. -/
def State.writeList (s : State) (c : Context) (l : List (W64 × Bytes)) : Got Unit × State :=
  l.foldl (fun acc p => Got.andThen acc fun _ s => s.writeVirt c p.1 p.2) (.ok (), s)
/-- The device waits for what its own access needs: a pinned line, or another device that it has asked. -/
def State.deviceWait (s : State) (c : Context) : Got Unit → State
  | .wait (some l) => s.probeFor deviceSrc (deviceKey c.id) l
  | .wait none | .ask _ _ _ | .ok _ | .trap _ => s
/-- The device's own access is over: nothing of it waits any longer. -/
def State.deviceDone (s : State) (c : Context) : State := (s.dropProbes (deviceKey c.id)).dropAnswers (deviceKey c.id)

end Sys2Proof.Machine
end

