-- ==== Sys2Proof/Machine/Cache.lean ====
section
/-! DEFINITION. The L1 caches (R180 to R182), pins (R216, R217), the victim tags (R138), the reuse-distance unit (R366) and
the race check of the slices (R218 to R222). -/

namespace Sys2Proof.Machine

/-! Lines. -/

/-- Whether a line is the one named. -/
def L1Line.is (l : L1Line) (vdev : Option Nat) (line : Nat) (tag : PathTag) : Bool :=
  decide (l.vdev = vdev) && l.line == line && decide (l.tag = tag)
/-- A line of a core. -/
def Core.line? (c : Core) (vdev : Option Nat) (line : Nat) (tag : PathTag) : Option L1Line :=
  c.l1.find? fun l => l.is vdev line tag
/-- Whether any byte of a line is dirty. -/
def L1Line.isDirty (l : L1Line) : Bool := l.dirty.any id
/-- The L1 set of a line (R180). -/
def setOf (line : Nat) : Nat := line % 2048
/-- Makes a line the most recently used one. -/
def Core.touch (c : Core) (l : L1Line) : Core :=
  { c with l1 := l :: c.l1.filter fun x => !x.is l.vdev l.line l.tag }
/-- A line is hit: it is the most recently used of its set, and nothing changes where it was already (R180). -/
def Core.hit (c : Core) (l : L1Line) : Core :=
  match c.l1.find? fun x => setOf x.line == setOf l.line with
  | some x => if x.is l.vdev l.line l.tag then c else c.touch l
  | none => c.touch l
/-- An empty line. -/
def L1Line.fresh (vdev : Option Nat) (line : Nat) (tag : PathTag) : L1Line :=
  { vdev := vdev, line := line, tag := tag, checked := false, valid := [false, false],
    dirty := List.replicate 64 false, data := List.replicate 64 0, owner := none }
/-- The dirty bytes of a line as a masked write. -/
def L1Line.masked (l : L1Line) : List (Option Byte) := l.dirty.zipWith (fun d b => if d then some b else none) l.data
/-- A line after its dirty bytes were written back. -/
def L1Line.clean (l : L1Line) : L1Line := { l with dirty := List.replicate 64 false }
/-- The name of a core's own write requests. -/
def State.writeReq (s : State) (ctx core pa : Nat) (data : List (Option Byte)) : Req :=
  { id := s.nextId, src := .core core, key := backKey ctx core, merged := [], vdev := none, pa := pa, op := .write data, dest := .none,
    refusals := 0, refusedAt := 0, sentAt := s.clock, resp := none }
/-- A core sends dirty bytes to their slice (R181), in the order of its requests (R184), or to the device that holds the page. -/
def State.sendBack (s : State) (ctx core : Nat) (vdev : Option Nat) (pa : Nat) (data : List (Option Byte)) : State :=
  if data.all Option.isNone then s
  else match vdev with
    | none => { s with reqs := s.reqs ++ [s.writeReq ctx core pa data], nextId := s.nextId + 1 }
    | some v => s.sendWrite ctx core v pa data
/-- The dirty bytes of an evicted line leave, word by word in any two parts (R181, R202). -/
def State.evict (s : State) (ctx core : Nat) (l : L1Line) : State :=
  if l.isDirty then
    let f := s.useFree
    let part := fun (b : Bool) => (List.range 64).map fun k =>
      if (Config.freeNat f.1).testBit (k / 4) == b then l.masked.getD k none else none
    (f.2.sendBack ctx core l.vdev (64 * l.line) (part true)).sendBack ctx core l.vdev (64 * l.line) (part false)
  else s
/-- Whether a core has pinned a GEN line it holds (R216). -/
def State.pinsLine (s : State) (core : Nat) (l : L1Line) : Bool :=
  decide (l.tag = .gen) && s.pins.any fun p => p.core == core && p.dev.isNone && p.line == l.line && decide (p.vdev = l.vdev)
/-- The line that a full set must evict before one more line enters it: the least recently used that its core has not pinned
(R180, R182, R216). At most 8 ways of a set hold pins, so there is one. -/
def State.victim (s : State) (core : Nat) (set : Nat) : Option L1Line :=
  let ways := (s.core core).l1.filter fun l => setOf l.line == set
  if ways.length < 16 then none
  else ways.reverse.find? fun l => !s.pinsLine core l
/-- Enters a line's address with the owner of its fill in the victim tag array, replacing the oldest (R138). -/
def Core.addVictim (c : Core) (line : Nat) (g : Option GrpKey) : Core := { c with victims := ((line, g) :: c.victims).take 4096 }
/-- A group has ceased to exist: the entries and lines it owned keep their places and match no group (R138). -/
def Core.disown (c : Core) (dead : GrpKey → Bool) : Core :=
  let out := fun (g : Option GrpKey) => g.filter fun k => !dead k
  { c with victims := c.victims.map fun v => (v.1, out v.2), l1 := c.l1.map fun l => { l with owner := l.owner.map out } }
/-- Makes room in the set of a line (R180): the victim's dirty bytes are written back and its tag kept (R138). -/
def State.makeRoom (s : State) (ctx core line : Nat) : State :=
  match s.victim core (setOf line) with
  | none => s
  | some v =>
    (s.evict ctx core v).updCore core fun c =>
      let c := { c with l1 := c.l1.filter fun x => !x.is v.vdev v.line v.tag }
      match v.tag, v.owner with
      | .gen, some g => c.addVictim v.line g
      | .gen, none => c
      | .ro, _ => c
/-- Puts a line into a core's L1 as the most recently used one. -/
def State.putLine (s : State) (ctx core : Nat) (l : L1Line) : State :=
  let s1 := if ((s.core core).line? l.vdev l.line l.tag).isSome then s else s.makeRoom ctx core l.line
  s1.updCore core fun c => c.touch l

/-- Whether a byte of a line can be read in L1. -/
def L1Line.has (l : L1Line) (off : Nat) : Bool := l.valid.getD (off / 32) false || l.dirty.getD off false
/-- The bytes of a hit (R180). -/
def State.l1Read (s : State) (core : Nat) (vdev : Option Nat) (pa n : Nat) (tag : PathTag) : Option Bytes :=
  match (s.core core).line? vdev (pa / 64) tag with
  | none => none
  | some l =>
    if (List.range n).all fun i => l.has (pa % 64 + i) then some ((l.data.drop (pa % 64)).take n) else none
/-- Fills the sectors that a range of one line touches, keeping dirty bytes (R181). -/
def L1Line.fill (l : L1Line) (sectors : List Nat) (bytes : Nat → Byte) : L1Line :=
  { l with valid := (List.range 2).map fun k => l.valid.getD k false || sectors.contains k,
           data := (List.range 64).map fun i =>
             if sectors.contains (i / 32) && !l.dirty.getD i false then bytes i else l.data.getD i 0 }
/-- The sectors of its line that a range touches. -/
def sectorsOf (pa n : Nat) : List Nat :=
  if pa % 64 / 32 == (pa + n - 1) % 64 / 32 then [pa % 64 / 32] else [0, 1]
/-- The bytes that a miss fetches: the sectors its range touches, by first address and length (R181). -/
def sectorRange (pa n : Nat) : Nat × Nat := (pa / 32 * 32, 32 * (sectorsOf pa n).length)
/-- A load miss fills its sectors from the slice, or from the bytes of them that another device sent (R181, R384). -/
def State.l1Fill (s : State) (ctx core : Nat) (vdev : Option Nat) (pa n : Nat) (tag : PathTag) (checked : Bool)
    (owner : Option GrpKey) (remote : Option Bytes) : State :=
  let line := pa / 64
  let l := ((s.core core).line? vdev line tag).getD (L1Line.fresh vdev line tag)
  let f : L1Line := l.fill (sectorsOf pa n) fun i => match remote with
    | none => Memory.readByte s.mem (64 * line + i)
    | some b => b.getD (64 * line + i - (sectorRange pa n).1) 0
  s.putLine ctx core { f with checked := checked, owner := match l.owner with | some o => some o | none => owner.map some }
/-- Sets bytes of a line. -/
def L1Line.store (l : L1Line) (off : Nat) (data : Bytes) (dirty : Bool) : L1Line :=
  let inside := fun i => decide (off ≤ i) && decide (i < off + data.length)
  { l with data := (List.range 64).map fun i => if inside i then data.getD (i - off) 0 else l.data.getD i 0,
           dirty := (List.range 64).map fun i => (inside i && dirty) || l.dirty.getD i false }
/-- A store to a page that is not CHECKED: it sets dirty bytes in the GEN line (R181). -/
def State.l1Store (s : State) (ctx core : Nat) (vdev : Option Nat) (pa : Nat) (data : Bytes) : State :=
  let l := ((s.core core).line? vdev (pa / 64) .gen).getD (L1Line.fresh vdev (pa / 64) .gen)
  s.putLine ctx core (l.store (pa % 64) data true)
/-- The GEN copy of a line, if held, takes a store that was written through (R180, R181). -/
def State.l1Update (s : State) (core : Nat) (vdev : Option Nat) (pa : Nat) (data : Bytes) : State :=
  match (s.core core).line? vdev (pa / 64) .gen with
  | none => s
  | some l => s.updCore core fun c => c.touch (l.store (pa % 64) data false)
/-- An atomic writes the line's dirty bytes back first and invalidates the core's GEN copy (R181): on this device at the slice that
performs the atomic, on another by a message ahead of it (R384). -/
def State.l1Expel (s : State) (ctx core : Nat) (vdev : Option Nat) (line : Nat) : State :=
  match (s.core core).line? vdev line .gen with
  | none => s
  | some l =>
    (match vdev with
      | none => if l.isDirty then s.writePhys (64 * line) l.masked else s
      | some _ => s.sendBack ctx core vdev (64 * line) (if l.isDirty then l.masked else [])).updCore core fun c =>
        { c with l1 := c.l1.filter fun x => !x.is vdev line .gen }

/-! Write-back, invalidation and pins. -/

/-- The GEN lines of a core that hold dirty bytes, least recently used first. -/
def State.dirtyLines (s : State) (core : Nat) : List L1Line :=
  (s.core core).l1.reverse.filter fun l => decide (l.tag = .gen) && l.isDirty
/-- A line of a core whose write-back another core's pin refuses: a dirty one, or one whose bytes wait at their slice (R217). -/
def State.blockedLine (s : State) (core : Nat) : Option Nat :=
  match (s.dirtyLines core).findSome? fun l => if decide (l.vdev = none) && s.refused (.core core) l.line then some l.line else none with
  | some l => some l
  | none => s.reqs.findSome? fun q => match q.op with
    | .write _ => if decide (q.src = .core core) && s.refused (.core core) (q.pa / 64) then some (q.pa / 64) else none
    | .fillGen _ _ | .fillRo _ _ | .atom _ _ _ _ _ | .probe | .remote _ => none
/-- Ends pins (R217); a device on which a core of this one holds a line is told (R384). -/
def State.endPins (s : State) (gone : Pin → Bool) : State :=
  let told := s.pins.filterMap fun p => if gone p && p.dev.isNone then p.vdev.map fun v => (p, v) else none
  told.foldl (fun s p => s.sendData p.1.ck.ctx p.2 (.unpin p.1.core [p.1.line])) { s with pins := s.pins.filter fun p => !gone p }
/-- The bytes of one line reach their slice now, or leave for the device that holds the page. -/
def State.writeNow (s : State) (ctx core : Nat) (l : L1Line) : State :=
  match l.vdev with
  | none => s.writePhys (64 * l.line) l.masked
  | some v => s.sendWrite ctx core v (64 * l.line) l.masked
/-- Invalidates every GEN line of a core that holds no dirty bytes (R182). -/
def State.dropClean (s : State) (core : Nat) : State :=
  s.updCore core fun c => { c with l1 := c.l1.filter fun l => decide (l.tag = .ro) || l.isDirty }
/-- Invalidates the RO lines of a core (R182, R241). -/
def State.dropRo (s : State) (core : Nat) : State :=
  s.updCore core fun c => { c with l1 := c.l1.filter fun l => decide (l.tag = .gen) }
/-- Invalidates the GEN lines of CHECKED pages of a core (R222). -/
def State.dropChecked (s : State) (core : Nat) : State :=
  s.updCore core fun c => { c with l1 := c.l1.filter fun l => !(decide (l.tag = .gen) && l.checked) }
/-- Registers a pin of a line, once (R216). -/
def State.addPin (s : State) (p : Pin) : State :=
  if s.pins.any fun q => q.line == p.line && decide (q.vdev = p.vdev) && q.core == p.core && decide (q.dev = p.dev) then s
  else { s with pins := s.pins ++ [p] }
/-- A core's pin of a line, of this device or of another (R216, R384). -/
def pinOf (ck : CohKey) (core : Nat) (vdev : Option Nat) (line : Nat) : Pin := { line := line, core := core, ck := ck, vdev := vdev }

/-- Whether a scope reaches past the cohort (R182, R216). -/
def wideScope : MScope → Bool
  | .thread | .group | .cohort => false
  | .die | .device | .pod => true

/-! Victim tags and scores (R138). -/

/-- One decay of a score (R138). -/
def decayOnce (dsh score : Nat) : Nat := if dsh == 0 then score else score - max (score / 2 ^ dsh) (min score 1)
/-- `n` decays of a score; it stays at zero once there. -/
def decayTimes (dsh : Nat) : Nat → Nat → Nat
  | 0, score => score
  | n + 1, score => if score == 0 || dsh == 0 then score else decayTimes dsh n (decayOnce dsh score)
/-- DSH of an issue-control word (R137). -/
def dshOf (isctl : W32) : Nat := (isctl.extractLsb' 28 3).toNat
/-- A group's score at a clock: one decay for each multiple of 1,024 clocks since the last (R138). -/
def Group.scoreAt (g : Group) (isctl : W32) (clock : Nat) : Nat :=
  decayTimes (dshOf isctl) (clock / 1024 - g.decayed) g.score
/-- Brings a group's score up to a clock. -/
def Group.decayTo (g : Group) (isctl : W32) (clock : Nat) : Group :=
  { g with score := g.scoreAt isctl clock, decayed := clock / 1024 }
/-- A GEN load miss of a group in a line: a victim tag that the group owns raises its score; the tag stays (R138). -/
def State.countMiss (s : State) (i : Iss) (line : Nat) : State :=
  let c := s.core i.core
  let det := match s.launch? i.ck.ctx i.ck.launch with | some l => l.hdr.det | none => false
  if !det && c.victims.contains (line, some i.run.gk) then
    s.updGroup i.run.gk fun g =>
      let h := g.decayTo c.isctl s.clock
      { h with score := min (h.score + (c.isctl.extractLsb' 20 8).toNat) 4095 }
  else s

/-! Reuse distance (R366). -/

/-- H of R366. -/
def reuseHash (line : Nat) : Nat := (line % 65536) ^^^ (line / 65536 % 65536) ^^^ (line / 2 ^ 32 % 65536)
/-- Adds one to a saturating counter of the histogram. -/
def bumpHist (h : List W32) (b : Nat) : List W32 :=
  h.set b (let v := h.getD b 0
           if v = 0xFFFFFFFF#32 then v else v + 1)
/-- Puts register j into every other set. -/
def shareTag (j : Nat) (l : List RdTag) : List RdTag :=
  l.map fun x => if x.reg == j || x.seen.contains j then x else { x with seen := x.seen ++ [j] }
/-- The update of R366 on a sampled line: tags are kept with the most recently used first. -/
def Core.reuse (c : Core) (line : Nat) : Core :=
  let sh := (c.rdctl.extractLsb' 16 4).toNat
  if !(c.rdctl.getLsbD 31) || reuseHash line % 2 ^ sh != 0 then c
  else match c.rdtags.find? fun x => x.line == line with
    | some x =>
      let dist := x.seen.length * 2 ^ sh
      let b := if dist == 0 then 0 else min (Nat.log2 dist + 1) 14
      { c with rdhist := bumpHist c.rdhist b,
               rdtags := { x with seen := [] } :: shareTag x.reg (c.rdtags.filter fun y => y.reg != x.reg) }
    | none =>
      let free := (List.range 256).find? fun j => !(c.rdtags.any fun x => x.reg == j)
      let j := match free with
        | some j => j
        | none => match c.rdtags.getLast? with | some x => x.reg | none => 0
      { c with rdhist := bumpHist c.rdhist 15,
               rdtags := { reg := j, line := line, seen := [] } :: shareTag j (c.rdtags.filter fun y => y.reg != j) }
/-- The reuse-distance unit observes an access of the named launch (R366). -/
def State.observe (s : State) (i : Iss) (line : Nat) : State :=
  let c := s.core i.core
  if c.rdctl.getLsbD 31 && (c.rdctl.extractLsb' 0 16).toNat == i.ck.ctx && c.rdlaunch.toNat == i.ck.launch then
    s.updCore i.core fun c => c.reuse line
  else s

/-! The race check (R219 to R221). -/

/-- One checked access as the slice applies it. -/
structure ChkAcc where
  tid : Nat
  va : W64
  pa : Nat
  n : Nat
  wr : Bool
  chk : Chk
  deriving DecidableEq, Repr
/-- The record of a sector (R220); no record means none was kept. -/
def State.shadowOf (s : State) (sec : Nat) : Option Shadow := (s.shadow.find? fun x => x.1 == sec).map (·.2)
/-- The words of an access, by physical address, lowest first. -/
def wordsOfAcc (pa n : Nat) : List Nat := (List.range ((pa + n - 1) / 4 + 1 - pa / 4)).map fun k => 4 * (pa / 4 + k)
/-- The record an access meets: one of another phase or context counts as empty (R220). -/
def State.shadowFor (s : State) (ctx : Nat) (sec : Nat) (p : PhaseId) : Shadow :=
  let none' : Shadow := { ctx := ctx, phase := p, words := List.replicate 8 (none, .none) }
  match s.shadowOf sec with
  | some sh => if sh.ctx == ctx && decide (sh.phase = p) then sh else none'
  | none => none'
/-- The conflict an access meets in a word (R220): none, or the earlier agent, which is absent for SEVERAL. -/
def wordRace (w : Option Agent × ReadSt) (x : Agent) (wr : Bool) : Option (Option Agent) :=
  match w.1 with
  | some a => if a = x then (if wr then readRace w.2 x else none) else some (some a)
  | none => if wr then readRace w.2 x else none
where
  /-- A write against the readers of a word. -/
  readRace : ReadSt → Agent → Option (Option Agent)
    | .several, _ => some none
    | .one b, x => if b = x then none else some (some b)
    | .none, _ => none
/-- The first conflicting word of an access, lowest address first (R220, R221). -/
def State.raceOf (s : State) (ctx : Nat) (a : ChkAcc) : Option (Nat × Option Agent) :=
  (wordsOfAcc a.pa a.n).findSome? fun w =>
    let sh := s.shadowFor ctx (w / 32) a.chk.phase
    (wordRace (sh.words.getD (w % 32 / 4) (none, .none)) a.chk.agent a.wr).map fun e => (w, e)
/-- A word's record after an access (R220). -/
def wordMark (w : Option Agent × ReadSt) (x : Agent) (wr : Bool) : Option Agent × ReadSt :=
  if wr then (some x, w.2)
  else match w.2 with
    | .none => (w.1, .one x)
    | .one b => if b = x then w else (w.1, .several)
    | .several => w
/-- Records an access (R220). -/
def State.markAccess (s : State) (ctx : Nat) (a : ChkAcc) : State :=
  (wordsOfAcc a.pa a.n).foldl (fun s w =>
    let sh := s.shadowFor ctx (w / 32) a.chk.phase
    let k := w % 32 / 4
    let sh := { sh with words := sh.words.set k (wordMark (sh.words.getD k (none, .none)) a.chk.agent a.wr) }
    { s with shadow := aput s.shadow (w / 32) sh }) s
/-- The fields of a record that name an earlier agent (R336). -/
def agentInfo (e : Option Agent) : W64 × W64 :=
  match e with
  | none => (3, 0)
  | some (.thread _ ck tid) => (0, w64 (tid + ck.coh * 2 ^ 32))
  | some (.copy _ eng _ tag) => (w64 (1 + eng * 2 ^ 11), tag.zeroExtend 64)
  | some (.coll _ eng _ tag) => (w64 (2 + eng * 2 ^ 11), tag.zeroExtend 64)
/-- MEMORY_RACE of a thread's access (R221, R336): the instruction's own cause. -/
def Trap.race (a : ChkAcc) (w : Nat) (e : Option Agent) : Trap :=
  { rank := 7, cause := .memoryRace, write := a.wr, addr := a.va - w64 a.pa + w64 w,
    info1 := (agentInfo e).1, info2 := (agentInfo e).2 }
/-- The phase id a thread's access carries: that of the compute stream in a pair (R218). -/
def State.phaseOf (s : State) (t : Thread) : PhaseId :=
  if t.key.addr then match s.thread? { t.key with addr := false } with
    | some c => c.phase
    | none => t.phase
  else t.phase
/-- What a thread's checked access carries (R202, R218, R386). -/
def State.chkOf (s : State) (t : Thread) : Chk :=
  { agent := .thread (match s.context? t.key.ck.ctx with | some c => c.self | none => 0) t.key.ck t.key.tid,
    phase := s.phaseOf t }

end Sys2Proof.Machine
end

