-- ==== Sys2Proof/Machine/Int.lean ====
section
/-! DEFINITION. Integer, bit and conversion-free scalar instructions: majors 0x01 to 0x0F and 0x16 (R66, R68 to R74,
R84). -/

namespace Sys2Proof.Machine

/-- Counts zero bits from bit n - 1 down to the highest set bit (R69). -/
def clzGo (x : W32) : Nat → Nat
  | 0 => 0
  | n + 1 => if x.getLsbD n then 0 else 1 + clzGo x n
/-- Counts zero bits below the lowest set bit, of n bits from bit 32 - n up (R69). -/
def ctzGo (x : W32) : Nat → Nat
  | 0 => 0
  | n + 1 => if x.getLsbD (31 - n) then 0 else 1 + ctzGo x n
/-- The number of set bits (R69). -/
def popCount (x : W32) : Nat := ((List.range 32).filter x.getLsbD).length
/-- A word from its bits. -/
def ofBits (f : Nat → Bool) : W32 := w32 (((List.range 32).map fun i => if f i then 2 ^ i else 0).sum)
/-- BREV (R69). -/
def bitReverse (x : W32) : W32 := ofBits fun i => x.getLsbD (31 - i)
/-- BSWAP (R69). -/
def byteSwap (x : W32) : W32 :=
  x.extractLsb' 0 8 ++ x.extractLsb' 8 8 ++ x.extractLsb' 16 8 ++ x.extractLsb' 24 8
/-- ROL of R68. -/
def rolWord (a : W32) (n : Nat) : W32 := if n = 0 then a else (a <<< n) ||| (a >>> (32 - n))
/-- ROR of R69. -/
def rorWord (a : W32) (n : Nat) : W32 := if n = 0 then a else (a >>> n) ||| (a <<< (32 - n))
/-- MULHI.i32 (R68). -/
def mulHiS (a b : W32) : W32 := hi32 (wrap64 (a.toInt * b.toInt))
/-- MULHI.n32 (R68). -/
def mulHiU (a b : W32) : W32 := hi32 (w64 (a.toNat * b.toNat))
/-- The low five bits of a shift amount (R68). -/
def sh5 (b : W32) : Nat := b.toNat % 32
/-- The low six bits of a shift amount (R70). -/
def sh6 (b : W32) : Nat := b.toNat % 64
/-- An 11-bit immediate, sign-extended to a word (R71). -/
def immS (imm : BitVec 11) : W32 := imm.signExtend 32
/-- An 11-bit immediate, zero-extended to a word (R71). -/
def immZ (imm : BitVec 11) : W32 := imm.zeroExtend 32
/-- BFX (R73): the field of `len` bits at `pos`, extended. -/
def bitField (sx : Bool) (pos len : Nat) (a : W32) : W32 :=
  let f := a.toNat / 2 ^ pos % 2 ^ len
  wrap32 (if sx && decide (2 ^ (len - 1) ≤ f) then (f : Int) - 2 ^ len else f)
/-- BFI (R73). -/
def insertField (pos len : Nat) (d a : W32) : W32 :=
  let m := w32 ((2 ^ len - 1) * 2 ^ pos)
  (d &&& ~~~m) ||| ((a <<< pos) &&& m)
/-- Element i of width w of a word, signed or not (R84). -/
def elemOf (sgn : Bool) (w : Nat) (x : W32) (i : Nat) : Int :=
  let v := x.toNat / 2 ^ (i * w) % 2 ^ w
  if sgn then signedOf w v else v
/-- IDP of R84: the exact sum, clamped or wrapped. -/
def dotProduct (w : Nat) (sat sa sb : Bool) (d a b : W32) : W32 :=
  let s := (List.range (32 / w)).foldl (fun acc i => acc + elemOf sa w a i * elemOf sb w b i) d.toInt
  wrap32 (if sat then max (-2147483648) (min s 2147483647) else s)

/-- An instruction `g[d] := f g[a] g[b]`. -/
def State.alu2 (s : State) (d a b : Slot) (f : W32 → W32 → W32) : Out :=
  s.compute [.dg d, .g a, .g b] fun _ r => .slot d (f (r.x 1) (r.x 2))
/-- An instruction `g[d] := f g[a]`. -/
def State.alu1 (s : State) (d a : Slot) (f : W32 → W32) : Out :=
  s.compute [.dg d, .g a] fun _ r => .slot d (f (r.x 1))
/-- An instruction `g[d] := f g[d] g[a] g[b]`. -/
def State.alu3 (s : State) (d a b : Slot) (f : W32 → W32 → W32 → W32) : Out :=
  s.compute [.rwg d, .g a, .g b] fun _ r => .slot d (f (r.x 0) (r.x 1) (r.x 2))
/-- An instruction `D := f A B` on pairs. -/
def State.alu64 (s : State) (d a b : Slot) (f : W64 → W64 → W64) : Out :=
  s.compute [.dgs d 2, .gs a 2, .gs b 2] fun _ r => .pair d (f (r.p 1) (r.p 2))
/-- An instruction `D := f A g[b]` on a pair and a slot. -/
def State.alu64s (s : State) (d a b : Slot) (f : W64 → W32 → W64) : Out :=
  s.compute [.dgs d 2, .gs a 2, .g b] fun _ r => .pair d (f (r.p 1) (r.x 2))
/-- An instruction `g[d] := f A B` that compares pairs. -/
def State.cmp64 (s : State) (d a b : Slot) (f : W64 → W64 → Bool) : Out :=
  s.compute [.dg d, .gs a 2, .gs b 2] fun _ r => .slot d (boolWord (f (r.p 1) (r.p 2)))

/-! INTA (R68). -/
/-- ADD (R68). -/
def execAdd (d a b : Slot) (s : State) : Out :=
  s.alu2 d a b fun a b => a + b
/-- SUB (R68). -/
def execSub (d a b : Slot) (s : State) : Out :=
  s.alu2 d a b fun a b => a - b
/-- MULLO (R68). -/
def execMullo (d a b : Slot) (s : State) : Out :=
  s.alu2 d a b fun a b => a * b
/-- MULHI.i32 (R68). -/
def execMulhiI32 (d a b : Slot) (s : State) : Out :=
  s.alu2 d a b fun a b => mulHiS a b
/-- MULHI.n32 (R68). -/
def execMulhiN32 (d a b : Slot) (s : State) : Out :=
  s.alu2 d a b fun a b => mulHiU a b
/-- MIN.i32 (R68). -/
def execMinI32 (d a b : Slot) (s : State) : Out :=
  s.alu2 d a b fun a b => if b.toInt < a.toInt then b else a
/-- MIN.n32 (R68). -/
def execMinN32 (d a b : Slot) (s : State) : Out :=
  s.alu2 d a b fun a b => if b.toNat < a.toNat then b else a
/-- MAX.i32 (R68). -/
def execMaxI32 (d a b : Slot) (s : State) : Out :=
  s.alu2 d a b fun a b => if a.toInt < b.toInt then b else a
/-- MAX.n32 (R68). -/
def execMaxN32 (d a b : Slot) (s : State) : Out :=
  s.alu2 d a b fun a b => if a.toNat < b.toNat then b else a
/-- AND (R68). -/
def execAnd (d a b : Slot) (s : State) : Out :=
  s.alu2 d a b fun a b => a &&& b
/-- OR (R68). -/
def execOr (d a b : Slot) (s : State) : Out :=
  s.alu2 d a b fun a b => a ||| b
/-- XOR (R68). -/
def execXor (d a b : Slot) (s : State) : Out :=
  s.alu2 d a b fun a b => a ^^^ b
/-- SHL (R68). -/
def execShl (d a b : Slot) (s : State) : Out :=
  s.alu2 d a b fun a b => a <<< sh5 b
/-- SHR (R68). -/
def execShr (d a b : Slot) (s : State) : Out :=
  s.alu2 d a b fun a b => a >>> sh5 b
/-- SRA (R68). -/
def execSra (d a b : Slot) (s : State) : Out :=
  s.alu2 d a b fun a b => a.sshiftRight (sh5 b)
/-- ROL (R68). -/
def execRol (d a b : Slot) (s : State) : Out :=
  s.alu2 d a b fun a b => rolWord a (sh5 b)

/-! INTB (R69). -/
/-- ROR (R69). -/
def execRor (d a b : Slot) (s : State) : Out :=
  s.alu2 d a b fun a b => rorWord a (sh5 b)
/-- ABS (R69). -/
def execAbs (d a : Slot) (s : State) : Out :=
  s.alu1 d a fun a => wrap32 a.toInt.natAbs
/-- CLZ (R69). -/
def execClz (d a : Slot) (s : State) : Out :=
  s.alu1 d a fun a => w32 (clzGo a 32)
/-- CTZ (R69). -/
def execCtz (d a : Slot) (s : State) : Out :=
  s.alu1 d a fun a => w32 (ctzGo a 32)
/-- POPC (R69). -/
def execPopc (d a : Slot) (s : State) : Out :=
  s.alu1 d a fun a => w32 (popCount a)
/-- BREV (R69). -/
def execBrev (d a : Slot) (s : State) : Out :=
  s.alu1 d a fun a => bitReverse a
/-- BSWAP (R69). -/
def execBswap (d a : Slot) (s : State) : Out :=
  s.alu1 d a fun a => byteSwap a
/-- ANDN (R69). -/
def execAndn (d a b : Slot) (s : State) : Out :=
  s.alu2 d a b fun a b => a &&& ~~~b
/-- MAD (R69). -/
def execMad (d a b : Slot) (s : State) : Out :=
  s.alu3 d a b fun d a b => a * b + d
/-- SEL (R69). -/
def execSel (d a b : Slot) (s : State) : Out :=
  s.alu3 d a b fun d a b => if d ≠ 0 then a else b
/-- SEQ (R69). -/
def execSeq (d a b : Slot) (s : State) : Out :=
  s.alu2 d a b fun a b => boolWord (decide (a = b))
/-- SNE (R69). -/
def execSne (d a b : Slot) (s : State) : Out :=
  s.alu2 d a b fun a b => boolWord (decide (a ≠ b))
/-- SLT.i32 (R69). -/
def execSltI32 (d a b : Slot) (s : State) : Out :=
  s.alu2 d a b fun a b => boolWord (decide (a.toInt < b.toInt))
/-- SLT.n32 (R69). -/
def execSltN32 (d a b : Slot) (s : State) : Out :=
  s.alu2 d a b fun a b => boolWord (decide (a.toNat < b.toNat))
/-- SLE.i32 (R69). -/
def execSleI32 (d a b : Slot) (s : State) : Out :=
  s.alu2 d a b fun a b => boolWord (decide (a.toInt ≤ b.toInt))
/-- SLE.n32 (R69). -/
def execSleN32 (d a b : Slot) (s : State) : Out :=
  s.alu2 d a b fun a b => boolWord (decide (a.toNat ≤ b.toNat))

/-! INT64 (R70). -/
/-- ADD.i64 (R70). -/
def execAddI64 (d a b : Slot) (s : State) : Out :=
  s.alu64 d a b fun a b => a + b
/-- SUB.i64 (R70). -/
def execSubI64 (d a b : Slot) (s : State) : Out :=
  s.alu64 d a b fun a b => a - b
/-- MULLO.i64 (R70). -/
def execMulloI64 (d a b : Slot) (s : State) : Out :=
  s.alu64 d a b fun a b => a * b
/-- MULW.i32 (R70). -/
def execMulwI32 (d a b : Slot) (s : State) : Out :=
  s.compute [.dgs d 2, .g a, .g b] fun _ r => .pair d (wrap64 ((r.x 1).toInt * (r.x 2).toInt))
/-- MULW.n32 (R70). -/
def execMulwN32 (d a b : Slot) (s : State) : Out :=
  s.compute [.dgs d 2, .g a, .g b] fun _ r => .pair d (w64 ((r.x 1).toNat * (r.x 2).toNat))
/-- MIN.i64 (R70). -/
def execMinI64 (d a b : Slot) (s : State) : Out :=
  s.alu64 d a b fun a b => if b.toInt < a.toInt then b else a
/-- MIN.n64 (R70). -/
def execMinN64 (d a b : Slot) (s : State) : Out :=
  s.alu64 d a b fun a b => if b.toNat < a.toNat then b else a
/-- MAX.i64 (R70). -/
def execMaxI64 (d a b : Slot) (s : State) : Out :=
  s.alu64 d a b fun a b => if a.toInt < b.toInt then b else a
/-- MAX.n64 (R70). -/
def execMaxN64 (d a b : Slot) (s : State) : Out :=
  s.alu64 d a b fun a b => if a.toNat < b.toNat then b else a
/-- SHL.i64 (R70). -/
def execShlI64 (d a b : Slot) (s : State) : Out :=
  s.alu64s d a b fun a b => a <<< sh6 b
/-- SHR.i64 (R70). -/
def execShrI64 (d a b : Slot) (s : State) : Out :=
  s.alu64s d a b fun a b => a >>> sh6 b
/-- SRA.i64 (R70). -/
def execSraI64 (d a b : Slot) (s : State) : Out :=
  s.alu64s d a b fun a b => a.sshiftRight (sh6 b)
/-- SEQ.i64 (R70). -/
def execSeqI64 (d a b : Slot) (s : State) : Out :=
  s.cmp64 d a b fun a b => decide (a = b)
/-- SLT.i64 (R70). -/
def execSltI64 (d a b : Slot) (s : State) : Out :=
  s.cmp64 d a b fun a b => decide (a.toInt < b.toInt)
/-- SLT.n64 (R70). -/
def execSltN64 (d a b : Slot) (s : State) : Out :=
  s.cmp64 d a b fun a b => decide (a.toNat < b.toNat)
/-- ADDX (R70). -/
def execAddx (d a b : Slot) (s : State) : Out :=
  s.alu64s d a b fun a b => a + b.signExtend 64

/-! Immediates, shifts and fields (R71 to R74). -/
/-- ADDI (R71). -/
def execAddi (d a : Slot) (imm : BitVec 11) (s : State) : Out :=
  s.alu1 d a fun a => a + immS imm
/-- ANDI (R71). -/
def execAndi (d a : Slot) (imm : BitVec 11) (s : State) : Out :=
  s.alu1 d a fun a => a &&& immZ imm
/-- ORI (R71). -/
def execOri (d a : Slot) (imm : BitVec 11) (s : State) : Out :=
  s.alu1 d a fun a => a ||| immZ imm
/-- XORI (R71). -/
def execXori (d a : Slot) (imm : BitVec 11) (s : State) : Out :=
  s.alu1 d a fun a => a ^^^ immZ imm
/-- SLTI.i32 (R71). -/
def execSltiI32 (d a : Slot) (imm : BitVec 11) (s : State) : Out :=
  s.alu1 d a fun a => boolWord (decide (a.toInt < (immS imm).toInt))
/-- SLTI.n32 (R71). -/
def execSltiN32 (d a : Slot) (imm : BitVec 11) (s : State) : Out :=
  s.alu1 d a fun a => boolWord (decide (a.toNat < (immS imm).toNat))
/-- ADDI.i64 (R71). -/
def execAddiI64 (d a : Slot) (imm : BitVec 11) (s : State) : Out :=
  s.compute [.dgs d 2, .gs a 2] fun _ r => .pair d (r.p 1 + imm.signExtend 64)
/-- SHLI (R72). -/
def execShli (d a : Slot) (n : BitVec 5) (s : State) : Out :=
  s.alu1 d a fun a => a <<< n.toNat
/-- SHRI (R72). -/
def execShri (d a : Slot) (n : BitVec 5) (s : State) : Out :=
  s.alu1 d a fun a => a >>> n.toNat
/-- SRAI (R72). -/
def execSrai (d a : Slot) (n : BitVec 5) (s : State) : Out :=
  s.alu1 d a fun a => a.sshiftRight n.toNat
/-- RORI (R72). -/
def execRori (d a : Slot) (n : BitVec 5) (s : State) : Out :=
  s.alu1 d a fun a => rorWord a n.toNat
/-- BFX (R73). -/
def execBfx (d a : Slot) (sx : Bool) (pos len1 : BitVec 5) (s : State) : Out :=
  s.alu1 d a fun a => bitField sx pos.toNat (len1.toNat + 1) a
/-- BFI (R73). -/
def execBfi (d a : Slot) (pos len1 : BitVec 5) (s : State) : Out :=
  s.compute [.rwg d, .g a] fun _ r => .slot d (insertField pos.toNat (len1.toNat + 1) (r.x 0) (r.x 1))
/-- LUI (R74). -/
def execLui (d : Slot) (imm : BitVec 18) (s : State) : Out :=
  s.compute [.dg d] fun _ _ => .slot d (imm.zeroExtend 32 <<< 14)
/-- LOI (R74). -/
def execLoi (d : Slot) (imm : BitVec 14) (s : State) : Out :=
  s.compute [.rwg d] fun _ r => .slot d ((r.x 0 &&& 0xFFFFC000#32) ||| imm.zeroExtend 32)

/-! Integer dot products (R84). -/
/-- IDP4 (R84). -/
def execIdp4 (d a b : Slot) (sat sa sb : Bool) (s : State) : Out :=
  s.computeC [.rwg d, .g a, .g b] fun _ r => .slot d (dotProduct 8 sat sa sb (r.x 0) (r.x 1) (r.x 2))
/-- IDP8 (R84). -/
def execIdp8 (d a b : Slot) (sat sa sb : Bool) (s : State) : Out :=
  s.computeC [.rwg d, .g a, .g b] fun _ r => .slot d (dotProduct 4 sat sa sb (r.x 0) (r.x 1) (r.x 2))

end Sys2Proof.Machine
end

