-- ==== Sys2Proof/Machine/Transcend.lean ====
section
/-! DEFINITION. The special functions of R79 and the attenuation of R107: RoundFloat of the exact mathematical value.
A value that is not exact is enclosed between two fixed-point bounds; both are rounded, and the working precision grows
until they agree. -/

namespace Sys2Proof.Machine

/-- Floor of the square root, bit by bit: `r` is a root of the bits above, `k` bits are left. -/
def isqrtGo (n : Nat) : Nat → Nat → Nat
  | 0, r => r
  | k + 1, r => let t := r + 2 ^ k
                isqrtGo n k (if t * t ≤ n then t else r)
/-- Floor of the square root. -/
def isqrt (n : Nat) : Nat := isqrtGo n (Nat.log2 n / 2 + 1) 0

/-- Sum of a series whose terms fall, in units of 2^-p, with at most `k` terms: `next i t` is the term after `t`. -/
def series (next : Nat → Int → Int) : Nat → Nat → Int → Int → Int
  | 0, _, _, acc => acc
  | k + 1, i, t, acc => if t == 0 then acc else series next k (i + 1) (next i t) (acc + t)
/-- The terms of an odd power series x/1 - x^3/3 + …: with running power `pw`, divided by `dd` at each step; `sgn`
alternates the signs. -/
def oddSeries (alt : Bool) (dd : Nat) : Nat → Nat → Int → Int → Int
  | 0, _, _, acc => acc
  | k + 1, i, pw, acc =>
    if pw == 0 then acc
    else oddSeries alt dd k (i + 1) (pw / (dd : Int))
      (if alt && i % 2 == 1 then acc - pw / (2 * i + 1 : Nat) else acc + pw / (2 * i + 1 : Nat))
/-- arctan (1/n) in units of 2^-p. -/
def atanInv (n p : Nat) : Int := oddSeries true (n * n) (p + 8) 0 ((2 ^ p : Nat) / (n : Int)) 0
/-- π in units of 2^-p, by Machin's formula, with 20 guard bits. -/
def piFix (p : Nat) : Int := (16 * atanInv 5 (p + 20) - 4 * atanInv 239 (p + 20)) / (2 ^ 20 : Nat)
/-- ln 2 in units of 2^-p: twice the series of artanh (1/3), with 20 guard bits. -/
def ln2Fix (p : Nat) : Int := 2 * oddSeries false 9 (p + 28) 0 ((2 ^ (p + 20) : Nat) / (3 : Int)) 0 / (2 ^ 20 : Nat)
/-- e^x for 0 ≤ x < 1, in units of 2^-p. -/
def expFix (p : Nat) (x : Int) : Int := series (fun i t => t * x / (2 ^ p : Nat) / (i + 1 : Nat)) (p + 8) 0 (2 ^ p : Nat) 0
/-- sin x for |x| < 1, in units of 2^-p. -/
def sinFix (p : Nat) (x : Int) : Int :=
  let y := x * x / (2 ^ p : Nat)
  series (fun i t => -(t * y / (2 ^ p : Nat) / ((2 * i + 2) * (2 * i + 3) : Nat))) (p + 8) 0 x 0
/-- cos x for |x| < 1, in units of 2^-p. -/
def cosFix (p : Nat) (x : Int) : Int :=
  let y := x * x / (2 ^ p : Nat)
  series (fun i t => -(t * y / (2 ^ p : Nat) / ((2 * i + 1) * (2 * i + 2) : Nat))) (p + 8) 0 (2 ^ p : Nat) 0
/-- artanh z for 0 ≤ z ≤ 1/3 in units of 2^-p: z + z^3/3 + …. -/
def atanhGo (p : Nat) (y : Int) : Nat → Nat → Int → Int → Int
  | 0, _, _, acc => acc
  | k + 1, i, t, acc =>
    if t == 0 then acc else atanhGo p y k (i + 1) (t * y / (2 ^ p : Nat)) (acc + t / (2 * i + 1 : Nat))
/-- ln m for 1 ≤ m < 2, m = n / 2^b, in units of 2^-p. -/
def lnFix (p n b : Nat) : Int :=
  let z : Int := ((n - 2 ^ b) * 2 ^ p : Nat) / (n + 2 ^ b : Nat)
  2 * atanhGo p (z * z / (2 ^ p : Nat)) (p + 8) 0 z 0

/-- The working precisions. -/
def precisions : List Nat := [96, 160, 288, 544, 1056, 2080]
/-- The bound, in units of the working precision, on the error of each of the evaluations above. -/
def fixErr : Nat := 2 ^ 16
/-- Rounds a value that is not exact and lies within fixErr units of x × 2^e, if both bounds round alike. -/
def roundNear (mode : RMode) (x e : Int) : Option (Fl × Nat) :=
  let lo := x - fixErr
  let hi := x + fixErr
  if lo ≤ 0 ∧ 0 ≤ hi then none
  else
    let r := fun (v : Int) =>
      if v < 0 then roundFloat parF32 mode false true ((-v).toNat - 1) e true
      else roundFloat parF32 mode false false v.toNat e true
    if r lo = r hi then some (r lo) else none
/-- The first precision at which the bounds agree. -/
def ziv (mode : RMode) (f : Nat → Int × Int) : List Nat → Fl × Nat
  | [] => (flNX, 0)
  | p :: ps =>
    let x := f p
    match roundNear mode x.1 x.2 with
    | some r => r
    | none => ziv mode f ps

/-- The fixed-point value of m × 2^e in units of 2^-p, floor. -/
def toFix (p m : Nat) (e : Int) : Int :=
  if 0 ≤ e + p then (m * 2 ^ (e + p).toNat : Nat) else ((m / 2 ^ (-(e + p)).toNat : Nat) : Int)

/-- 1 / a of R79 for a finite nonzero operand. -/
def rcpRound (mode : RMode) (s : Bool) (m : Nat) (e : Int) : Fl × Nat :=
  let k := Nat.log2 m + 40
  roundFloat parF32 mode false s (2 ^ k / m) (-(e + k)) (2 ^ k % m != 0)
/-- √a for a positive operand. -/
def sqrtRound (mode : RMode) (m : Nat) (e : Int) : Fl × Nat :=
  let k : Nat := 80 + (if (e - 80) % 2 == 0 then 0 else 1)
  let n := m * 2 ^ k
  let r := isqrt n
  roundFloat parF32 mode false false r ((e - k) / 2) (r * r != n)
/-- 1 / √a for a positive operand: the square root of 2^j / a. -/
def rsqRound (mode : RMode) (m : Nat) (e : Int) : Fl × Nat :=
  let j : Nat := 2 * (Nat.log2 m + 60) + (if e % 2 == 0 then 0 else 1)
  let n := 2 ^ j / m
  let r := isqrt n
  roundFloat parF32 mode false false r (-((e + j) / 2)) (r * r * m != 2 ^ j)
/-- e^(x) × c × 2^d for an exact x = ±m × 2^e that is not zero, by splitting off multiples of ln 2; the exponent base is
2 when `two`. -/
def expParts (two s : Bool) (m : Nat) (e : Int) (p : Nat) : Int × Int :=
  let w := p + 40
  let x := toFix w m e
  let x := if s then -x else x
  let l : Int := if two then ((2 ^ w : Nat) : Int) else ln2Fix w
  let i := x / l
  let f := x - i * l
  let f := if two then f * ln2Fix w / (2 ^ w : Nat) else f
  (expFix w f / (2 ^ 40 : Nat), i)
/-- 2^a for a finite nonzero operand. -/
def ex2Round (mode : RMode) (s : Bool) (m : Nat) (e : Int) : Fl × Nat :=
  let big := decide (10 ≤ e + Nat.log2 m)
  if big then
    if s then roundFloat parF32 mode false false 1 (-1000) true else roundFloat parF32 mode false false 1 1000
  else
    let isInt := decide (0 ≤ e) || m % 2 ^ (-e).toNat == 0
    if isInt then
      let n : Int := (if s then -1 else 1) * (if 0 ≤ e then (m * 2 ^ e.toNat : Nat) else (m / 2 ^ (-e).toNat : Nat))
      roundFloat parF32 mode false false 1 n
    else if e + Nat.log2 m < -60 then
      if s then roundFloat parF32 mode false false (2 ^ 59 - 1) (-59) true
      else roundFloat parF32 mode false false (2 ^ 59) (-59) true
    else ziv mode (fun p => let r := expParts true s m e p; (r.1, r.2 - p)) precisions
/-- log2 a for a positive operand. -/
def lg2Round (mode : RMode) (m : Nat) (e : Int) : Fl × Nat :=
  let b := Nat.log2 m
  let k := e + b
  if m == 2 ^ b then roundFloat parF32 mode false (decide (k < 0)) k.natAbs 0
  else ziv mode (fun p => let w := p + 40
                          ((k * (2 ^ w : Nat) + lnFix w m b * (2 ^ w : Nat) / ln2Fix w) / (2 ^ 40 : Nat), -(p : Int))) precisions
/-- sin a or cos a for a finite nonzero operand, with exact argument reduction. -/
def sinCosRound (isCos : Bool) (mode : RMode) (s : Bool) (m : Nat) (e : Int) : Fl × Nat :=
  if e + Nat.log2 m < -30 then
    if isCos then roundFloat parF32 mode false false (2 ^ 58 - 1) (-58) true
    else roundFloat parF32 mode false s (m * 2 ^ 50 - 1) (e - 50) true
  else
    ziv mode (fun p =>
      let w := p + 40
      let x := toFix w m e
      let far := piFix (w + 160)
      let k := (2 * x * (2 ^ 160 : Nat) + far / 2) / far
      let r := x - k * far / (2 ^ 161 : Nat)
      let q := ((k % 4).toNat + (if isCos then 1 else 0)) % 4
      let v := if q % 2 == 0 then sinFix w r else cosFix w r
      let v := if 2 ≤ q then -v else v
      let v := if s && !isCos then -v else v
      (v / (2 ^ 40 : Nat), -(p : Int))) precisions

/-- The special functions of FOPS (R79). -/
inductive SpFn | rcp | rsq | sqrt | ex2 | lg2 | sin | cos deriving DecidableEq, Repr
/-- A special function of R79 on an FP32 pattern. -/
def spFn (f : SpFn) (mode : RMode) (a : Nat) : Fl × Nat :=
  let one := 0x3F800000
  match decodeF parF32 a with
  | .nan b => ((if b then flNV else 0), parF32.nanBits)
  | .inf s => match f with
    | .rcp => (0, parF32.pattern s 0)
    | .rsq => if s then (flNV, parF32.nanBits) else (0, 0)
    | .sqrt => if s then (flNV, parF32.nanBits) else (0, parF32.infBits false)
    | .ex2 => if s then (0, 0) else (0, parF32.infBits false)
    | .lg2 => if s then (flNV, parF32.nanBits) else (0, parF32.infBits false)
    | .sin | .cos => (flNV, parF32.nanBits)
  | .fin s m e =>
    if m == 0 then match f with
      | .rcp | .rsq => (flDZ, parF32.infBits s)
      | .sqrt | .sin => (0, a)
      | .ex2 | .cos => (0, one)
      | .lg2 => (flDZ, parF32.infBits true)
    else match f with
      | .rcp => rcpRound mode s m e
      | .rsq => if s then (flNV, parF32.nanBits) else rsqRound mode m e
      | .sqrt => if s then (flNV, parF32.nanBits) else sqrtRound mode m e
      | .ex2 => ex2Round mode s m e
      | .lg2 => if s then (flNV, parF32.nanBits) else lg2Round mode m e
      | .sin => sinCosRound false mode s m e
      | .cos => sinCosRound true mode s m e

/-- x × e^(-τ) for finite nonzero x and τ, rounded once (R107). -/
def attRound (mode : RMode) (sx : Bool) (mx : Nat) (ex : Int) (st : Bool) (mt : Nat) (et : Int) : Fl × Nat :=
  let neg := !st
  let lim := decide (11 ≤ et + Nat.log2 mt)
  if lim then
    if neg then roundFloat parF32 mode false sx 1 (-1000) true else roundFloat parF32 mode false sx 1 1000
  else if et + Nat.log2 mt < -60 then
    if neg then roundFloat parF32 mode false sx (mx * 2 ^ 55 - 1) (ex - 55) true
    else roundFloat parF32 mode false sx (mx * 2 ^ 55) (ex - 55) true
  else ziv mode (fun p =>
    let r := expParts false neg mt et (p + 30)
    ((if sx then -1 else 1) * (r.1 * (mx : Int)) / (2 ^ 30 : Nat), r.2 + ex - p)) precisions
/-- Sample k of WATT (R107): the special cases in their order, then the exact product rounded once. -/
def watt (mode : RMode) (x t : Nat) : Fl × Nat :=
  let vx := decodeF parF32 x
  let vt := decodeF parF32 t
  if vx.isNaN || vt.isNaN then ((if vx.isSNaN || vt.isSNaN then flNV else 0), parF32.nanBits)
  else match vt with
    | .nan _ => (0, parF32.nanBits)
    | .inf st =>
      if !st then (if vx.isInf then (flNV, parF32.nanBits) else (0, parF32.pattern vx.sign 0))
      else if vx.isZero then (flNV, parF32.nanBits) else (0, parF32.infBits vx.sign)
    | .fin st mt et => match vx with
      | .nan _ => (0, parF32.nanBits)
      | .inf _ => (0, x)
      | .fin sx mx ex =>
        if mx == 0 then (0, x)
        else if mt == 0 then roundFloat parF32 mode false sx mx ex
        else attRound mode sx mx ex st mt et

end Sys2Proof.Machine
end

