-- ==== Sys2Proof/Machine/Fp.lean ====
section
/-! DEFINITION. Floating-point scalar instructions, packed pairs and conversions: majors 0x10 to 0x15 and 0x17 to 0x19
(R67, R75 to R83, R85, R86). -/

namespace Sys2Proof.Machine

/-- The format parameters of the type bit (R75). -/
def typePar : FType → FPar
  | .f32 => parF32
  | .fx19 => parFX19
/-- The effect of writing a rounded result to one slot. -/
def Eff.fp (d : Slot) (r : Fl × Nat) : Eff := .slot d (w32 r.2) r.1
/-- A word as an operand of a format. -/
def opnd (f : FPar) (x : W32) : FV := decodeF f x.toNat
/-- A zero addend, for the operations that have none. -/
def noAddend : FV := .fin false 0 0

/-- An instruction `g[d] := f g[a] g[b]` of FP32 values (R75, R76). -/
def State.fp2 (s : State) (d a b : Slot) (f : RMode → W32 → W32 → Fl × Nat) : Out :=
  s.computeC [.dg d, .g a, .g b] fun t r => .fp d (f t.dyn (r.x 1) (r.x 2))
/-- An instruction `g[d] := f g[a]` of an FP32 value. -/
def State.fp1 (s : State) (d a : Slot) (f : RMode → W32 → Fl × Nat) : Out :=
  s.computeC [.dg d, .g a] fun t r => .fp d (f t.dyn (r.x 1))
/-- FArith on one register (R75). -/
def State.farith (s : State) (op : FOp) (d a b : Slot) (ty : FType) (rm : Rm) : Out :=
  s.computeC [.dg d, .g a, .g b] fun t r =>
    .fp d (fArith op (opnd (typePar ty) (r.x 1)) (opnd (typePar ty) (r.x 2)) noAddend (typePar ty) (t.mode rm))

/-- FADD (R75). -/
def execFadd (d a b : Slot) (ty : FType) (rm : Rm) (s : State) : Out := s.farith .add d a b ty rm
/-- FSUB (R75). -/
def execFsub (d a b : Slot) (ty : FType) (rm : Rm) (s : State) : Out := s.farith .sub d a b ty rm
/-- FMUL (R75). -/
def execFmul (d a b : Slot) (ty : FType) (rm : Rm) (s : State) : Out := s.farith .mul d a b ty rm
/-- FFMA (R75): the addend is d. -/
def execFfma (d a b : Slot) (ty : FType) (rm : Rm) (s : State) : Out :=
  s.computeC [.rwg d, .g a, .g b] fun t r =>
    let f := typePar ty
    .fp d (fArith .fma (opnd f (r.x 1)) (opnd f (r.x 2)) (opnd f (r.x 0)) f (t.mode rm))

/-- FMIN (R76). -/
def execFmin (d a b : Slot) (s : State) : Out := s.fp2 d a b fun _ a b => fMinMax parF32 false a.toNat b.toNat
/-- FMAX (R76). -/
def execFmax (d a b : Slot) (s : State) : Out := s.fp2 d a b fun _ a b => fMinMax parF32 true a.toNat b.toNat
/-- A sign change that gives the canonical NaN for a NaN (R77). -/
def signed32 (a : W32) (f : W32) : Fl × Nat :=
  if (opnd parF32 a).isNaN then (0, parF32.nanBits) else (0, f.toNat)
/-- FNEG (R77). -/
def execFneg (d a : Slot) (s : State) : Out := s.fp1 d a fun _ a => signed32 a (a ^^^ 0x80000000#32)
/-- FABS (R77). -/
def execFabs (d a : Slot) (s : State) : Out := s.fp1 d a fun _ a => signed32 a (a &&& 0x7FFFFFFF#32)
/-- FCPS (R77). -/
def execFcps (d a b : Slot) (s : State) : Out :=
  s.fp2 d a b fun _ a b => signed32 a ((a &&& 0x7FFFFFFF#32) ||| (b &&& 0x80000000#32))

/-- The FP32 compares of R78. -/
inductive FCmp | eq | lt | le | un deriving DecidableEq, Repr
/-- An FP32 compare (R78): the flags and 0 or 1. -/
def fCompare (c : FCmp) (a b : W32) : Fl × Nat :=
  let x := opnd parF32 a
  let y := opnd parF32 b
  let nan := x.isNaN || y.isNaN
  let snan := x.isSNaN || y.isSNaN
  let bit := fun (p : Bool) => if p then 1 else 0
  match c with
  | .eq => ((if snan then flNV else 0), bit (!nan && cmpFV x y == .eq))
  | .lt => ((if nan then flNV else 0), bit (!nan && cmpFV x y == .lt))
  | .le => ((if nan then flNV else 0), bit (!nan && cmpFV x y != .gt))
  | .un => ((if snan then flNV else 0), bit nan)
/-- FSEQ (R78). -/
def execFseq (d a b : Slot) (s : State) : Out := s.fp2 d a b fun _ => fCompare .eq
/-- FSLT (R78). -/
def execFslt (d a b : Slot) (s : State) : Out := s.fp2 d a b fun _ => fCompare .lt
/-- FSLE (R78). -/
def execFsle (d a b : Slot) (s : State) : Out := s.fp2 d a b fun _ => fCompare .le
/-- FSUN (R78). -/
def execFsun (d a b : Slot) (s : State) : Out := s.fp2 d a b fun _ => fCompare .un

/-- FRCP (R79). -/
def execFrcp (d a : Slot) (s : State) : Out := s.fp1 d a fun m a => spFn .rcp m a.toNat
/-- FRSQ (R79). -/
def execFrsq (d a : Slot) (s : State) : Out := s.fp1 d a fun m a => spFn .rsq m a.toNat
/-- FSQRT (R79). -/
def execFsqrt (d a : Slot) (s : State) : Out := s.fp1 d a fun m a => spFn .sqrt m a.toNat
/-- FEX2 (R79). -/
def execFex2 (d a : Slot) (s : State) : Out := s.fp1 d a fun m a => spFn .ex2 m a.toNat
/-- FLG2 (R79). -/
def execFlg2 (d a : Slot) (s : State) : Out := s.fp1 d a fun m a => spFn .lg2 m a.toNat
/-- FSIN (R79). -/
def execFsin (d a : Slot) (s : State) : Out := s.fp1 d a fun m a => spFn .sin m a.toNat
/-- FCOS (R79). -/
def execFcos (d a : Slot) (s : State) : Out := s.fp1 d a fun m a => spFn .cos m a.toNat

/-! Packed pairs (R81 to R83). -/

/-- Half k of a word (R81). -/
def half (x : W32) (k : Nat) : Nat := x.toNat / 65536 ^ k % 65536
/-- Two 16-bit results packed (R81): flags ORed. -/
def packHalves (r0 r1 : Fl × Nat) : Fl × Nat := (r0.1 ||| r1.1, r1.2 * 65536 + r0.2)
/-- A packed operation of two operands (R81). -/
def State.packed (s : State) (op : FOp) (f : FPar) (d a b : Slot) : Out :=
  s.fp2 d a b fun m a b =>
    let e := fun k => fArith op (decodeF f (half a k)) (decodeF f (half b k)) noAddend f m
    packHalves (e 0) (e 1)
/-- A packed multiply-add (R81): the addend is d. -/
def State.packedFma (s : State) (f : FPar) (d a b : Slot) : Out :=
  s.computeC [.rwg d, .g a, .g b] fun t r =>
    let e := fun k => fArith .fma (decodeF f (half (r.x 1) k)) (decodeF f (half (r.x 2) k))
      (decodeF f (half (r.x 0) k)) f t.dyn
    .fp d (packHalves (e 0) (e 1))
/-- A packed minimum or maximum (R81). -/
def State.packedMinMax (s : State) (isMax : Bool) (f : FPar) (d a b : Slot) : Out :=
  s.fp2 d a b fun _ a b =>
    packHalves (fMinMax f isMax (half a 0) (half b 0)) (fMinMax f isMax (half a 1) (half b 1))

/-- HADD.bf16 (R81). -/
def execHaddBf16 (d a b : Slot) (s : State) : Out := s.packed .add parBF16 d a b
/-- HSUB.bf16 (R81). -/
def execHsubBf16 (d a b : Slot) (s : State) : Out := s.packed .sub parBF16 d a b
/-- HMUL.bf16 (R81). -/
def execHmulBf16 (d a b : Slot) (s : State) : Out := s.packed .mul parBF16 d a b
/-- HFMA.bf16 (R81). -/
def execHfmaBf16 (d a b : Slot) (s : State) : Out := s.packedFma parBF16 d a b
/-- HMIN.bf16 (R81). -/
def execHminBf16 (d a b : Slot) (s : State) : Out := s.packedMinMax false parBF16 d a b
/-- HMAX.bf16 (R81). -/
def execHmaxBf16 (d a b : Slot) (s : State) : Out := s.packedMinMax true parBF16 d a b
/-- HADD.f16 (R81). -/
def execHaddF16 (d a b : Slot) (s : State) : Out := s.packed .add parF16 d a b
/-- HSUB.f16 (R81). -/
def execHsubF16 (d a b : Slot) (s : State) : Out := s.packed .sub parF16 d a b
/-- HMUL.f16 (R81). -/
def execHmulF16 (d a b : Slot) (s : State) : Out := s.packed .mul parF16 d a b
/-- HFMA.f16 (R81). -/
def execHfmaF16 (d a b : Slot) (s : State) : Out := s.packedFma parF16 d a b
/-- HMIN.f16 (R81). -/
def execHminF16 (d a b : Slot) (s : State) : Out := s.packedMinMax false parF16 d a b
/-- HMAX.f16 (R81). -/
def execHmaxF16 (d a b : Slot) (s : State) : Out := s.packedMinMax true parF16 d a b
/-- BDOT2 (R83): two BF16 products and the FP32 addend, one rounding. -/
def execBdot2 (d a b : Slot) (s : State) : Out :=
  s.computeC [.rwg d, .g a, .g b] fun t r =>
    let p := fun k => mulFV (decodeF parBF16 (half (r.x 1) k)) (decodeF parBF16 (half (r.x 2) k))
    .fp d (sumRound parF32 t.dyn [p 0, p 1, some (opnd parF32 (r.x 0))])
/-- PK2 into a format (R82). -/
def State.pack2 (s : State) (f : FPar) (d a b : Slot) : Out :=
  s.fp2 d a b fun m a b => packHalves (convF f false m (opnd parF32 a)) (convF f false m (opnd parF32 b))
/-- PK2.bf16 (R82). -/
def execPk2Bf16 (d a b : Slot) (s : State) : Out := s.pack2 parBF16 d a b
/-- PK2.f16 (R82). -/
def execPk2F16 (d a b : Slot) (s : State) : Out := s.pack2 parF16 d a b

/-! Conversions (R85, R86). -/

/-- A conversion between plain formats (R85). -/
def State.convert (s : State) (d a : Slot) (tf sf : PFmt) (sat : Bool) (rm : Rm) : Out :=
  s.computeC [.dg d, .g a] fun t r => .fp d (convP tf sat (t.mode rm) (decodeP sf (r.x 1).toNat))
/-- CVT (R85). -/
def execCvt (d a : Slot) (tf sf : PFmt) (rm : Rm) (s : State) : Out := s.convert d a tf sf false rm
/-- CVTS (R85). -/
def execCvts (d a : Slot) (tf sf : PFmt) (rm : Rm) (s : State) : Out := s.convert d a tf sf true rm
/-- The parameters of a format that CVTI names (R86). -/
def ffmtPar : FFmt → FPar
  | .f32 => parF32
  | .fx19 => parFX19
  | .bf16 => parBF16
  | .f16 => parF16
/-- The element width of a format that CVTI names (R86). -/
def ffmtWidth : FFmt → Nat
  | .f32 | .fx19 => 32
  | .bf16 | .f16 => 16
/-- How many slots an integer kind takes (R86). -/
def slotsOf : IntKind → Nat
  | .i32 | .n32 => 1
  | .i64 | .n64 => 2
/-- The integer a kind reads (R86). -/
def intValue (k : IntKind) (x : W32) (p : W64) : Int :=
  match k with
  | .i32 => x.toInt
  | .n32 => x.toNat
  | .i64 => p.toInt
  | .n64 => p.toNat
/-- The range of an integer kind (R24). -/
def intRange : IntKind → Int × Int
  | .i32 => (-2147483648, 2147483647)
  | .n32 => (0, 4294967295)
  | .i64 => (-9223372036854775808, 9223372036854775807)
  | .n64 => (0, 18446744073709551615)
/-- CVTI integer to float (R86). -/
def execCvtiItof (d a : Slot) (int : IntKind) (fmt : FFmt) (sat : Bool) (rm : Rm) (s : State) : Out :=
  s.computeC [.dg d, .gs a (slotsOf int)] fun t r =>
    .fp d (convF (ffmtPar fmt) sat (t.mode rm) (.ofInt (intValue int (r.x 1) (r.p 1))))
/-- CVTI float to integer (R86). -/
def execCvtiFtoi (d a : Slot) (int : IntKind) (fmt : FFmt) (rm : Rm) (s : State) : Out :=
  s.computeC [.dgs d (slotsOf int), .g a] fun t r =>
    let q := roundInt (t.mode rm) (intRange int).1 (intRange int).2
      (decodeF (ffmtPar fmt) ((r.x 1).toNat % 2 ^ ffmtWidth fmt))
    let v := wrap64 q.2
    { g := putWords d ([lo32 v, hi32 v].take (slotsOf int)), fl := q.1 }

end Sys2Proof.Machine
end

