-- ==== Sys2Proof/Machine/Packet.lean ====
section
/-! DEFINITION. Spectral packet instructions: major 0x20 (R104 to R112), and the results that land later. -/

namespace Sys2Proof.Machine

/-- A result lands in its destination (R101, R188, R227). -/
def State.land (s : State) (d : Dest) : State :=
  match d with
  | .g k r v => s.updThread k fun t => t.writeReg r v
  | .w k r v => s.updThread k fun t => t.writeW r v
  | .q ck tid q id v =>
    s.updQueues { ck := ck, tid := tid, addr := false } fun qs =>
      qs.set q ((qs.getD q []).map fun e => if e = .reserved id then .full v else e)
/-- A unit's result is written and its scoreboard entries are freed; a result that is not under way changes nothing. -/
def State.landRet (s : State) (k : RetKind) (id : Nat) : State :=
  match s.rets.find? fun r => r.id == id && decide (r.kind = k) with
  | none => s
  | some r => (r.dests.foldl State.land s).setRets (s.rets.filter fun q => q.id != id)
/-- The step of a unit that names a result by its number. -/
def State.resultStep (s : State) (k : RetKind) : Out :=
  match s.op with
  | .nat id => .next (s.landRet k id)
  | _ => .next s
/-- PACKET_RESULT (R112): a multi-clock packet instruction writes its destination. -/
def execPacketResult (s : State) : Out := s.resultStep .packet

/-- Applies an operation to each of the four samples; the flags are ORed (R104, R106). -/
def mapSamples (f : Nat → Fl × Nat) : Fl × W128 :=
  let r := (List.range 4).map f
  (r.foldl (fun acc x => acc ||| x.1) 0, packetOf (r.map fun x => w32 x.2))
/-- Sample k of a packet as an FP32 operand. -/
def smp (v : W128) (k : Nat) : FV := opnd parF32 (sample v k)
/-- FArith on every sample (R106). -/
def State.packetArith (s : State) (op : FOp) (d a b : Slot) : Out :=
  s.computeC [.dw d, .w a, .w b] fun t r =>
    let q := mapSamples fun k => fArith op (smp (r.pk 1) k) (smp (r.pk 2) k) noAddend parF32 t.dyn
    .wr d q.2 q.1
/-- The minimum or maximum of every sample (R106). -/
def State.packetMinMax (s : State) (isMax : Bool) (d a b : Slot) : Out :=
  s.computeC [.dw d, .w a, .w b] fun _ r =>
    let q := mapSamples fun k => fMinMax parF32 isMax (sample (r.pk 1) k).toNat (sample (r.pk 2) k).toNat
    .wr d q.2 q.1
/-- WADD (R106). -/
def execWadd (d a b : Slot) (s : State) : Out := s.packetArith .add d a b
/-- WSUB (R106). -/
def execWsub (d a b : Slot) (s : State) : Out := s.packetArith .sub d a b
/-- WMUL (R106). -/
def execWmul (d a b : Slot) (s : State) : Out := s.packetArith .mul d a b
/-- WFMA (R106): the addend is d. -/
def execWfma (d a b : Slot) (s : State) : Out :=
  s.computeC [.rww d, .w a, .w b] fun t r =>
    let q := mapSamples fun k => fArith .fma (smp (r.pk 1) k) (smp (r.pk 2) k) (smp (r.pk 0) k) parF32 t.dyn
    .wr d q.2 q.1
/-- WMIN (R106). -/
def execWmin (d a b : Slot) (s : State) : Out := s.packetMinMax false d a b
/-- WMAX (R106). -/
def execWmax (d a b : Slot) (s : State) : Out := s.packetMinMax true d a b
/-- WATT (R107, R112): two clocks of the packet ALU. -/
def execWatt (d a b : Slot) (s : State) : Out :=
  s.computeC [.dw d, .w a, .w b] fun t r =>
    let q := mapSamples fun k => watt t.dyn (sample (r.pk 1) k).toNat (sample (r.pk 2) k).toNat
    { Eff.wr d q.2 q.1 with late := some .packet }
/-- WMOV (R106). -/
def execWmov (d a : Slot) (s : State) : Out := s.computeC [.dw d, .w a] fun _ r => .wr d (r.pk 1)
/-- WHSUM (R108). -/
def execWhsum (d a : Slot) (s : State) : Out :=
  s.computeC [.dg d, .w a] fun t r =>
    .fp d (sumRound parF32 t.dyn ((List.range 4).map fun k => some (smp (r.pk 1) k)))
/-- WDOT (R108). -/
def execWdot (d a b : Slot) (s : State) : Out :=
  s.computeC [.dg d, .w a, .w b] fun t r =>
    .fp d (sumRound parF32 t.dyn ((List.range 4).map fun k => mulFV (smp (r.pk 1) k) (smp (r.pk 2) k)))
/-- WSPLAT (R109). -/
def execWsplat (d a : Slot) (s : State) : Out :=
  s.computeC [.dw d, .g a] fun _ r => .wr d (packet (r.x 1) (r.x 1) (r.x 1) (r.x 1))
/-- WEXT (R109). -/
def execWext (d a : Slot) (k : BitVec 2) (s : State) : Out :=
  s.computeC [.dg d, .w a] fun _ r => .slot d (sample (r.pk 1) k.toNat)
/-- WINS (R109). -/
def execWins (d a : Slot) (k : BitVec 2) (s : State) : Out :=
  s.computeC [.rww d, .g a] fun _ r => .wr d (packetOf ((samples (r.pk 0)).set k.toNat (r.x 1)))
/-- WPACK (R110). -/
def execWpack (d a : Slot) (s : State) : Out :=
  s.computeC [.dgs d 2, .w a] fun t r =>
    let c := (List.range 4).map fun k => convF parBF16 false t.dyn (smp (r.pk 1) k)
    let v := fun k => (c.getD k (0, 0)).2
    { g := putWords d [w32 (v 1 * 65536 + v 0), w32 (v 3 * 65536 + v 2)], fl := c.foldl (fun acc x => acc ||| x.1) 0 }
/-- The Mueller product (R111): component i of the result at every wavelength. -/
def mueller (mode : RMode) (m : Nat → Nat → Nat → FV) (a : List W128) : Fl × List W128 :=
  let rows := (List.range 4).map fun i => mapSamples fun k =>
    sumRound parF32 mode ((List.range 4).map fun j => mulFV (m i j k) (smp (a.getD j 0) k))
  (rows.foldl (fun acc x => acc ||| x.1) 0, rows.map (·.2))
/-- The effect of writing four spectral registers when the packet ALU has finished. -/
def Eff.quad (d : Slot) (q : Fl × List W128) : Eff :=
  { w := (List.range 4).map fun i => (d.toNat + i, q.2.getD i 0), fl := q.1, late := some .packet }
/-- WMUELLER.g (R111): one matrix for the four wavelengths, from sixteen slots. -/
def execWmuellerG (d a b : Slot) (s : State) : Out :=
  s.computeC [.dw d 4, .w a 4, .gs b 16] fun t r =>
    .quad d (mueller t.dyn (fun i j _ => opnd parF32 ((r.l 2).getD (4 * i + j) 0)) (r.pks 1))
/-- WMUELLER.w (R111): one matrix per wavelength, from sixteen spectral registers. -/
def execWmuellerW (d a b : Slot) (s : State) : Out :=
  s.computeC [.dw d 4, .w a 4, .w b 16] fun t r =>
    .quad d (mueller t.dyn (fun i j k => smp ((r.pks 2).getD (4 * i + j) 0) k) (r.pks 1))

end Sys2Proof.Machine
end

