-- ==== Sys2Proof/Machine/Serve.lean ====
section
/-! DEFINITION. What the slices do: the read-modify-writes (R235 to R238), the queued requests of a core in their order (R184, R227), and
write-back and pins on top of them (R182, R216, R217). -/

namespace Sys2Proof.Machine

/-! What a slice or a scratchpad does to its unit (R235 to R238). -/

/-- The unit of an operation, in bytes (R235). -/
def atomSize : AtomOp → Nat
  | .cas | .facc => 8
  | .add | .minI | .minN | .maxI | .maxN | .and | .or | .xor | .xchg | .inc | .fadd | .bf16x2 | .ld | .st => 4
/-- FArith(ADD) of two words as values of a format, in RNE, flags discarded (R235, R237). -/
def addRne (f : FPar) (x y : Nat) : Nat := (fArith .add (decodeF f x) (decodeF f y) noAddend f .rne).2
/-- Both halves of a word added in BF16 (R237). -/
def addBf16x2 (m x : W32) : W32 := w32 (addRne parBF16 (half m 1) (half x 1) * 65536 + addRne parBF16 (half m 0) (half x 0))
/-- FArith of two FP32 words in RNE, flags discarded (R238). -/
def f32Rne (op : FOp) (x y : W32) : W32 := w32 (fArith op (opnd parF32 x) (opnd parF32 y) noAddend parF32 .rne).2
/-- The sum and compensation after FACC adds x (R238). -/
def faccStep (s c x : W32) : W64 :=
  let t := f32Rne .add s x
  let big := decide ((x &&& 0x7FFFFFFF#32).toNat ≤ (s &&& 0x7FFFFFFF#32).toNat)
  let e := if big then f32Rne .add (f32Rne .sub s t) x else f32Rne .add (f32Rne .sub x t) s
  join64 t (f32Rne .add c e)
/-- The new contents of the unit (R235 to R238): m is the old unit, x the operand, y the new value of CAS. -/
def atomNew (op : AtomOp) (m x y : W64) : W64 :=
  let w := fun (v : W32) => (v.zeroExtend 64 : W64)
  let a := lo32 m
  let b := lo32 x
  match op with
  | .add => w (a + b)
  | .minI => w (if b.toInt < a.toInt then b else a)
  | .minN => w (if b.toNat < a.toNat then b else a)
  | .maxI => w (if a.toInt < b.toInt then b else a)
  | .maxN => w (if a.toNat < b.toNat then b else a)
  | .and => w (a &&& b)
  | .or => w (a ||| b)
  | .xor => w (a ^^^ b)
  | .xchg => w b
  | .cas => if m = x then y else m
  | .inc => w (if b.toNat ≤ a.toNat then 0 else a + 1)
  | .fadd => w (f32Rne .add a b)
  | .bf16x2 => w (addBf16x2 a b)
  | .facc => faccStep a (hi32 m) b
  | .ld => m
  | .st => w b
/-- Whether an operation writes its unit. -/
def atomWrites : AtomOp → Bool
  | .ld => false
  | .add | .minI | .minN | .maxI | .maxN | .and | .or | .xor | .xchg | .cas | .inc | .fadd | .bf16x2 | .facc | .st => true
/-- The words an operation returns to its destination (R235): the old value, none for ST. -/
def atomReturns (op : AtomOp) (old : W64) : List W32 :=
  match op with
  | .st => []
  | .cas => [lo32 old, hi32 old]
  | .add | .minI | .minN | .maxI | .maxN | .and | .or | .xor | .xchg | .inc | .fadd | .bf16x2 | .facc | .ld => [lo32 old]
/-- The read-modify-write of one request at the slice (R184, R235): the old unit, and the state after. -/
def State.performAtom (s : State) (pa : Nat) (op : AtomOp) (x y : W64) : W64 × State :=
  let n := atomSize op
  let old := w64 (s.readNat pa n)
  (old, if atomWrites op then s.writePhys pa ((natLe n (atomNew op old x y).toNat).map some) else s)

/-! Queued requests (R184, R227). -/

/-- The words a load writes (R230). -/
def loadWords (n : Nat) (signed : Bool) (b : Bytes) : List W32 :=
  if n < 4 then
    let x := leNat (b.take n)
    [wrap32 (if signed then signedOf (8 * n) x else x)]
  else (wordsOf (b ++ List.replicate 16 0)).take (n / 4)
/-- The registers or the queue entry that the words of a result go to (R188, R227). -/
def ReqDest.dests (k : ThKey) (ws : List W32) : ReqDest → List Dest
  | .none => []
  | .regs rs => (rs.zip ws).filterMap fun p => p.1.map fun r => .g k r p.2
  | .wreg r => [.w k r (packetOf ws)]
  | .queue q id => [.q k.ck k.tid q id (ws.headD 0)]
/-- The words of a request's result go back to every member it serves (R227, R237). -/
def State.answerReq (s : State) (q : Req) (ws : List W32) : State :=
  let ds := q.dest.dests q.key ws ++ q.merged.flatMap fun m => m.2.dests m.1 ws
  if ds.isEmpty then s else s.setRets (s.rets ++ [{ id := q.id, kind := .load, dests := ds }])
/-- Whether a slice of this device has still to perform a request. -/
def Req.queued (q : Req) : Bool :=
  match q.op with
  | .fillGen _ _ | .fillRo _ _ | .atom _ _ _ _ _ | .write _ => q.vdev.isNone
  | .probe | .remote _ => false
/-- The group of a request's thread, which owns the line it fills (R138). -/
def State.ownerOf (s : State) (k : ThKey) : GrpKey :=
  { ck := k.ck, gid := match s.thread? k with | some t => t.gid | none => 0 }
/-- A load miss is served: its sectors enter L1, and its bytes go back (R180, R181, R227). -/
def State.serveFill (s : State) (q : Req) (core : Nat) (tag : PathTag) (n : Nat) (signed : Bool) : State :=
  let owner := match tag with
    | .gen => some (s.ownerOf q.key)
    | .ro => none
  let s1 := s.l1Fill q.key.ck.ctx core none q.pa n tag false owner none
  s1.answerReq q (loadWords n signed ((s1.l1Read core none q.pa n tag).getD []))
/-- A read-modify-write at the slice: the core's own copy of the line goes there first (R181), the old value goes back; an acquire at a
scope wider than cohort drops the core's clean lines (R182, R207), and a narrow scope pins the line (R216, R235). -/
def State.serveAtom (s : State) (q : Req) (core : Nat) (op : AtomOp) (x y : W64) (acq pins : Bool) : State :=
  let r := (s.l1Expel q.key.ck.ctx core none (q.pa / 64)).performAtom q.pa op x y
  let s1 := if acq && !pins then r.2.dropClean core else r.2
  let s2 := if pins then s1.addPin (pinOf q.key.ck core none (q.pa / 64)) else s1
  s2.answerReq q (atomReturns op r.1)
/-- A slice performs a queued request, unless another core's pin refuses it (R184, R217). -/
def State.serve (s : State) (q : Req) (core : Nat) : State :=
  if s.refused (.core core) (q.pa / 64) then s
  else
    let s1 := s.setReqs (s.reqs.filter fun r => r.id != q.id)
    match q.op with
    | .fillGen n sg => s1.serveFill q core .gen n sg
    | .fillRo n sg => s1.serveFill q core .ro n sg
    | .atom op x y acq pins => s1.serveAtom q core op x y acq pins
    | .write data => s1.writePhys q.pa data
    | .probe => s
    | .remote _ => s
/-- Whether a request is a core's own to a slice. -/
def Req.ofCore (q : Req) (core : Nat) : Bool := q.queued && decide (q.src = .core core)
/-- The requests that a core has sent to the slices that a predicate names are performed, in their order: what they evict follows
them (R184). Those of DET launches keep their place in the launch's schedule (R380). -/
def State.drainSlices (s : State) (core : Nat) (p : Nat → Bool) : State :=
  let pass := fun (s : State) => (s.reqs.filter fun q => q.ofCore core && p (sliceOf q.pa) && !s.isDet q.key.ck).foldl (fun s q => s.serve q core) s
  pass (pass s)
/-- An access that a core performs at once follows the requests it has sent to the same slice (R184). -/
def State.drainFor (s : State) (core pa : Nat) : State := s.drainSlices core fun x => x == sliceOf pa
/-- Every dirty byte of a core reaches its slice, behind the core's earlier requests, and its pins stay (R182, R184). -/
def State.flushDirty (s : State) (ctx core : Nat) : State :=
  let s0 := s.drainSlices core fun _ => true
  ((s0.dirtyLines core).foldl (fun s l => s.writeNow ctx core l) s0).updCore core fun c => { c with l1 := c.l1.map L1Line.clean }
/-- Writes back every dirty byte of a core and ends its pins (R182, R217). -/
def State.writeBackAll (s : State) (ctx core : Nat) : State :=
  (s.flushDirty ctx core).endPins fun p => p.core == core && p.dev.isNone
/-- Makes room for one more pin in the L1 set of a line: with 8 pinned, the oldest of the set is written back and unpinned (R216).
The atomics that a core has sent and that will pin a line of the set count with its pins. -/
def State.roomForPin (s : State) (ctx core : Nat) (vdev : Option Nat) (line : Nat) : State :=
  let mine := s.pins.filter fun p => p.core == core && p.dev.isNone && setOf p.line == setOf line
  let coming := s.reqs.filter fun q => q.ofCore core && setOf (q.pa / 64) == setOf line && (match q.op with
    | .atom _ _ _ _ p => p
    | .fillGen _ _ | .fillRo _ _ | .write _ | .probe | .remote _ => false)
  if mine.any fun p => p.line == line && decide (p.vdev = vdev) then s
  else match mine with
    | [] => s
    | old :: _ =>
      if mine.length + coming.length < 8 then s
      else
        let s0 := s.drainFor core (64 * old.line)
        let s1 := match (s0.core core).line? old.vdev old.line .gen with
          | none => s0
          | some l => if l.isDirty then (s0.writeNow ctx core l).updCore core fun c =>
              { c with l1 := c.l1.map fun (x : L1Line) => if x.is old.vdev old.line .gen then x.clean else x } else s0
        s1.endPins fun p => decide (p = old)
/-- A narrow-scope release or FENCE pins every dirty line of the core (R216). -/
def State.pinDirty (s : State) (ck : CohKey) (core : Nat) : State :=
  (s.dirtyLines core).foldl (fun s l => (s.roomForPin ck.ctx core l.vdev l.line).addPin (pinOf ck core l.vdev l.line)) s
/-- The requests of a source that a slice may accept next: for each slice, the first that the source sent to it. -/
def firstPerSlice : List Nat → List Req → List Req
  | _, [] => []
  | seen, q :: rest =>
    if seen.contains (sliceOf q.pa) then firstPerSlice seen rest
    else q :: firstPerSlice (sliceOf q.pa :: seen) rest

end Sys2Proof.Machine
end

