-- ==== Sys2Proof/Machine/Mem.lean ====
section
/-! DEFINITION. Loads and stores: majors 0x28 to 0x30 (R177, R178, R202, R225 to R233), the checks every memory
instruction makes before any access is performed, and the waits for pins and for other devices. -/

namespace Sys2Proof.Machine

/-! Requests in flight. -/

/-- Whether a request is made for a thread. -/
def Req.for (r : Req) (k : ThKey) : Bool := decide (r.key = k) || r.merged.any fun p => decide (p.1 = k)
/-- Whether a thread has a request that no slice has performed yet (R227, R241). A request to another device is not one: the
instruction that makes it waits for its answer, so only its own can be open. -/
def State.inFlight (s : State) (k : ThKey) : Bool := s.reqs.any fun r => r.for k && r.vdev.isNone && decide (r.op ≠ .probe)
/-- Whether a thread waits for an acquire that has not been performed (R207). -/
def State.acquiring (s : State) (k : ThKey) : Bool :=
  s.reqs.any fun r => r.for k && (match r.op with
    | .atom _ _ _ acq _ => acq
    | .fillGen _ _ | .fillRo _ _ | .write _ | .probe | .remote _ => false)
/-- Whether a thread has a request to a line that no slice has performed yet (R204). -/
def State.lineWaits (s : State) (k : ThKey) (vdev : Option Nat) (line : Nat) : Bool :=
  s.reqs.any fun r => r.for k && decide (r.vdev = vdev) && r.pa / 64 == line && decide (r.op ≠ .probe)
/-- Whether a queued request sets a pin when it is performed (R216). -/
def Req.pins (r : Req) : Bool :=
  match r.op with
  | .atom _ _ _ _ p => p
  | .fillGen _ _ | .fillRo _ _ | .write _ | .probe | .remote _ => false
/-- Whether a request of a core must follow one of another core that is already queued for the same line, since one of
them sets a pin (R184, R217). -/
def State.lineBusy (s : State) (core line : Nat) (pins : Bool) : Bool :=
  s.reqs.any fun r => decide (r.src ≠ .core core) && decide (r.vdev = none) && r.pa / 64 == line &&
    decide (r.op ≠ .probe) && (pins || r.pins)
/-- Whether requests of DET launches that a core has sent to the slice of an address wait for their turn there (R184, R380). -/
def State.scheduled (s : State) (core pa : Nat) : Bool :=
  s.reqs.any fun r => r.ofCore core && sliceOf r.pa == sliceOf pa && s.isDet r.key.ck
/-- Whether pinning the dirty lines of a core must wait for a request of another core that is queued for one of them
(R184, R217). -/
def State.pinBlocked (s : State) (core : Nat) : Bool :=
  (s.dirtyLines core).any fun l => l.vdev.isNone && s.lineBusy core l.line true
/-- The name under which an issuing entry waits: its lowest member. -/
def Iss.head (i : Iss) : ThKey := i.thKey (i.run.members.headD 0)
/-- The entry's access waits (R217): for a pinned line, whose request is refused and re-sent, or for a walk (R197). -/
def State.waitPinned (s : State) (i : Iss) (line : Option Nat) : State :=
  (match line with
    | some l => s.probeFor (.core i.core) i.head l
    | none => s).stall i []
/-- Drops the probes of an entry's members. -/
def State.clearProbes (s : State) (i : Iss) : State := s.dropProbes i.head

/-! Effective addresses (R226). -/

/-- Whether an address falls in the apertures of the copy engines (R264). -/
def inAperture (c : Context) (va : W64) : Bool :=
  decide (c.desc.apbase.toNat ≤ va.toNat) && decide (va.toNat < c.desc.apbase.toNat + 131072)
/-- The checks of an effective address before translation: R42, and the apertures, at the rank of address PROTECTION
(R264). -/
def checkAddr (c : Context) (va : W64) (size : Nat) (wr : Bool) : Except Trap W64 :=
  if inAperture c va then .error (.addrProt va wr)
  else match addrTrap va size wr with
    | some t => .error t
    | none => .ok va
/-- The effective address of a global access: pair and offset, wrapping, then its checks. -/
def globalAddr (c : Context) (p : W64) (off : BitVec 8) (size : Nat) (wr : Bool) : Except Trap W64 :=
  checkAddr c (p + off.signExtend 64 * w64 size) size wr
/-- The effective address of a thread-private access (R178, R226). -/
def privateAddr (c : Context) (t : Thread) (x : W32) (off : BitVec 8) (size : Nat) (wr : Bool) : Except Trap W64 :=
  let o : Int := x.toNat + off.toInt * size
  let idx := t.key.ck.coh % c.desc.privcohs * 2048 + t.key.tid
  let va := c.desc.privbase + w64 (idx * 2 ^ c.desc.privshift) + wrap64 o
  if o < 0 ∨ (2 ^ c.desc.privshift : Nat) < o + size then .error (.addrProt va wr)
  else checkAddr c va size wr
/-- The offset of a scratch access (R177, R226). -/
def scratchAddr (limit : Nat) (x : W32) (off : BitVec 8) (size : Nat) (wr : Bool) : Except Trap Nat :=
  let o : Int := x.toNat + off.toInt * size
  if o < 0 ∨ (limit : Int) < o + size then .error (.addrProt (wrap64 o) wr)
  else if o.toNat % size ≠ 0 then .error (.misaligned (wrap64 o) wr)
  else .ok o.toNat

/-! The plan of a global access. -/

/-- A member's access after its checks: where it goes. -/
structure Acc where
  t : Thread
  r : Reads
  va : W64
  vdev : Option Nat
  pa : Nat
  checked : Bool
/-- A member's access as the race check sees it. -/
def Acc.chkAcc (a : Acc) (wr : Bool) (n : Nat) (chk : Chk) : ChkAcc :=
  { tid := a.t.key.tid, va := a.va, pa := a.pa, n := n, wr := wr, chk := chk }
/-- The members' traps of one phase of the checks. -/
def errorsOf {α : Type} (l : List (Thread × Except Trap α)) : List (Nat × Option Trap) :=
  l.map fun p => (p.1.key.tid, match p.2 with | .error t => some t | .ok _ => none)
/-- Translates the members' addresses in membership order. -/
def State.xlateAll (s : State) (c : Context) (i : Iss) (k : AccK) (ms : List (Thread × Reads × W64)) :
    List ((Thread × Reads × W64) × XR) × State :=
  ms.foldl (fun acc m =>
    let r := acc.2.xlate c (physDie i.core) (.core i.core) m.2.2 k m.1.who
    (acc.1 ++ [(m, r.1)], r.2)) ([], s)
/-- Whether an access can be served by the core's own L1 without a request (R180). -/
def State.servedByL1 (s : State) (i : Iss) (tag : PathTag) (n : Nat) (a : Acc) : Bool :=
  (s.l1Read i.core a.vdev a.pa n tag).isSome && !s.lineWaits a.t.key a.vdev (a.pa / 64)
/-- PAGE_FAULT with POISON for a member that would read a poisoned sector (R343). -/
def State.poisonTrap (s : State) (n : Nat) (k : AccK) (a : Acc) (served : Bool) : Option Trap :=
  if a.vdev.isNone && !served && k ≠ .store && s.poisoned a.pa n then
    some (Trap.xlate a.va k .pageFault false false true)
  else none

/-- Whether an access matches watchpoint n (R358). -/
def Debug.watches (d : Debug) (n : Nat) (va size : Nat) (rd wr : Bool) : Bool :=
  let cfg := d.wpcfg.getD n 0
  let log := (cfg.extractLsb' 8 5).toNat
  let base := (d.wpaddr.getD n 0).toNat / 2 ^ log * 2 ^ log
  d.dbgctl.getLsbD 31 && d.dbgctl.getLsbD (16 + n) && decide (2 ≤ log) && decide (log ≤ 30) &&
    ((cfg.getLsbD 0 && rd) || (cfg.getLsbD 1 && wr)) && decide (va < base + 2 ^ log) && decide (base < va + size)
/-- The watchpoints an access matches. -/
def Debug.hits (d : Debug) (va size : Nat) (rd wr : Bool) : List Nat :=
  (List.range 4).filter fun n => d.watches n va size rd wr
/-- BREAKPOINT of a watchpoint (R358, R336). -/
def Trap.watch (va : W64) (wr : Bool) : Trap :=
  { rank := 7, cause := .breakpoint, write := wr, addr := va, info1 := 0x80 }
/-- The watchpoint trap of the members' accesses, WPHIT set (R358): none where nothing matches or the entry issues
without matching (R359). -/
def State.watchpoint (s : State) (c : Context) (i : Iss) (l : List (Thread × W64)) (n : Nat) (rd wr : Bool) :
    Option State :=
  if i.run.noMatch then none
  else
    let hit := l.filterMap fun p =>
      let h := c.dbg.hits p.2.toNat n rd wr
      if h.isEmpty then none else some (p, h)
    match hit with
    | [] => none
    | (p, _) :: _ =>
      let bits := (hit.flatMap (·.2)).foldl (fun (acc : W32) n => acc ||| (1#32 <<< (16 + n))) 0
      some ((s.updContext c.id fun c => { c with dbg := { c.dbg with dbgstat := c.dbg.dbgstat ||| bits } }).takeTrap i
        p.1.key.tid (.watch p.2 wr))

/-- Everything a global memory instruction checks before any access is performed, in the ranks of R45: addresses,
translation and poison, dead pops (R189), then the waits for earlier requests and pins (R217), the race check (R219, R221) and
the watchpoints (R358). An access that is checked at once follows the core's earlier requests to its slice (R184). `go` performs the
accesses. -/
def State.globalAccess (s : State) (i : Iss) (k : AccK) (tag : PathTag) (n : Nat) (pins : Bool)
    (ms : List (Thread × Reads)) (addr : Context → Thread → Reads → Except Trap W64)
    (go : Context → State → List Acc → Out) : Out :=
  match s.context? i.ck.ctx with
  | none => .next s
  | some c =>
    let as := (ms.filter fun m => !m.2.unread.contains 1).map fun m => (m, addr c m.1 m.2)
    match firstTrap (errorsOf (as.map fun p => (p.1.1, p.2))) with
    | some (t, x) => .next (s.takeTrap i t x)
    | none =>
      let vas := as.filterMap fun p => match p.2 with | .ok va => some (p.1.1, p.1.2, va) | .error _ => none
      let xs := s.xlateAll c i k vas
      let acc := xs.1.filterMap fun p => match p.2 with
        | .ok v pa ch => some ({ t := p.1.1, r := p.1.2.1, va := p.1.2.2, vdev := v, pa := pa, checked := ch } : Acc)
        | .trap _ => none
        | .pinned _ => none
      if xs.1.any fun p => decide (p.2 = .pinned none) then .next (xs.2.stall i [])
      else
        let early := acc.filter fun a => a.checked && a.vdev.isNone && decide (tag = .gen) && k ≠ .atomic
        let s1 := early.foldl (fun s a => s.drainFor i.core a.pa) xs.2
        let served := fun (a : Acc) => k == .load && s1.servedByL1 i tag n a
        let bad := xs.1.map fun p => (p.1.1.key.tid, match p.2 with
          | .trap t => some t
          | .pinned _ => none
          | .ok v pa ch =>
            let a : Acc := { t := p.1.1, r := p.1.2.1, va := p.1.2.2, vdev := v, pa := pa, checked := ch }
            s1.poisonTrap n k a (served a))
        match firstTrap bad with
        | some (t, x) => .next (s.takeTrap i t x)
        | none => match firstTrap (deadTraps ms) with
        | some (t, x) => .next (s.takeTrap i t x)
        | none =>
          match xs.1.findSome? fun p => match p.2 with
              | .pinned l => l
              | .ok _ _ _ => none
              | .trap _ => none with
          | some l => .next (s1.waitPinned i (some l))
          | none =>
            -- a store to an unchecked page and a hit make no request
            let asks := fun (a : Acc) => a.vdev.isNone && !(served a && !a.checked) && !(k == .store && !a.checked)
            if acc.any fun a => s1.acquiring a.t.key || (k ≠ .load && a.vdev.isNone && s1.lineWaits a.t.key none (a.pa / 64)) ||
                (asks a && s1.lineBusy i.core (a.pa / 64) pins) || (early.any fun a => s1.scheduled i.core a.pa) then
              .next (s1.stall i [])
            else match acc.find? fun a => asks a && s1.refused (.core i.core) (a.pa / 64) with
            | some a => .next (s1.waitPinned i (some (a.pa / 64)))
            | none =>
              let race := acc.map fun a => (a.t.key.tid,
                if a.checked && a.vdev.isNone && decide (tag = .gen) && k ≠ .atomic then
                  let ca := a.chkAcc k.writes n (s1.chkOf a.t)
                  (s1.raceOf i.ck.ctx ca).map fun w => Trap.race ca w.1 w.2
                else none)
              match firstTrap race with
              | some (t, x) => .next (s1.takeTrap i t x)
              | none => go c (s1.clearProbes i) acc

/-- The watchpoints rank last (R358): they are matched once nothing else stops the instruction. -/
def State.watched (s : State) (c : Context) (i : Iss) (l : List (Thread × W64)) (n : Nat) (rd wr : Bool) (go : State → Out) : Out :=
  match s.watchpoint c i l n rd wr with
  | some s' => .next s'
  | none => go s

/-! Accesses on other devices (R384, R385). -/

/-- The trap that an owner's refusal of an access is (R200, R221, R343, R385). -/
def remoteTrap (a : Acc) (k : AccK) (n : Nat) (chk : Chk) : RemErr → Trap
  | .malformed => Trap.xlate a.va k .pageFault true false false
  | .poison => Trap.xlate a.va k .pageFault false false true
  | .race e w => Trap.race (a.chkAcc k.writes n chk) w e
/-- The accesses of one owner, in membership order. -/
def ofOwner (l : List (Acc × RemAcc)) (v : Nat) : List (Acc × RemAcc) := l.filter fun p => decide (p.1.vdev = some v)
/-- The place of a member's access among its owner's. -/
def placeIn (l : List (Acc × RemAcc)) (a : Acc) : Nat :=
  match a.vdev with
  | some v => (ofOwner l v).findIdx fun p => decide (p.1.t.key = a.t.key)
  | none => 0
/-- One round of an instruction with the owners of its remote accesses: each is asked once, the instruction waits for every answer, and
refusals become traps; `go` continues when none refuses. -/
def State.askOwners (s : State) (i : Iss) (k : AccK) (n : Nat) (test : Bool) (l : List (Acc × RemAcc)) (go : State → Out) : Out :=
  let owners := (l.filterMap fun p => p.1.vdev).eraseDups
  let accs := fun v => (ofOwner l v).map (·.2)
  if owners.any fun v => (s.answered? i.head v test (accs v)).isNone then
    .next ((owners.foldl (fun s v => s.askFor (.core i.core) i.head v test (accs v)) s).stall i [])
  else
    let bad := l.map fun p => (p.1.t.key.tid, match p.1.vdev with
      | none => none
      | some v => match s.answered? i.head v test (accs v) with
        | some (.error j e) => if j == placeIn l p.1 then some (remoteTrap p.1 k n (s.chkOf p.1.t) e) else none
        | some (.data _) | some (.retry _) | none => none)
    match firstTrap bad with
    | some (t, x) => .next ((s.dropAnswers i.head).takeTrap i t x)
    | none => go s
/-- The bytes that the owner of a member's remote access has answered. -/
def State.answerFor (s : State) (i : Iss) (l : List (Acc × RemAcc)) (a : Acc) : Option Bytes :=
  match a.vdev with
  | none => none
  | some v => match s.answered? i.head v false ((ofOwner l v).map (·.2)) with
    | some (.data bs) => bs[placeIn l a]?
    | some (.error _ _) | some (.retry _) | none => none
/-- The remote accesses of an instruction (R225, R384, R385). Each owner performs all of its accesses together or none. Where others take part
too and the accesses have an effect, every owner tests first, so that none performs an access when another refuses (log entry 78). `mid`
is what ranks after every refusal; `go` goes on with the answers. -/
def State.remoteAccess (s : State) (i : Iss) (k : AccK) (n : Nat) (effects others : Bool) (l : List (Acc × RemAcc))
    (mid : State → (State → Out) → Out) (go : State → (Acc → Option Bytes) → Out) : Out :=
  if l.isEmpty then mid s fun s => go s fun _ => none
  else
    let done := fun (s : State) => go (s.dropAnswers i.head) (s.answerFor i l)
    if effects then
      let perform := fun (s : State) => mid s fun s => s.askOwners i k n false l done
      if others || decide (1 < (l.filterMap fun p => p.1.vdev).eraseDups.length) then s.askOwners i k n true l perform else perform s
    else s.askOwners i k n false l fun s => mid s done

/-! Loads. -/

/-- Size, sign and slots of a load kind (R230). -/
def ldShape : LdKind → Nat × Bool × Nat
  | .n8 => (1, false, 1) | .i8 => (1, true, 1) | .n16 => (2, false, 1) | .i16 => (2, true, 1)
  | .n32 => (4, false, 1) | .n64 => (8, false, 2) | .n128 => (16, false, 4)
/-- Size and slots of a store kind (R230). -/
def stShape : StKind → Nat × Nat
  | .n8 => (1, 1) | .n16 => (2, 1) | .n32 => (4, 1) | .n64 => (8, 2) | .n128 => (16, 4)
/-- Where a load of d puts its words: a spectral register or slots. -/
def loadEff (isW : Bool) (d : Slot) (ws : List W32) : Eff :=
  if isW then { w := [(d.toNat, packetOf ws)], late := some .load } else { g := putWords d ws, late := some .load }
/-- The destination of a load that a slice still has to serve (R188, R227). -/
def Thread.loadDest (t : Thread) (isW : Bool) (d : Slot) (n id : Nat) : ReqDest :=
  if isW then .wreg d.toNat
  else if t.isQueue d.toNat then .queue (d.toNat - 120) id
  else if d = 0 then .none
  else .regs ((List.range (max 1 (n / 4))).map fun j => t.regOf (d.toNat + j))
/-- A load miss is queued for its slice; its queue entry is reserved now (R188, R227). -/
def State.queueLoad (s : State) (i : Iss) (fs : List Fld) (a : Acc) (isW : Bool) (d : Slot) (n : Nat) (op : ReqOp) : State :=
  let s1 := s.moveQueues a.t fs []
  let s2 := if !isW && a.t.isQueue d.toNat then s1.reserve a.t d.toNat s1.nextId else s1
  { s2 with reqs := s2.reqs ++ [{ id := s1.nextId, src := .core i.core, key := a.t.key, merged := [], vdev := a.vdev,
                                  pa := a.pa, op := op, dest := a.t.loadDest isW d n s1.nextId, refusals := 0,
                                  refusedAt := 0, sentAt := s.clock, resp := none }],
            nextId := s1.nextId + 1 }
/-- One member's load is performed: from what L1 held before the instruction, from the slice at once on a CHECKED page, from the answer
of another device, or by a queued request (R180, R181, R222, R227). -/
def State.loadOne (s : State) (i : Iss) (fs : List Fld) (tag : PathTag) (isW : Bool) (d : Slot) (n : Nat) (signed : Bool)
    (a : Acc) (hit remote : Option Bytes) : State :=
  let gen := decide (tag = .gen)
  let s0 := if gen then s.observe i (a.pa / 64) else s
  let done := fun (s : State) (b : Bytes) => s.commit1 fs a.t (loadEff isW d (loadWords n signed b))
  let mark := fun (s : State) =>
    if a.checked && gen && a.vdev.isNone then
      s.markAccess i.ck.ctx (a.chkAcc false n (s.chkOf a.t))
    else s
  match hit with
  | some b =>
    let s1 := match (s0.core i.core).line? a.vdev (a.pa / 64) tag with
      | some l => s0.updCore i.core fun c => c.hit l
      | none => s0
    done (mark s1) b
  | none =>
    let owner := if gen then some i.run.gk else none
    let fill := fun (r : Option Bytes) => s0.l1Fill i.ck.ctx i.core a.vdev a.pa n tag a.checked owner r
    match a.vdev with
    | some _ =>
      let s1 := fill (some (remote.getD []))
      done s1 ((s1.l1Read i.core a.vdev a.pa n tag).getD [])
    | none =>
      if a.checked && gen then
        let s1 := fill none
        done (mark s1) ((s1.l1Read i.core none a.pa n tag).getD [])
      else s0.queueLoad i fs a isW d n (if gen then .fillGen n signed else .fillRo n signed)
/-- The distinct lines of an instruction's GEN loads that miss L1, for the victim tags (R138). -/
def State.missLines (s : State) (i : Iss) (n : Nat) (acc : List Acc) : List Nat :=
  ((acc.filter fun a => !s.servedByL1 i .gen n a).map fun a => a.pa / 64).eraseDups
/-- What a load asks of the owner of a remote page: the sectors of a miss, and on a CHECKED page the check of its words, which for a hit is
the read notice (R181, R222, R384, R386). -/
def State.loadAsk (s : State) (i : Iss) (tag : PathTag) (n : Nat) (a : Acc) : Option (Acc × RemAcc) :=
  let chk := if a.checked && decide (tag = .gen) then some (s.chkOf a.t, a.pa, n) else none
  if a.vdev.isNone then none
  else if s.servedByL1 i tag n a then (if chk.isSome then some (a, { pa := a.pa, op := .read 0, chk := chk }) else none)
  else let r := sectorRange a.pa n
       some (a, { pa := r.1, op := .read r.2, chk := chk })
/-- A load of global or thread-private memory (R229, R231 to R233). -/
def State.load (s : State) (st : Stream) (fs : List Fld) (tag : PathTag) (isW : Bool) (d : Slot) (n : Nat) (signed : Bool)
    (addr : Context → Thread → Reads → Except Trap W64) : Out :=
  s.operandsQ st fs fun i ms =>
    s.globalAccess i .load tag n false ms addr fun c s1 acc =>
      let l := acc.filterMap (s1.loadAsk i tag n)
      let vas := acc.map fun a => (a.t, a.va)
      s1.remoteAccess i .load n (l.any fun p => p.2.chk.isSome)
        ((s1.watchpoint c i vas n true false).isSome || acc.any fun a => a.vdev.isNone && a.checked) l
        (fun s go => s.watched c i vas n true false go) fun s2 ans =>
        let hit := fun (a : Acc) => if s2.servedByL1 i tag n a then s2.l1Read i.core a.vdev a.pa n tag else none
        let s3 := if tag = .gen then (s2.missLines i n acc).foldl (fun s l => s.countMiss i l) s2 else s2
        .next ((acc.foldl (fun s a => s.loadOne i fs tag isW d n signed a (hit a) (ans a)) s3).retire i false i.fallThrough)

/-! Stores. -/

/-- The bytes a store of words writes: all of them, or the low part of one (R230). -/
def storeBytes (n : Nat) (ws : List W32) : Bytes := (bytesOfWords ws).take n
/-- One member's store is performed: into L1, or at once at the slice on a CHECKED page (R181, R222). -/
def State.storeOne (s : State) (i : Iss) (fs : List Fld) (n : Nat) (a : Acc) (data : Bytes) : State :=
  let s0 := (s.observe i (a.pa / 64)).moveQueues a.t fs []
  if a.checked then
    match a.vdev with
    | none =>
      let s1 := s0.markAccess i.ck.ctx (a.chkAcc true n (s.chkOf a.t))
      (s1.writePhys a.pa (data.map some)).l1Update i.core none a.pa data
    | some _ => s0.l1Update i.core a.vdev a.pa data
  else s0.l1Store i.ck.ctx i.core a.vdev a.pa data
/-- What a store asks of the owner of a remote page: the write and its check on a CHECKED page; else, where the core holds nothing of
the line, whether the owner has the page (R181, R200, R222, R384). -/
def State.storeAsk (s : State) (i : Iss) (n : Nat) (data : Bytes) (a : Acc) : Option (Acc × RemAcc) :=
  match a.vdev with
  | none => none
  | some _ =>
    if a.checked then some (a, { pa := a.pa, op := .write (data.map some), chk := some (s.chkOf a.t, a.pa, n) })
    else if ((s.core i.core).line? a.vdev (a.pa / 64) .gen).isSome then none
    else some (a, { pa := a.pa, op := .read 0, chk := none })
/-- A store to global or thread-private memory (R229, R232, R233). -/
def State.store (s : State) (st : Stream) (fs : List Fld) (n : Nat) (data : Reads → Bytes)
    (addr : Context → Thread → Reads → Except Trap W64) : Out :=
  s.operandsQ st fs fun i ms =>
    s.globalAccess i .store .gen n false ms addr fun c s1 acc =>
      let l := acc.filterMap fun a => s1.storeAsk i n (data a.r) a
      let vas := acc.map fun a => (a.t, a.va)
      s1.remoteAccess i .store n (l.any fun p => p.2.chk.isSome)
        ((s1.watchpoint c i vas n false true).isSome || acc.any fun a => a.vdev.isNone && a.checked) l
        (fun s go => s.watched c i vas n false true go) fun s2 _ =>
        .next ((acc.foldl (fun s a => s.storeOne i fs n a (data a.r)) s2).retire i false i.fallThrough)

/-! Scratch. -/

/-- Writes bytes of a cohort's scratch (R177). -/
def Cohort.writeScratch (c : Cohort) (o : Nat) : Bytes → Cohort
  | [] => c
  | b :: bs => Cohort.writeScratch { c with scratch := sput 0 c.scratch o b } (o + 1) bs
/-- The checks of a scratch instruction (R177, R226), then its members with their offsets. -/
def State.scratchAccess (s : State) (st : Stream) (fs : List Fld) (addr : Nat → Reads → Except Trap Nat)
    (go : Iss → Cohort → List (Thread × Reads × Nat) → State) : Out :=
  s.operandsQ st fs fun i ms =>
    match s.cohort? i.ck with
    | none => .next s
    | some c =>
      let as := (ms.filter fun m => !m.2.unread.contains 1).map fun m => (m, addr c.scratchSize m.2)
      match firstTrap (errorsOf (as.map fun p => (p.1.1, p.2))) with
      | some (t, x) => .next (s.takeTrap i t x)
      | none => match firstTrap (deadTraps ms) with
      | some (t, x) => .next (s.takeTrap i t x)
      | none =>
        if ms.any fun m => s.acquiring m.1.key then .next (s.stall i [])
        else .next ((go i c (as.filterMap fun p => match p.2 with
          | .ok o => some (p.1.1, p.1.2, o)
          | .error _ => none)).retire i false i.fallThrough)
/-- A load from scratch (R215, R229, R231 to R233). -/
def State.loadScratch (s : State) (st : Stream) (fs : List Fld) (isW : Bool) (d : Slot) (n : Nat) (signed : Bool)
    (off : BitVec 8) : Out :=
  s.scratchAccess st fs (fun lim r => scratchAddr lim (r.x 1) off n false) fun _ c ms =>
    let v := s.seeScratch c .gen n (ms.map fun m => (m.1.key.tid, m.2.2))
    ms.foldl (fun s m => s.commit1 fs m.1 (loadEff isW d (loadWords n signed (v.1 m.1.key.tid m.2.2)))) v.2
/-- A store to scratch (R229, R231 to R233): the highest lane takes effect last (R202). -/
def State.storeScratch (s : State) (st : Stream) (fs : List Fld) (n : Nat) (data : Reads → Bytes) (off : BitVec 8) : Out :=
  s.scratchAccess st fs (fun lim r => scratchAddr lim (r.x 1) off n true) fun i _ ms =>
    ms.foldl (fun s m => (s.moveQueues m.1 fs []).updCohort i.ck fun c => (c.keep .gen).writeScratch m.2.2 (data m.2.1)) s

/-! The forms. -/

/-- LD (R229). -/
def execLd (d a : Slot) (k : LdKind) (off : BitVec 8) (s : State) : Out :=
  let h := ldShape k
  s.load .both [.dgs d h.2.2, .gs a 2] .gen false d h.1 h.2.1 fun c _ r => globalAddr c (r.p 1) off h.1 false
/-- LDRO (R229, R231). -/
def execLdro (d a : Slot) (k : LdKind) (off : BitVec 8) (s : State) : Out :=
  let h := ldShape k
  s.load .both [.dgs d h.2.2, .gs a 2] .ro false d h.1 h.2.1 fun c _ r => globalAddr c (r.p 1) off h.1 false
/-- LDP (R178, R229). -/
def execLdp (d a : Slot) (k : LdKind) (off : BitVec 8) (s : State) : Out :=
  let h := ldShape k
  s.load .both [.dgs d h.2.2, .g a] .gen false d h.1 h.2.1 fun c t r => privateAddr c t (r.x 1) off h.1 false
/-- LDS (R177, R229). -/
def execLds (d a : Slot) (k : LdKind) (off : BitVec 8) (s : State) : Out :=
  let h := ldShape k
  s.loadScratch .both [.dgs d h.2.2, .g a] false d h.1 h.2.1 off
/-- ST (R229). -/
def execSt (d a : Slot) (k : StKind) (off : BitVec 8) (s : State) : Out :=
  let h := stShape k
  s.store .both [.gs d h.2, .gs a 2] h.1 (fun r => storeBytes h.1 (r.l 0)) fun c _ r => globalAddr c (r.p 1) off h.1 true
/-- STP (R178, R229). -/
def execStp (d a : Slot) (k : StKind) (off : BitVec 8) (s : State) : Out :=
  let h := stShape k
  s.store .both [.gs d h.2, .g a] h.1 (fun r => storeBytes h.1 (r.l 0)) fun c t r => privateAddr c t (r.x 1) off h.1 true
/-- STS (R177, R229). -/
def execSts (d a : Slot) (k : StKind) (off : BitVec 8) (s : State) : Out :=
  let h := stShape k
  s.storeScratch .both [.gs d h.2, .g a] h.1 (fun r => storeBytes h.1 (r.l 0)) off
/-- LDW (R232). -/
def execLdw (d a : Slot) (off : BitVec 8) (s : State) : Out :=
  s.load .compute [.dw d, .gs a 2] .gen true d 16 false fun c _ r => globalAddr c (r.p 1) off 16 false
/-- LDWP (R232). -/
def execLdwp (d a : Slot) (off : BitVec 8) (s : State) : Out :=
  s.load .compute [.dw d, .g a] .gen true d 16 false fun c t r => privateAddr c t (r.x 1) off 16 false
/-- LDWS (R232). -/
def execLdws (d a : Slot) (off : BitVec 8) (s : State) : Out :=
  s.loadScratch .compute [.dw d, .g a] true d 16 false off
/-- STW (R232). -/
def execStw (d a : Slot) (off : BitVec 8) (s : State) : Out :=
  s.store .compute [.w d, .gs a 2] 16 (fun r => bytesOfWords (samples (r.pk 0))) fun c _ r => globalAddr c (r.p 1) off 16 true
/-- STWP (R232). -/
def execStwp (d a : Slot) (off : BitVec 8) (s : State) : Out :=
  s.store .compute [.w d, .g a] 16 (fun r => bytesOfWords (samples (r.pk 0))) fun c t r => privateAddr c t (r.x 1) off 16 true
/-- STWS (R232). -/
def execStws (d a : Slot) (off : BitVec 8) (s : State) : Out :=
  s.storeScratch .compute [.w d, .g a] 16 (fun r => bytesOfWords (samples (r.pk 0))) off
/-- LDQ (R188, R233). -/
def execLdq (d a : Slot) (off : BitVec 8) (s : State) : Out :=
  s.load .address [.dg d, .gs a 2] .gen false d 4 false fun c _ r => globalAddr c (r.p 1) off 4 false
/-- LDQS (R188, R233). -/
def execLdqs (d a : Slot) (off : BitVec 8) (s : State) : Out :=
  s.loadScratch .address [.dg d, .g a] false d 4 false off
/-- STQ (R188, R233). -/
def execStq (d a : Slot) (off : BitVec 8) (s : State) : Out :=
  s.store .address [.g d, .gs a 2] 4 (fun r => storeBytes 4 (r.l 0)) fun c _ r => globalAddr c (r.p 1) off 4 true
/-- STQS (R188, R233). -/
def execStqs (d a : Slot) (off : BitVec 8) (s : State) : Out :=
  s.storeScratch .address [.g d, .g a] 4 (fun r => storeBytes 4 (r.l 0)) off
/-- LOAD_RETURN (R227): returned data writes its destination or fills its queue entry. -/
def execLoadReturn (s : State) : Out := s.resultStep .load

end Sys2Proof.Machine
end

