-- ==== Sys2Proof/Machine/Atomics.lean ====
section
/-! DEFINITION. Atomics, FACC and fences: majors 0x31 to 0x33 (R205 to R208, R215 to R217, R234 to R241). -/

namespace Sys2Proof.Machine

/-! Order and scope. -/

/-- Whether an order makes an atomic a release (R207). -/
def isRel : MOrder → Bool | .rel | .acqrel => true | .rlx | .acq => false
/-- Whether an order makes an atomic an acquire (R207). -/
def isAcq : MOrder → Bool | .acq | .acqrel => true | .rlx | .rel => false
/-- Whether dirty bytes that cores of a context have written back to other devices are not yet written there (R384). -/
def State.unacked (s : State) (ctx : Nat) : Bool :=
  s.reqs.any fun r => r.key.ck.ctx == ctx && r.vdev.isSome && decide (16384 ≤ r.key.tid)
/-- The final answer to a request that another device register a pin, if any (R216, R384). -/
def State.pinAnswered (s : State) (key : ThKey) (vdev core line : Nat) : Option Bool :=
  (s.reqs.find? fun r => decide (r.key = key) && decide (r.vdev = some vdev) && (match r.op with
    | .remote (.pin _ c l _) => c == core && l == line
    | _ => false)).map fun r => match r.resp with
      | some (.data _) | some (.error _ _) => true
      | some (.retry _) | none => false
/-- Asks another device, once, to register a pin of one of its lines that a core holds dirty (R216, R384). -/
def State.askPin (s : State) (i : Iss) (vdev line : Nat) : State :=
  if (s.pinAnswered i.head vdev i.core line).isSome then s
  else
    let b : DataBody := .pin s.nextId i.core line i.ck
    let r : Req := { id := s.nextId, src := .core i.core, key := i.head, merged := [], vdev := some vdev, pa := 64 * line, op := .remote b,
                     dest := .none, refusals := 0, refusedAt := 0, sentAt := s.clock, resp := none }
    ({ s with reqs := s.reqs ++ [r], nextId := s.nextId + 1 } : State).sendData i.ck.ctx vdev b
/-- The dirty lines of other devices whose pins they have not registered yet (R216, R384). -/
def State.pinsToAsk (s : State) (core : Nat) : List (Nat × Nat) :=
  (s.dirtyLines core).filterMap fun l => match l.vdev with
    | some v => if s.pinsLine core l then none else some (v, l.line)
    | none => none
/-- A narrow scope pins every dirty line of the core (R216), once those that must follow a queued request can, and other devices have
registered those of theirs (R384). -/
def State.pinStep (s : State) (i : Iss) (go : State → Out) : Out :=
  let l := s.pinsToAsk i.core
  if s.pinBlocked i.core then .next (s.stall i [])
  else if l.any fun p => s.pinAnswered i.head p.1 i.core p.2 != some true then
    .next ((l.foldl (fun s p => s.askPin i p.1 p.2) s).stall i [])
  else go ((if l.isEmpty then s else s.dropAnswers i.head).pinDirty i.ck i.core)
/-- A release waits for the thread's queued requests, and at a wide scope for a write-back that another core's pin
refuses (R182, R208, R217); then it writes the core's dirty bytes back, or pins them (R216). At pod scope it also waits
until other devices have written what was written back to them (R384). -/
def State.releaseStep (s : State) (i : Iss) (sc : MScope) (go : State → Out) : Out :=
  if i.run.members.any fun t => s.inFlight (i.thKey t) then .next (s.stall i [])
  else if wideScope sc then
    match s.blockedLine i.core with
    | some l => .next (s.waitPinned i (some l))
    | none =>
      let s1 := s.writeBackAll i.ck.ctx i.core
      if sc = .pod && s1.unacked i.ck.ctx then .next (s1.stall i []) else go s1
  else s.pinStep i go

/-! Global atomics (R234 to R239). -/

/-- The operand fields of an operation: CAS reads two pairs, LD writes only, ST reads only (R235, R236). -/
def atomFields (op : AtomOp) (d a : Slot) (pairAddr : Bool) : List Fld :=
  let addr := if pairAddr then Fld.gs a 2 else .g a
  match op with
  | .cas => [.rwgs d 2, .gs (d + 2) 2, addr]
  | .ld => [.dg d, addr]
  | .st => [.g d, addr]
  | .add | .minI | .minN | .maxI | .maxN | .and | .or | .xor | .xchg | .inc | .fadd | .bf16x2 | .facc => [.rwg d, addr]
/-- The place of the address among the operand fields. -/
def atomAddr (op : AtomOp) : Nat := if op = .cas then 2 else 1
/-- The operand of an operation, and the new value of CAS, from what a member reads. -/
def atomArgs (op : AtomOp) (r : Reads) : W64 × W64 :=
  match op with
  | .cas => (r.p 0, r.p 1)
  | .add | .minI | .minN | .maxI | .maxN | .and | .or | .xor | .xchg | .inc | .fadd | .bf16x2 | .facc | .ld | .st =>
    ((r.x 0).zeroExtend 64, 0)
/-- The destination of an operation's old value. -/
def Thread.atomDest (t : Thread) (op : AtomOp) (d : Slot) (id : Nat) : ReqDest :=
  match op with
  | .st => .none
  | .cas => t.loadDest false d 8 id
  | .add | .minI | .minN | .maxI | .maxN | .and | .or | .xor | .xchg | .inc | .fadd | .bf16x2 | .facc | .ld =>
    t.loadDest false d 4 id
/-- The operand fields move their queues, and a queue named by ATOM.LD is reserved (R188). -/
def State.atomQueues (s : State) (fs : List Fld) (op : AtomOp) (d : Slot) (t : Thread) (id : Nat) : State :=
  let s1 := s.moveQueues t fs []
  if op = .ld && t.isQueue d.toNat then s1.reserve t d.toNat id else s1
/-- A member's request is queued for its slice (R184). -/
def State.queueAtom (s : State) (i : Iss) (fs : List Fld) (op : AtomOp) (d : Slot) (acq pins : Bool) (a : Acc)
    (x y : W64) (merged : List Thread) : State :=
  let id := s.nextId
  let s0 := if pins then s.roomForPin i.ck.ctx i.core none (a.pa / 64) else s
  let s1 := merged.foldl (fun s t => s.atomQueues fs op d t id) (s0.atomQueues fs op d a.t id)
  { s1 with reqs := s1.reqs ++ [{ id := id, src := .core i.core, key := a.t.key,
                                  merged := merged.map fun t => (t.key, t.atomDest op d id), vdev := none, pa := a.pa,
                                  op := .atom op x y acq pins, dest := a.t.atomDest op d id, refusals := 0,
                                  refusedAt := 0, sentAt := s.clock, resp := none }],
            nextId := id + 1 }
/-- The members of BF16X2 that name one word send one request with the merged addend (R237); every other member sends its
own. -/
def mergeAccs (op : AtomOp) : List Acc → List (Acc × W64 × W64 × List Thread)
  | [] => []
  | a :: rest =>
    let p := atomArgs op a.r
    let tail := mergeAccs op rest
    if op = .bf16x2 then
      match tail.find? fun q => decide (q.1.vdev = a.vdev) && q.1.pa == a.pa with
      | none => (a, p.1, p.2, []) :: tail
      | some _ =>
        let same := rest.filter fun b => decide (b.vdev = a.vdev) && b.pa == a.pa
        let x := same.foldl (fun acc b => addBf16x2 acc (lo32 (atomArgs op b.r).1)) (lo32 p.1)
        (a, x.zeroExtend 64, 0, same.map (·.t)) :: tail.filter fun q => !(decide (q.1.vdev = a.vdev) && q.1.pa == a.pa)
    else (a, p.1, p.2, []) :: tail
/-- An atomic on the page of another device has been answered: its old value lands, the core's own copy is gone, and a narrow scope
has pinned the line (R181, R216, R384). -/
def State.atomAnswered (s : State) (i : Iss) (fs : List Fld) (op : AtomOp) (d : Slot) (pins : Bool) (q : Acc × W64 × W64 × List Thread)
    (b : Bytes) : State :=
  let old := w64 (leNat (b.take 8))
  let line := q.1.pa / 64
  let s1 := s.l1Expel i.ck.ctx i.core q.1.vdev line
  let s2 := if pins then (s1.roomForPin i.ck.ctx i.core q.1.vdev line).addPin (pinOf i.ck i.core q.1.vdev line) else s1
  (q.1.t :: q.2.2.2).foldl (fun s t => s.commit1 fs t (match op with
    | .st => {}
    | .cas | .add | .minI | .minN | .maxI | .maxN | .and | .or | .xor | .xchg | .inc | .fadd | .bf16x2 | .facc | .ld =>
      { g := putWords d (atomReturns op old), late := some .load })) s2
/-- What an atomic asks of the owner of a remote page (R384): its operation, which pins the line at a narrow scope. -/
def atomAsk (op : AtomOp) (pins : Bool) (q : Acc × W64 × W64 × List Thread) : Option (Acc × RemAcc) :=
  q.1.vdev.map fun _ => (q.1, { pa := q.1.pa, op := .atom op q.2.1 q.2.2.1 pins, chk := none })
/-- ATOM (R234 to R239): the checks, the release, then a request of each member, or a message to the device that holds
the page, behind the core's dirty bytes of its line (R181). At pod scope it waits until other devices have written what the core wrote
back to them (R384). -/
def State.atomic (s : State) (op : AtomOp) (d a : Slot) (ord : MOrder) (sc : MScope) : Out :=
  let fs := atomFields op d a true
  let n := atomSize op
  let acq := isAcq ord
  let pins := !wideScope sc
  s.operandsQ .both fs fun i ms =>
    s.globalAccess i .atomic .gen n pins ms (fun c _ r => globalAddr c (r.p (atomAddr op)) 0 n true) fun c s1 acc =>
      let reqs := mergeAccs op acc
      let remote := reqs.filterMap (atomAsk op pins)
      let vas := acc.map fun a => (a.t, a.va)
      let watch := (s1.watchpoint c i vas n true true).isSome
      let perform := fun (s2 : State) =>
        if acq && sc = .pod && s2.unacked i.ck.ctx then .next (s2.stall i [])
        else
          let ahead := remote.foldl (fun s p => s.l1Expel i.ck.ctx i.core p.1.vdev (p.1.pa / 64)) s2
          ahead.remoteAccess i .atomic n true (watch || reqs.any fun q => q.1.vdev.isNone) remote
            (fun s go => s.watched c i vas n true true go) fun s3 ans =>
            let s4 := reqs.foldl (fun s q => match q.1.vdev with
              | none => s.queueAtom i fs op d acq pins q.1 q.2.1 q.2.2.1 q.2.2.2
              | some _ => s.atomAnswered i fs op d pins q ((ans q.1).getD [])) s3
            let s5 := if acq && !pins && !remote.isEmpty then s4.dropClean i.core else s4
            .next (s5.retire i false i.fallThrough)
      if isRel ord then s1.releaseStep i sc perform else perform s1

/-! Scratch atomics. -/

/-- One unit of scratch is read, modified and written (R234, R235). -/
def Cohort.performAtom (c : Cohort) (o : Nat) (op : AtomOp) (x y : W64) : W64 × Cohort :=
  let n := atomSize op
  let old := w64 (leNat (c.readScratch o n))
  (old, if atomWrites op then (c.keep .gen).writeScratch o (natLe n (atomNew op old x y).toNat) else c)
/-- The requests of the members at the scratchpad, those of BF16X2 merged (R237). -/
def mergeScratch (op : AtomOp) : List (Thread × Reads × Nat) → List (Nat × W64 × W64 × List Thread)
  | [] => []
  | m :: rest =>
    let p := atomArgs op m.2.1
    let tail := mergeScratch op rest
    if op = .bf16x2 then
      let same := rest.filter fun b => b.2.2 == m.2.2
      let x := same.foldl (fun acc b => addBf16x2 acc (lo32 (atomArgs op b.2.1).1)) (lo32 p.1)
      (m.2.2, x.zeroExtend 64, 0, m.1 :: same.map (·.1)) :: tail.filter fun q => q.1 != m.2.2
    else (m.2.2, p.1, p.2, [m.1]) :: tail
/-- ATOMS (R226, R234 to R239): performed at the cohort's scratchpad. -/
def State.atomicScratch (s : State) (op : AtomOp) (d a : Slot) (ord : MOrder) (sc : MScope) : Out :=
  let fs := atomFields op d a false
  s.operandsQ .both fs fun i ms =>
    match s.cohort? i.ck with
    | none => .next s
    | some c =>
      let as := (ms.filter fun m => !m.2.unread.contains (atomAddr op)).map fun m =>
        (m, scratchAddr c.scratchSize (m.2.x (atomAddr op)) 0 (atomSize op) true)
      match firstTrap (errorsOf (as.map fun p => (p.1.1, p.2))) with
      | some (t, x) => .next (s.takeTrap i t x)
      | none => match firstTrap (deadTraps ms) with
      | some (t, x) => .next (s.takeTrap i t x)
      | none =>
        if ms.any fun m => s.acquiring m.1.key then .next (s.stall i [])
        else
          let reqs := mergeScratch op (as.filterMap fun p => match p.2 with
            | .ok o => some (p.1.1, p.1.2, o)
            | .error _ => none)
          let perform := fun (s1 : State) =>
            let s2 := reqs.foldl (fun s q =>
              match s.cohort? i.ck with
              | none => s
              | some c =>
                let r := c.performAtom q.1 op q.2.1 q.2.2.1
                q.2.2.2.foldl (fun s t => s.commit1 fs t (match op with
                  | .st => {}
                  | .cas | .add | .minI | .minN | .maxI | .maxN | .and | .or | .xor | .xchg | .inc | .fadd | .bf16x2
                  | .facc | .ld => { g := putWords d (atomReturns op r.1), late := some .load }))
                  (s.updCohort i.ck fun _ => r.2)) s1
            .next (s2.retire i false i.fallThrough)
          if isRel ord then s.releaseStep i sc perform else perform s

/-! Fences (R240, R241). -/

/-- FENCE (R208, R241): the wait for earlier accesses, then write-back and invalidation, or pins. -/
def execFence (sc : MScope) (s : State) : Out :=
  s.operands .both [] fun i _ =>
    s.releaseStep i sc fun s1 =>
      let s2 := if wideScope sc then s1.dropClean i.core else s1
      .next ((s2.clearProbes i).retire i false i.fallThrough)
/-- FENCE.X (R215, R241): it writes back at every scope, sets no pin, and invalidates RO lines when RO is named (bit 1 of
the path set, R49). At thread, group or cohort scope it keeps clean GEN lines, as R241 says in words, although R214 and R215 would have a
FENCE.X that names GEN show a load what another path wrote: DEDUCED (log entry 79). -/
def execFenceX (sc : MScope) (paths : BitVec 5) (s : State) : Out :=
  s.operands .both [] fun i _ =>
    s.releaseStep i (if sc = .pod then .pod else .device) fun s1 =>
      let s2 := if wideScope sc then s1.dropClean i.core else s1
      let s3 := if paths.getLsbD 1 then s2.dropRo i.core else s2
      let s4 := s3.updCohort i.ck fun c => c.bridge i.run.members (pathsOf paths)
      .next ((s4.clearProbes i).retire i false i.fallThrough)

/-! The forms. -/

/-- ATOM.ADD (R235). -/
def execAtomAdd (d a : Slot) (ord : MOrder) (sc : MScope) (s : State) : Out := s.atomic .add d a ord sc
/-- ATOM.MINI32 (R235). -/
def execAtomMinI32 (d a : Slot) (ord : MOrder) (sc : MScope) (s : State) : Out := s.atomic .minI d a ord sc
/-- ATOM.MINN32 (R235). -/
def execAtomMinN32 (d a : Slot) (ord : MOrder) (sc : MScope) (s : State) : Out := s.atomic .minN d a ord sc
/-- ATOM.MAXI32 (R235). -/
def execAtomMaxI32 (d a : Slot) (ord : MOrder) (sc : MScope) (s : State) : Out := s.atomic .maxI d a ord sc
/-- ATOM.MAXN32 (R235). -/
def execAtomMaxN32 (d a : Slot) (ord : MOrder) (sc : MScope) (s : State) : Out := s.atomic .maxN d a ord sc
/-- ATOM.AND (R235). -/
def execAtomAnd (d a : Slot) (ord : MOrder) (sc : MScope) (s : State) : Out := s.atomic .and d a ord sc
/-- ATOM.OR (R235). -/
def execAtomOr (d a : Slot) (ord : MOrder) (sc : MScope) (s : State) : Out := s.atomic .or d a ord sc
/-- ATOM.XOR (R235). -/
def execAtomXor (d a : Slot) (ord : MOrder) (sc : MScope) (s : State) : Out := s.atomic .xor d a ord sc
/-- ATOM.XCHG (R235). -/
def execAtomXchg (d a : Slot) (ord : MOrder) (sc : MScope) (s : State) : Out := s.atomic .xchg d a ord sc
/-- ATOM.CAS (R236). -/
def execAtomCas (d a : Slot) (ord : MOrder) (sc : MScope) (s : State) : Out := s.atomic .cas d a ord sc
/-- ATOM.INC (R235). -/
def execAtomInc (d a : Slot) (ord : MOrder) (sc : MScope) (s : State) : Out := s.atomic .inc d a ord sc
/-- ATOM.FADD (R235). -/
def execAtomFadd (d a : Slot) (ord : MOrder) (sc : MScope) (s : State) : Out := s.atomic .fadd d a ord sc
/-- ATOM.BF16X2 (R237). -/
def execAtomBf16x2 (d a : Slot) (ord : MOrder) (sc : MScope) (s : State) : Out := s.atomic .bf16x2 d a ord sc
/-- ATOM.LD (R235). -/
def execAtomLd (d a : Slot) (ord : MOrder) (sc : MScope) (s : State) : Out := s.atomic .ld d a ord sc
/-- ATOM.ST (R235). -/
def execAtomSt (d a : Slot) (ord : MOrder) (sc : MScope) (s : State) : Out := s.atomic .st d a ord sc
/-- FACC (R238). -/
def execFacc (d a : Slot) (ord : MOrder) (sc : MScope) (s : State) : Out := s.atomic .facc d a ord sc
/-- ATOMS.ADD (R235). -/
def execAtomsAdd (d a : Slot) (ord : MOrder) (sc : MScope) (s : State) : Out := s.atomicScratch .add d a ord sc
/-- ATOMS.MINI32 (R235). -/
def execAtomsMinI32 (d a : Slot) (ord : MOrder) (sc : MScope) (s : State) : Out := s.atomicScratch .minI d a ord sc
/-- ATOMS.MINN32 (R235). -/
def execAtomsMinN32 (d a : Slot) (ord : MOrder) (sc : MScope) (s : State) : Out := s.atomicScratch .minN d a ord sc
/-- ATOMS.MAXI32 (R235). -/
def execAtomsMaxI32 (d a : Slot) (ord : MOrder) (sc : MScope) (s : State) : Out := s.atomicScratch .maxI d a ord sc
/-- ATOMS.MAXN32 (R235). -/
def execAtomsMaxN32 (d a : Slot) (ord : MOrder) (sc : MScope) (s : State) : Out := s.atomicScratch .maxN d a ord sc
/-- ATOMS.AND (R235). -/
def execAtomsAnd (d a : Slot) (ord : MOrder) (sc : MScope) (s : State) : Out := s.atomicScratch .and d a ord sc
/-- ATOMS.OR (R235). -/
def execAtomsOr (d a : Slot) (ord : MOrder) (sc : MScope) (s : State) : Out := s.atomicScratch .or d a ord sc
/-- ATOMS.XOR (R235). -/
def execAtomsXor (d a : Slot) (ord : MOrder) (sc : MScope) (s : State) : Out := s.atomicScratch .xor d a ord sc
/-- ATOMS.XCHG (R235). -/
def execAtomsXchg (d a : Slot) (ord : MOrder) (sc : MScope) (s : State) : Out := s.atomicScratch .xchg d a ord sc
/-- ATOMS.CAS (R236). -/
def execAtomsCas (d a : Slot) (ord : MOrder) (sc : MScope) (s : State) : Out := s.atomicScratch .cas d a ord sc
/-- ATOMS.INC (R235). -/
def execAtomsInc (d a : Slot) (ord : MOrder) (sc : MScope) (s : State) : Out := s.atomicScratch .inc d a ord sc
/-- ATOMS.FADD (R235). -/
def execAtomsFadd (d a : Slot) (ord : MOrder) (sc : MScope) (s : State) : Out := s.atomicScratch .fadd d a ord sc
/-- ATOMS.BF16X2 (R237). -/
def execAtomsBf16x2 (d a : Slot) (ord : MOrder) (sc : MScope) (s : State) : Out := s.atomicScratch .bf16x2 d a ord sc
/-- ATOMS.LD (R235). -/
def execAtomsLd (d a : Slot) (ord : MOrder) (sc : MScope) (s : State) : Out := s.atomicScratch .ld d a ord sc
/-- ATOMS.ST (R235). -/
def execAtomsSt (d a : Slot) (ord : MOrder) (sc : MScope) (s : State) : Out := s.atomicScratch .st d a ord sc

end Sys2Proof.Machine
end

