-- ==== Sys2Proof/Machine/Barrier.lean ====
section
/-! DEFINITION. Named barriers: BAR, major 0x23 (R152 to R156), NBAR, major 0x37 (R311 to R317), the barrier registers
(R277, R278), and what a change of group membership does to them (R153). -/

namespace Sys2Proof.Machine

/-! Registers. -/

/-- A named barrier register of a cohort. -/
def Cohort.bar (c : Cohort) (n : Nat) : Barrier := c.bars.getD n (Barrier.fresh 0)
/-- Updates a named barrier register. -/
def State.updBar (s : State) (ck : CohKey) (n : Nat) (f : Barrier → Barrier) : State :=
  s.updCohort ck fun c => { c with bars := c.bars.set n (f (c.bar n)) }
/-- The named barrier register n of a cohort. -/
def State.bar (s : State) (ck : CohKey) (n : Nat) : Barrier :=
  match s.cohort? ck with
  | some c => c.bar n
  | none => Barrier.fresh 0
/-- BARRIER_OVERFLOW against the arriving group (R336). -/
def Trap.barrier (n : Nat) : Trap := { rank := 7, cause := .barrierOverflow, info1 := w64 n }

/-! Reductions (R152, R155). -/

/-- Combines two operands (R152). -/
def barCombine (op : BarOp) (x y : W32) : W32 :=
  match op with
  | .sync => 0
  | .addI | .scanI | .xscanI => x + y
  | .addF | .scanF | .xscanF => f32Rne .add x y
  | .minI => if y.toInt < x.toInt then y else x
  | .minN => if y.toNat < x.toNat then y else x
  | .minF => w32 (fMinMax parF32 false x.toNat y.toNat).2
  | .maxI => if x.toInt < y.toInt then y else x
  | .maxN => if x.toNat < y.toNat then y else x
  | .maxF => w32 (fMinMax parF32 true x.toNat y.toNat).2
  | .and => x &&& y
  | .or => x ||| y
  | .xor => x ^^^ y
/-- The tree of R155, with fuel at least the length's logarithm. -/
def reduceTree (f : W32 → W32 → W32) : Nat → List W32 → W32
  | 0, l => l.headD 0
  | k + 1, l =>
    if l.length ≤ 1 then l.headD 0
    else
      let m := 2 ^ Nat.log2 (l.length - 1)
      f (reduceTree f k (l.take m)) (reduceTree f k (l.drop m))
/-- A reduction of one operand returns it, a NaN of the floating operations as the canonical one (R11, R155). -/
def barCanon (op : BarOp) (x : W32) : W32 :=
  match op with
  | .addF | .minF | .maxF | .scanF | .xscanF => if 0x7F800000 < (x &&& 0x7FFFFFFF#32).toNat then 0x7FC00000 else x
  | .sync | .addI | .minI | .minN | .maxI | .maxN | .and | .or | .xor | .scanI | .xscanI => x
/-- The result of participant i of n operands (R155). -/
def barResult (op : BarOp) (xs : List W32) (i : Nat) : W32 :=
  let red := fun (l : List W32) => barCanon op (reduceTree (barCombine op) l.length l)
  match op with
  | .scanI | .scanF => red (xs.take (i + 1))
  | .xscanI | .xscanF => if i == 0 then 0 else red (xs.take i)
  | .sync | .addI | .addF | .minI | .minN | .minF | .maxI | .maxN | .maxF | .and | .or | .xor => red xs

/-! Completion (R154, R156, R316). -/

/-- Entries of a cohort that wait in a way that is over for some members go on after the waiting instruction; the other
members stay blocked (R130, R135). -/
def State.releaseEntries (s : State) (ck : CohKey) (rel : Wait → Nat → Bool) : State :=
  s.setGroups (s.groups.map fun g =>
    if g.key.ck = ck then
      let isOver := fun (en : Entry) (t : Nat) => match en.wait with | some w => rel w t | none => false
      let keep := g.frontier.filterMap fun en =>
        let ms := en.members.filter fun t => !isOver en t
        if ms.isEmpty then none else some { en with members := ms }
      let go := g.frontier.map fun en =>
        readyEntry en.addr (nextPc en.pc) (s.prio ck (nextPc en.pc)) (en.members.filter (isOver en)) s.clock
      { g with frontier := go.foldl (fun fr en => placeEntry en fr) keep }
    else g)
/-- The physical core a cohort is on. -/
def State.coreOf (s : State) (ck : CohKey) : Option Nat :=
  match s.cohort? ck, s.context? ck.ctx with
  | some c, some x => some (x.phys c.vcore)
  | none, _ => none
  | _, none => none
/-- A thread completes a phase-forming operation: its phase id, and the CHECKED lines of its core (R218, R222). -/
def State.formPhase (s : State) (k : ThKey) (p : PhaseId) : State :=
  let s1 := s.updThread k fun t => { t with phase := p }
  match s.coreOf k.ck with
  | some c => s1.dropChecked c
  | none => s1
/-- The phase id of completion k of nbN (R218). -/
def State.nbPhase (s : State) (ck : CohKey) (n k : Nat) : PhaseId :=
  .nb (match s.context? ck.ctx with | some c => c.self | none => 0) ck.launch n k
/-- A phase of nbN completes: the register steps, every thread waiting at BAR receives its result and goes on, and the
arrivals deferred to the next phase enter it (R154, R155, R314). -/
def State.completePhase (s : State) (ck : CohKey) (n : Nat) : State :=
  let b := s.bar ck n
  let part := sortBy (fun (x y : Arrival) => decide (x.tid < y.tid)) (b.arrivals.filter (·.waits))
  let vals := part.filter fun a => a.op != .sync
  let xs := vals.map (·.x)
  let s1 := s.updBar ck n fun b =>
    { b with phase := !b.phase, arr := 0, expb := 0, k := b.k + 1, arrivals := b.deferred, deferred := [], groups := [],
             lastCredit := none }
  let s2 := (List.range vals.length).foldl (fun s j =>
    match vals[j]? with
    | none => s
    | some a => match s.thread? { ck := ck, tid := a.tid, addr := a.addr } with
      | none => s
      | some t => s.commit1 [.dg a.d] t { g := putWords a.d [barResult a.op xs j] }) s1
  let p := s.nbPhase ck n (b.k + 1)
  let s3 := part.foldl (fun s a => s.formPhase { ck := ck, tid := a.tid, addr := a.addr } p) s2
  let done := fun (w : Wait) (t : Nat) => match w with
    | .bar m => m == n && part.any fun a => a.tid == t
    | .arrive m => m == n
    | .nbar _ _ | .fwait _ | .recv _ _ _ | .accwait _ => false
  s3.releaseEntries ck done
/-- Members blocked in NBAR.WAIT on nbN whose entry's wait is over (R316). -/
def State.releaseNbar (s : State) (ck : CohKey) (n : Nat) : State :=
  let b := s.bar ck n
  let isOver := fun (w : Wait) => match w with
    | .nbar m par => m == n && par.all fun q => q.2 != b.phase
    | .bar _ | .arrive _ | .fwait _ | .recv _ _ _ | .accwait _ => false
  let ts := (s.groups.filter fun g => decide (g.key.ck = ck)).flatMap fun g => g.frontier.flatMap fun en =>
    match en.wait with
    | some w => if isOver w then en.members else []
    | none => []
  let s1 := ts.foldl (fun s t => s.formPhase { ck := ck, tid := t, addr := false } (s.nbPhase ck n b.k)) s
  s1.releaseEntries ck fun w _ => isOver w

/-- Adds the record of a request's failure to the stop under way, and raises the halt line (R280, R337). -/
def State.requestTrap (s : State) (ctx : Nat) (r : TrapRec) : State :=
  (s.addTrap ctx { r with ptptime := s.ptp, clock := s.clock }).raiseHalt ctx
/-- The test after each arrival and each credit (R278, R312): completion, or the overflow of the copy whose bytes last
reduced PEND. -/
def State.testPhase (s : State) (ck : CohKey) (n : Nat) : State :=
  let b := s.bar ck n
  if b.arr != b.expa || b.expa == 0 then s
  else if b.pend = 0 then (s.completePhase ck n).releaseNbar ck n
  else if b.pend < 0 then
    match b.lastCredit with
    | some r => s.requestTrap ck.ctx r
    | none => s
  else s
/-- Whether a group has arrived at nbN with the last of its current members (R153, R314). -/
def Group.allArrived (g : Group) (b : Barrier) : Bool :=
  !g.members.isEmpty && !b.groups.contains g.key.gid && g.members.all fun t => b.arrivals.any fun a => a.tid == t
/-- A group's arrival adds 1 to the arrived count; none when it overflows (R153, R154, R278). -/
def Barrier.arriveGroup (b : Barrier) (gid : Nat) : Option Barrier :=
  if b.expa == 0 || decide (b.expa < b.arr + 1) then none
  else some { b with arr := b.arr + 1, groups := b.groups ++ [gid] }
/-- A group arrives if it now can: nothing, an overflow, or the arrival with the completion it causes. -/
def State.settle (s : State) (gk : GrpKey) (n : Nat) : Option State :=
  match s.group? gk with
  | none => some s
  | some g =>
    let b := s.bar gk.ck n
    if g.allArrived b then
      match b.arriveGroup gk.gid with
      | none => none
      | some b' => some ((s.updBar gk.ck n fun _ => b').testPhase gk.ck n)
    else some s
/-- After a completion, the deferred arrivals may complete their groups' arrivals in the new phase (R314): each group of
the cohort in turn; an overflow is raised against the group's lowest waiting member. -/
def State.settleDeferred (s : State) (ck : CohKey) (n : Nat) : State :=
  if (s.bar ck n).arrivals.isEmpty then s
  else ((s.groups.filter fun g => decide (g.key.ck = ck)).map (·.key)).foldl (fun s gk =>
    match s.settle gk n with
    | some s' => s'
    | none =>
      let t := match s.group? gk with | some g => g.members.headD 0 | none => 0
      let r : TrapRec := { cause := Cause.barrierOverflow.code, sub := 0, sup := false, write := false,
                           malformed := false, cow := false, poison := false, req := false, launch := ck.launch,
                           coh := ck.coh, tid := t, gid := gk.gid, pc := 0, addr := 0, info1 := w64 n, info2 := 0,
                           ptptime := s.ptp, ltime := 0, clock := s.clock, kind := 0, engine := 0, seq := 0 }
      (s.addTrap ck.ctx r).raiseHalt ck.ctx) s
/-- A group arrives if it can, and what follows in the next phase. -/
def State.settleAll (s : State) (gk : GrpKey) (n : Nat) : Option State :=
  (s.settle gk n).map fun s' => if (s'.bar gk.ck n).k != (s.bar gk.ck n).k then s'.settleDeferred gk.ck n else s'

/-! Departures (R127, R153). -/

/-- Removes a group that has no member and no entry left, with what names it as an owner (R127, R138, R372). -/
def State.reapGroup (s : State) (gk : GrpKey) : State :=
  match s.group? gk with
  | none => s
  | some g =>
    if g.members.isEmpty && g.frontier.isEmpty then
      let s1 := (s.setGroups (s.groups.filter fun g => decide (g.key ≠ gk))).setCores
        (s.cores.map fun c => (c.1, c.2.disown fun k => decide (k = gk)))
      match s.coreOf gk.ck with
      | some c => s1.idleSlots c
      | none => s1
    else s
/-- Members leave their group; at each barrier where every remaining member has arrived, the group arrives (R153). None
when such an arrival overflows, with the barrier's number: the departing instruction then traps against the lowest of its members,
which is DESIGN CHOICE (log entry 80). -/
def State.depart (s : State) (gk : GrpKey) (tids : List Nat) : Except Nat State :=
  let s1 := s.updGroup gk fun g => { g with members := g.members.filter fun t => !tids.contains t }
  match (List.range 16).foldl (fun (acc : Except Nat State) n => match acc with
      | .error m => .error m
      | .ok s => match s.settleAll gk n with
        | some s' => .ok s'
        | none => .error n) (.ok s1) with
  | .error n => .error n
  | .ok s2 => .ok s2

/-! BAR (R152 to R156). -/

/-- Whether an arrival's op conflicts with an op already present (R155). -/
def opClash (as : List Arrival) (op : BarOp) : Bool :=
  op != .sync && as.any fun a => a.waits && a.op != .sync && a.op != op
/-- The members of an arriving entry for which the wait is over go on, with the run where all of them do; the others block
(R130, R131, R135). -/
def State.passOrBlock (s : State) (i : Iss) (w : Wait) (go stay : List Nat) : State :=
  if stay.isEmpty then s.retire i false i.fallThrough
  else
    let s1 := s.countProgress i
    let s2 := if go.isEmpty then s1 else s1.arrive i.run.gk i.run.addr (go.map fun t => (t, nextPc i.run.pc))
    s2.block { i with run := { i.run with members := stay } } w
/-- BAR of any op: every member arrives as a thread and waits until the phase completes, which its own arrival may bring about at once
(R135). A member already marked in the phase arrives in the next one (R314). The arrival is a release at cohort scope: it waits for
the queued requests of the members and pins the core's dirty lines (R209, R216). -/
def State.barArrive (s : State) (op : BarOp) (fs : List Fld) (d : Slot) (nb : BitVec 4) : Out :=
  s.operands .compute fs fun i ms =>
    let n := nb.toNat
    let b := s.bar i.ck n
    let arr := fun (m : Thread × Reads) =>
      ({ tid := m.1.key.tid, addr := m.1.key.addr, waits := true, op := op, x := m.2.x 1, d := d } : Arrival)
    let isLate := fun (m : Thread × Reads) => b.arrivals.any fun a => a.tid == m.1.key.tid
    let late := ms.filter isLate
    let now := ms.filter fun m => !isLate m
    let low := (ms.map fun m => m.1.key.tid).headD 0
    if (!now.isEmpty && opClash b.arrivals op) || (!late.isEmpty && opClash b.deferred op) then
      .next (s.takeTrap i low (.barrier n))
    else if ms.any fun m => s.inFlight m.1.key then .next (s.stall i [])
    else s.pinStep i fun s0 =>
      let s1 := (ms.foldl (fun s m => s.moveQueues m.1 fs []) s0).updBar i.ck n fun b =>
        { b with arrivals := b.arrivals ++ now.map arr, deferred := b.deferred ++ late.map arr }
      match s1.settleAll i.run.gk n with
      | none => .next (s.takeTrap i low (.barrier n))
      | some s2 =>
        -- an arrival is over once its own phase, the current one or the next, has completed
        let passed := fun (m : Thread × Reads) => decide (b.k + (if isLate m then 2 else 1) ≤ (s2.bar i.ck n).k)
        .next (s2.passOrBlock i (.bar n) ((ms.filter passed).map fun m => m.1.key.tid)
          ((ms.filter fun m => !passed m).map fun m => m.1.key.tid))
/-- BAR with an operand. -/
def State.barOp (s : State) (op : BarOp) (d a : Slot) (nb : BitVec 4) : Out := s.barArrive op [.dg d, .g a] d nb

/-! NBAR (R311 to R317). -/

/-- An instruction of the cohort's barriers by the issuing entry. -/
def State.nbar (s : State) (fs : List Fld) (go : Iss → Cohort → List (Thread × Reads) → State) : Out :=
  s.operands .compute fs fun i ms =>
    match s.cohort? i.ck with
    | none => .next s
    | some c => .next (go i c ms)
/-- The lowest lane of the issuing entry. -/
def lowLane (ms : List (Thread × Reads)) : Nat := (ms.map fun m => m.1.key.tid).headD 0
/-- NBAR.INIT (R313): EXPA from the member of highest lane, in an empty phase only. -/
def execNbarInit (a : Slot) (nb : BitVec 4) (s : State) : Out :=
  let fs := [Fld.g a]
  s.nbar fs fun i c ms =>
    let n := nb.toNat
    let b := c.bar n
    if b.arr == 0 && b.expb == 0 && decide (b.pend = 0) && b.arrivals.isEmpty then
      let v := match ms.getLast? with
        | some m => (m.2.x 0).toNat % 4096
        | none => 0
      ((ms.foldl (fun s m => s.moveQueues m.1 fs []) s).updBar i.ck n fun b => { b with expa := v }).retire i false
        i.fallThrough
    else s.takeTrap i (lowLane ms) (.barrier n)
/-- NBAR.ARRIVE (R314): each member arrives without waiting; a member already marked waits until the phase completes,
and then arrives in the next one. The arrival is a release at cohort scope (R209, R216). -/
def execNbarArrive (nb : BitVec 4) (s : State) : Out :=
  s.operands .compute [] fun i ms =>
    let n := nb.toNat
    let b := s.bar i.ck n
    let arr := fun (m : Thread × Reads) =>
      ({ tid := m.1.key.tid, addr := m.1.key.addr, waits := false, op := .sync, x := 0, d := 0 } : Arrival)
    let isLate := fun (m : Thread × Reads) => b.arrivals.any fun a => a.tid == m.1.key.tid
    let late := ms.filter isLate
    let now := ms.filter fun m => !isLate m
    if ms.any fun m => s.inFlight m.1.key then .next (s.stall i [])
    else s.pinStep i fun s0 =>
      let s1 := s0.updBar i.ck n fun b =>
        { b with arrivals := b.arrivals ++ now.map arr, deferred := b.deferred ++ late.map arr }
      match s1.settleAll i.run.gk n with
      | none => .next (s.takeTrap i (lowLane ms) (.barrier n))
      | some s2 =>
        let ended := decide (b.k < (s2.bar i.ck n).k)
        let tids := fun (l : List (Thread × Reads)) => l.map fun m => m.1.key.tid
        .next (s2.passOrBlock i (.arrive n) (tids (ms.filter fun m => ended || !isLate m)) (if ended then [] else tids late))
/-- NBAR.EXPECT (R315): every member adds its bytes to EXPB and PEND. -/
def execNbarExpect (a : Slot) (nb : BitVec 4) (s : State) : Out :=
  let fs := [Fld.g a]
  s.nbar fs fun i c ms =>
    let n := nb.toNat
    let b := c.bar n
    let add := ms.foldl (fun (acc : Option (Nat × Int)) m => match acc with
      | none => none
      | some (e, p) =>
        let v := (m.2.x 0).toNat
        if 2 ^ 32 - 1 < e + v ∨ (2 ^ 31 - 1 : Int) < p + v then none else some (e + v, p + v)) (some (b.expb, b.pend))
    match add with
    | none => s.takeTrap i (lowLane ms) (.barrier n)
    | some (e, p) =>
      ((ms.foldl (fun s m => s.moveQueues m.1 fs []) s).updBar i.ck n fun b => { b with expb := e, pend := p }).retire i
        false i.fallThrough
/-- NBAR.WAIT (R316): blocks until PHASE differs from every member's parity; on return the members take the phase id of
the latest completion. -/
def execNbarWait (a : Slot) (nb : BitVec 4) (s : State) : Out :=
  let fs := [Fld.g a]
  s.nbar fs fun i c ms =>
    let n := nb.toNat
    let b := c.bar n
    let par := ms.map fun m => (m.1.key.tid, (m.2.x 0).getLsbD 0)
    let s1 := ms.foldl (fun s m => s.moveQueues m.1 fs []) s
    if par.all fun q => q.2 != b.phase then
      let s2 := if b.k == 0 then s1
        else ms.foldl (fun s m => s.formPhase m.1.key (s.nbPhase i.ck n b.k)) s1
      s2.retire i false i.fallThrough
    else (s1.countProgress i).block i (.nbar n par)
/-- The word NBAR.TEST reads by its selector (R277, R317). -/
def Barrier.view (b : Barrier) (sel : Nat) : W32 :=
  match sel with
  | 0 => (if b.phase then 0x80000000#32 else 0) ||| w32 (b.arr % 4096 * 2 ^ 16) ||| w32 (b.expa % 4096)
  | 1 => w32 b.expb
  | 2 => wrap32 b.pend
  | _ => 0

/-! The forms of BAR (R152). -/

/-- BAR.sync (R152). -/
def execBarSync (nb : BitVec 4) (s : State) : Out := s.barArrive .sync [] 0 nb
/-- BAR.addI (R152, R155). -/
def execBarAddI32 (d a : Slot) (nb : BitVec 4) (s : State) : Out := s.barOp .addI d a nb
/-- BAR.addF (R152, R155). -/
def execBarAddF32 (d a : Slot) (nb : BitVec 4) (s : State) : Out := s.barOp .addF d a nb
/-- BAR.minI (R152, R155). -/
def execBarMinI32 (d a : Slot) (nb : BitVec 4) (s : State) : Out := s.barOp .minI d a nb
/-- BAR.minN (R152, R155). -/
def execBarMinN32 (d a : Slot) (nb : BitVec 4) (s : State) : Out := s.barOp .minN d a nb
/-- BAR.minF (R152, R155). -/
def execBarMinF32 (d a : Slot) (nb : BitVec 4) (s : State) : Out := s.barOp .minF d a nb
/-- BAR.maxI (R152, R155). -/
def execBarMaxI32 (d a : Slot) (nb : BitVec 4) (s : State) : Out := s.barOp .maxI d a nb
/-- BAR.maxN (R152, R155). -/
def execBarMaxN32 (d a : Slot) (nb : BitVec 4) (s : State) : Out := s.barOp .maxN d a nb
/-- BAR.maxF (R152, R155). -/
def execBarMaxF32 (d a : Slot) (nb : BitVec 4) (s : State) : Out := s.barOp .maxF d a nb
/-- BAR.and (R152, R155). -/
def execBarAnd (d a : Slot) (nb : BitVec 4) (s : State) : Out := s.barOp .and d a nb
/-- BAR.or (R152, R155). -/
def execBarOr (d a : Slot) (nb : BitVec 4) (s : State) : Out := s.barOp .or d a nb
/-- BAR.xor (R152, R155). -/
def execBarXor (d a : Slot) (nb : BitVec 4) (s : State) : Out := s.barOp .xor d a nb
/-- BAR.scanI (R152, R155). -/
def execBarScanI32 (d a : Slot) (nb : BitVec 4) (s : State) : Out := s.barOp .scanI d a nb
/-- BAR.xscanI (R152, R155). -/
def execBarXscanI32 (d a : Slot) (nb : BitVec 4) (s : State) : Out := s.barOp .xscanI d a nb
/-- BAR.scanF (R152, R155). -/
def execBarScanF32 (d a : Slot) (nb : BitVec 4) (s : State) : Out := s.barOp .scanF d a nb
/-- BAR.xscanF (R152, R155). -/
def execBarXscanF32 (d a : Slot) (nb : BitVec 4) (s : State) : Out := s.barOp .xscanF d a nb

end Sys2Proof.Machine
end

