-- ==== Sys2Proof/Machine/Fetch.lean ====
section
/-! DEFINITION. Fetches an instruction makes on the RO path or on the device's own account (R116, R180, R217, R243, R384,
R415), and the record and replay of values (R367, R368). -/

namespace Sys2Proof.Machine

/-! The RO path. -/

/-- Pieces of a byte range that stay within one line: addresses and lengths. -/
def linePieces (va : Nat) : Nat → Nat → List (Nat × Nat)
  | 0, _ => []
  | fuel + 1, n =>
    if n == 0 then []
    else
      let k := min n (64 - va % 64)
      (va, k) :: linePieces (va + k) fuel (n - k)
/-- A fetch within one line: from the core's RO line, or from the slice or the device that holds the page, filling the sectors it touches
(R180, R181, R384). It follows the core's earlier requests to the slice (R184). -/
def State.roPiece (s : State) (i : Iss) (c : Context) (who : Who) (key : ThKey) (va n : Nat) : RV × State :=
  let r := s.xlate c (physDie i.core) (.core i.core) (w64 va) .load who
  match r.1 with
  | .trap t => (.trap t, r.2)
  | .pinned l => (.wait l, r.2)
  | .ok vdev pa ch =>
    match r.2.l1Read i.core vdev pa n .ro, (r.2.core i.core).line? vdev (pa / 64) .ro with
    | some b, some l => (.ok b, r.2.updCore i.core fun c => c.hit l)
    | some b, none => (.ok b, r.2)
    | none, _ =>
      let g := sectorRange pa n
      match vdev with
      | some v =>
        match r.2.answer key v g.1 g.2 with
        | none => (.ask v g.1 g.2, r.2)
        | some (.error e) =>
          (.trap (Trap.xlate (w64 va) .load .pageFault (decide (e = .malformed)) false (decide (e ≠ .malformed))), r.2)
        | some (.ok b) => (.ok ((b.drop (pa - g.1)).take n), r.2.l1Fill i.ck.ctx i.core vdev pa n .ro ch none (some b))
      | none =>
        let s1 := r.2.drainFor i.core pa
        if s1.refused (.core i.core) (pa / 64) then (.wait (some (pa / 64)), s1)
        else if s1.poisoned pa n then (.trap (Trap.xlate (w64 va) .load .pageFault false false true), s1)
        else (.ok (s1.readPhys pa n), s1.l1Fill i.ck.ctx i.core none pa n .ro ch none none)
/-- Whether a fetch reaches 2^56 or the apertures of the copy engines, which is PROTECTION ahead of every translation fault (R243, R264). -/
def outOfReach (c : Context) (va n : Nat) : Bool :=
  decide (2 ^ 56 < va + n) || inAperture c (w64 va) || inAperture c (w64 (va + n - 1))
/-- A fetch of n bytes on the RO path (R180, R243). -/
def State.roRead (s : State) (i : Iss) (c : Context) (who : Who) (key : ThKey) (va n : Nat) : RV × State :=
  if outOfReach c va n then (.trap (.addrProt (w64 va) false), s)
  else (linePieces va (n / 64 + 2) n).foldl (fun acc p =>
    Got.andThen acc fun bs s =>
      Got.andThen (s.roPiece i c who key p.1 p.2) fun b s => (.ok (bs ++ b), s)) (.ok [], s)

/-! Watchpoints of the RO path (R358). -/

/-- The watchpoints that a fetch of a thread matches, as the bits of WPHIT (R358, R359). -/
def watchBits (i : Iss) (c : Context) (va n : Nat) : Nat :=
  if i.run.noMatch then 0 else ((c.dbg.hits va n true false).map (2 ^ ·)).sum
/-- The match of a fetch, behind every other cause of the instruction (R358): the rank puts it there, and its subcause carries the
bits of WPHIT until it is taken. -/
def Trap.watchFetch (va bits : Nat) : Trap := { Trap.watch (w64 va) false with rank := 50, sub := bits }
/-- The bits of WPHIT that a member's fetch matched. -/
def Trap.watchHit (x : Trap) : Nat := if x.rank == 50 then x.sub else 0
/-- A thread's fetch of n bytes, which a watchpoint may match (R358). -/
def State.threadRead (s : State) (i : Iss) (c : Context) (t : Thread) (va n : Nat) : RV × State :=
  match watchBits i c va n with
  | 0 => s.roRead i c t.who t.key va n
  | bits => (.trap (.watchFetch va bits), s)
/-- The trap of the fetches that watchpoints match, against the lowest lane that has one (R358). -/
def State.takeWatch (s : State) (i : Iss) (l : List (Nat × Trap)) : State :=
  match l.filter fun p => p.2.watchHit != 0 with
  | [] => s
  | p :: ps =>
    let bits := (p :: ps).foldl (fun (acc : W32) q => acc ||| w32 (q.2.watchHit * 2 ^ 16)) 0
    (s.updContext i.ck.ctx fun c => { c with dbg := { c.dbg with dbgstat := c.dbg.dbgstat ||| bits } }).takeTrap i p.1
      (.watch p.2.addr false)

/-! Fetches of an instruction. -/

/-- An instruction goes on with what it fetched under a name, or takes the trap, or waits for a pinned line, for a walk, or for another
device that it asks (R197, R217, R384). -/
def State.awaitGot {α : Type} (s : State) (i : Iss) (tid : Nat) (key : ThKey) (r : Got α × State) (go : α → State → Out) : Out :=
  match r.1 with
  | .ok a => go a ((r.2.clearProbes i).dropAnswers key)
  | .trap x => .next ((s.dropAnswers key).takeTrap i tid x)
  | .wait l => .next (r.2.waitPinned i l)
  | .ask v pa n => .next ((r.2.askFor (.core i.core) key v false [readAcc pa n]).stall i [])
/-- The trap of a fetch, if it met one. -/
def Got.trap? {α : Type} : Got α → Option Trap
  | .trap t => some t
  | .ok _ | .wait _ | .ask _ _ _ => none
/-- The value of a fetch, if it has one. -/
def Got.val? {α : Type} : Got α → Option α
  | .ok a => some a
  | .trap _ | .wait _ | .ask _ _ _ => none
/-- What each member fetches, in membership order. -/
def State.fetchEach {α : Type} (s : State) (ms : List (Thread × Reads)) (f : Thread → Reads → State → Got α × State) :
    List (Thread × Got α) × State :=
  ms.foldl (fun (acc : List (Thread × Got α) × State) m =>
    let q := f m.1 m.2 acc.2
    (acc.1 ++ [(m.1, q.1)], q.2)) ([], s)
/-- Whether a fetch waits. -/
def Got.waits {α : Type} : Got α → Bool
  | .wait _ | .ask _ _ _ => true
  | .ok _ | .trap _ => false
/-- The members' fetches are over or wait: the highest-ranked trap, the wait for a pin, a walk or another device, or the instruction goes on
with every value. A trap that ranks behind translation faults waits until none can come (R45). -/
def State.settleFetch {α : Type} (s : State) (i : Iss) (ms : List (Thread × Reads)) (r : List (Thread × Got α) × State)
    (go : List (Thread × α) → State → Out) : Out :=
  let drop := fun (s : State) => ms.foldl (fun s m => s.dropAnswers m.1.key) s
  let traps := (r.1.map fun p => (p.1.key.tid, p.2.trap?)).filter fun p => match p.2 with
    | some x => decide (x.rank ≤ 6) || !r.1.any fun q => q.2.waits
    | none => false
  match firstTrap traps with
  | some (t, x) => .next ((drop s).takeTrap i t x)
  | none =>
    match r.1.findSome? fun p => match p.2 with
        | .wait l => some l
        | .ok _ => none | .trap _ => none | .ask _ _ _ => none with
    | some l => .next (r.2.waitPinned i l)
    | none =>
      let asks := r.1.filterMap fun p => match p.2 with
        | .ask v pa n => some (p.1.key, v, pa, n)
        | .ok _ => none | .trap _ => none | .wait _ => none
      if asks.isEmpty then go (r.1.filterMap fun p => p.2.val?.map fun a => (p.1, a)) (drop (r.2.clearProbes i))
      else .next ((asks.foldl (fun s q => s.askFor (.core i.core) q.1 q.2.1 false [readAcc q.2.2.1 q.2.2.2]) r.2).stall i [])
/-- The issuing entry, matching no watchpoint. -/
def Iss.quiet (i : Iss) : Iss := { i with run := { i.run with noMatch := true } }
/-- Fetches for each member of an instruction, which waits until the members' earlier requests are performed (R204, R214). Where a
fetch matches a watchpoint, the trap is taken once nothing else stops the instruction (R358). -/
def State.eachFetch {α : Type} (s : State) (i : Iss) (ms : List (Thread × Reads))
    (f : Iss → Thread → Reads → State → Got α × State) (go : List (Thread × α) → State → Out) : Out :=
  if ms.any fun m => s.inFlight m.1.key then .next (s.stall i [])
  else
    let r := s.fetchEach ms (f i)
    let hit := r.1.filterMap fun p => (p.2.trap?).bind fun x => if x.watchHit == 0 then none else some (p.1.key.tid, x)
    if hit.isEmpty then s.settleFetch i ms r go
    else s.settleFetch i ms (s.fetchEach ms (f i.quiet)) fun _ s => .next (s.takeWatch i hit)

/-! Record and replay (R367, R368). -/

/-- Adds one to a saturating 32-bit counter. -/
def satInc (v : W32) : W32 := if v = 0xFFFFFFFF#32 then v else v + 1
/-- The key of a replay entry: ORD, COH, TID, KIND, STREAM and SEQ, bytes 0 to 15 (R367). -/
def replayKey (ord coh tid kind : Nat) (addr : Bool) (seq : Nat) : Bytes :=
  natLe 4 ord ++ natLe 4 coh ++ natLe 2 tid ++ natLe 1 kind ++ natLe 1 (if addr then 1 else 0) ++ natLe 4 seq
/-- The value of the first entry that matches a key, from entry k on (R368): the entries are read at the slices, and a line or a device
that they are behind is waited for (R217, R384); an entry that cannot be read matches nothing. -/
def State.findReplay (s : State) (i : Iss) (c : Context) (t : Thread) (key : Bytes) : Nat → Nat → Got (Option W64) × State
  | 0, _ => (.ok none, s)
  | fuel + 1, k =>
    let r := s.readVirt c (physDie i.core) (.core i.core) t.key (c.dbg.rplbase + w64 (32 * k)) 32 .device
    match r.1 with
    | .ok b => if b.take 16 = key then (.ok (some (w64 (leAt b 16 8))), r.2) else r.2.findReplay i c t key fuel (k + 1)
    | .trap _ => r.2.findReplay i c t key fuel (k + 1)
    | .wait l => (.wait l, r.2)
    | .ask v pa n => (.ask v pa n, r.2)
/-- Where the entries of a list of members go, from entry k on (R367, R368): none where the array is full or a translation fault loses
the entry. An access that must wait keeps every entry waiting. -/
def State.replaySpots (s : State) (i : Iss) (c : Context) : List (Thread × Reads) → Nat → Got (List (Option (Option Nat × Nat))) × State
  | [], _ => (.ok [], s)
  | _ :: ms, k =>
    let go := fun (x : Option (Option Nat × Nat)) (k : Nat) (s : State) =>
      Got.andThen (s.replaySpots i c ms k) fun l s => (.ok (x :: l), s)
    let va := c.dbg.rplbase + w64 (32 * k)
    if c.dbg.rplsize.toNat ≤ k || decide (2 ^ 56 ≤ va.toNat) then go none k s
    else
      let r := s.xlate c (physDie i.core) (.core i.core) va .store .device
      match r.1 with
      | .trap _ => go none k r.2
      | .pinned l => (.wait l, r.2)
      | .ok vdev pa _ =>
        if vdev.isNone && r.2.refused (.core i.core) (pa / 64) then (.wait (some (pa / 64)), r.2) else go (some (vdev, pa)) (k + 1) r.2
/-- The next entry of the array is written, at the slice or by the device that holds its page, or is lost (R367, R368). -/
def State.record1 (s : State) (i : Iss) (ctx : Nat) (spot : Option (Option Nat × Nat)) (b : Bytes) : State :=
  let upd := fun (s : State) (f : Debug → Debug) => s.updContext ctx fun c => { c with dbg := f c.dbg }
  match spot with
  | none => upd s fun d => { d with rpldrop := satInc d.rpldrop }
  | some (none, pa) => upd ((s.drainFor i.core pa).writePhys pa (b.map some)) fun d => { d with rplptr := d.rplptr + 1 }
  | some (some v, pa) => upd (s.sendWrite ctx i.core v pa (b.map some)) fun d => { d with rplptr := d.rplptr + 1 }
/-- The entry of a member's value (R367). -/
def State.replayEntry (s : State) (t : Thread) (kind : Nat) : Bytes :=
  let ord := match s.launch? t.key.ck.ctx t.key.ck.launch with
    | some l => l.ordinal.getD 0
    | none => 0
  replayKey ord t.key.ck.coh t.key.tid kind t.key.addr (t.recSeq + 1)
/-- Members read a value that RECORD and REPLAY treat (R367, R368): the true value, appended as an entry in a RECORD launch; in a REPLAY
launch, the value of the matching entry. -/
def State.replayAll (s : State) (i : Iss) (ms : List (Thread × Reads)) (kind : Nat) (val : Thread → Reads → W64)
    (go : List (Thread × W64) → State → Out) : Out :=
  let true' := ms.map fun m => (m.1, val m.1 m.2)
  let rpl := match ms with | m :: _ => m.1.rpl | [] => 0
  match s.context? i.ck.ctx with
  | none => go true' s
  | some c =>
    if rpl == 0 then go true' s
    else if rpl == 1 then
      s.awaitGot i 0 i.head (s.replaySpots i c ms c.dbg.rplptr.toNat) fun spots s =>
        go true' ((true'.zip spots).foldl (fun s p =>
          s.record1 i c.id p.2 (s.replayEntry p.1.1 kind ++ natLe 8 p.1.2.toNat ++ List.replicate 8 0)) s)
    else
      s.settleFetch i ms (s.fetchEach ms fun t _ s => s.findReplay i c t (s.replayEntry t kind) c.dbg.rplsize.toNat 0) fun l s =>
        let miss := (l.filter fun p => p.2.isNone).length
        go (true'.zipWith (fun p q => (p.1, q.2.getD p.2)) l) (s.updContext c.id fun c =>
          { c with dbg := { c.dbg with rplmiss := satIncN c.dbg.rplmiss miss } })
where
  /-- Adds n to a saturating 32-bit counter. -/
  satIncN (v : W32) : Nat → W32
    | 0 => v
    | n + 1 => satIncN (satInc v) n
/-- The effect of a recorded read: the thread's count of recorded values moves on (R367). -/
def Eff.recorded (t : Thread) (g : List (Nat × W32)) : Eff :=
  { g := g, th := fun u => if t.rpl == 0 then u else { u with recSeq := u.recSeq + 1 } }
/-- NBAR.TEST (R317): a snapshot of nbN, not an acquire. -/
def execNbarTest (d a : Slot) (nb : BitVec 4) (s : State) : Out :=
  let fs := [Fld.dg d, .g a]
  s.operands .compute fs fun i ms =>
    match s.cohort? i.ck with
    | none => .next s
    | some c =>
      let b := c.bar nb.toNat
      s.replayAll i ms 3 (fun _ q => (b.view ((q.x 1).toNat % 4)).zeroExtend 64) fun l s1 =>
        .next (s1.finish i fs false (l.map fun p => (p.1, .recorded p.1 (putWords d [lo32 p.2]))))

end Sys2Proof.Machine
end

