-- ==== Sys2Proof/Machine/Control.lean ====
section
/-! DEFINITION. Control transfer, thread control, system calls and special registers: majors 0x1A to 0x1F (R34, R38 to R40,
R54, R55, R87 to R103). -/

namespace Sys2Proof.Machine

/-! Branches, calls and jumps (R55, R87 to R89). -/

/-- The target of a relative branch (R55). -/
def branchTarget (pc : W64) (off : BitVec 18) : W64 := pc56 (pc + off.signExtend 64 * 4)
/-- What refuses a jump target (R55): PROTECTION, then MISALIGNED. -/
def jumpTrap (t : W64) : Option Trap :=
  if t.extractLsb' 56 8 ≠ (0 : BitVec 8) then some (.addrProt t false)
  else if t.extractLsb' 0 2 ≠ (0 : BitVec 2) then some (.misaligned t false)
  else none
/-- BR (R88): taken when g[c] is not zero, and always with c = 0. -/
def execBr (c : Slot) (off : BitVec 18) (s : State) : Out :=
  s.memberwise .both [.g c] false fun i _ r =>
    .ok { next := if c = 0 || r.x 0 != 0 then some (branchTarget i.run.pc off) else none }
/-- BRZ (R88): taken when g[c] is zero. -/
def execBrz (c : Slot) (off : BitVec 18) (s : State) : Out :=
  s.memberwise .both [.g c] false fun i _ r =>
    .ok { next := if r.x 0 = 0 then some (branchTarget i.run.pc off) else none }
/-- CALL (R89): the link pair takes PC + 4. -/
def execCall (d : Slot) (off : BitVec 18) (s : State) : Out :=
  s.memberwise .both [.dgs d 2] true fun i _ _ =>
    .ok { Eff.pair d (nextPc i.run.pc) with next := some (branchTarget i.run.pc off) }
/-- A transfer to the address in a pair, with what it writes besides (R55, R89). -/
def State.jump (s : State) (fs : List Fld) (k : Nat) (link : Iss → Eff) : Out :=
  s.memberwise .both fs true fun i _ r =>
    match jumpTrap (r.p k) with
    | some t => .error t
    | none => .ok { link i with next := some (r.p k) }
/-- JMP (R89). -/
def execJmp (a : Slot) (s : State) : Out := s.jump [.gs a 2] 0 fun _ => {}
/-- CALLR (R89): reads its target before it writes the link. -/
def execCallr (d a : Slot) (s : State) : Out := s.jump [.dgs d 2, .gs a 2] 1 fun i => .pair d (nextPc i.run.pc)
/-- RET (R89): the effect of JMP. -/
def execRet (a : Slot) (s : State) : Out := s.jump [.gs a 2] 0 fun _ => {}

/-! Thread control (R90 to R97). -/

/-- NOP (R90). -/
def execNop (s : State) : Out := s.compute [] fun _ _ => {}
/-- YIELD (R92, R142): the run ends; in a DET launch the slot comes to a switch point. -/
def execYield (s : State) : Out :=
  s.operands .both [] fun i _ =>
    let s1 := s.retire i true i.fallThrough
    .next (if s.isDet i.ck then
      s1.updSlot i.core i.slot fun x => { x with detCur := none, detYield := some i.run.gk } else s1)
/-- EXIT (R91, R153, R185): the members execute no further instruction; those of a compute stream leave their group. -/
def execExit (s : State) : Out :=
  s.operands .both [] fun i ms =>
    let tids := ms.map fun m => m.1.key.tid
    let s1 := (ms.foldl (fun s m => s.updThread m.1.key fun t => { t with exited := true }) (s.countProgress i)).clearRun i
    let s2 := if i.run.addr then Except.ok s1 else s1.depart i.run.gk tids
    match s2 with
    | .ok s3 => .next ((s3.reapGroup i.run.gk).switchPoint i)
    | .error n => .next (s.takeTrap i (lowLane ms) (.barrier n))
/-- A cause raised by every member alike, against the lowest lane (R146). -/
def State.raiseAll (s : State) (x : Trap) (after : Bool) : Out :=
  s.operands .both [] fun i ms => .next (s.takeTrap i (lowLane ms) x after)
/-- TRAP #n (R93): SOFTWARE; a resumed thread continues at PC + 4. -/
def execTrap (n : BitVec 7) (s : State) : Out :=
  s.raiseAll { rank := 7, cause := .software, info1 := n.zeroExtend 64 } true
/-- BRK #n (R93): BREAKPOINT; a resumed thread continues at PC + 4. -/
def execBrk (n : BitVec 7) (s : State) : Out :=
  s.raiseAll { rank := 7, cause := .breakpoint, info1 := n.zeroExtend 64 } true
/-- An instruction that PROTECTION refuses in user mode, rank 3 (R54). -/
def State.privileged (s : State) (st : Stream) (fs : List Fld) (go : Iss → List (Thread × Reads) → Out) : Out :=
  s.operandsQ st fs fun i ms =>
    match firstTrap (ms.map fun m => (m.1.key.tid, if m.1.sup then none else some Trap.privilege)) with
    | some (t, x) => .next (s.takeTrap i t x)
    | none => go i ms
/-- HALT (R54, R97): raises the halt line with cause SOFTWARE, immediate 0xFF. -/
def execHalt (s : State) : Out :=
  s.privileged .both [] fun i ms =>
    .next (s.takeTrap i (lowLane ms) { rank := 7, cause := .software, info1 := 0xFF } true)
/-- ERET (R54, R95): PC := XPC, SUP := XSUP. -/
def execEret (s : State) : Out :=
  s.privileged .both [] fun i ms =>
    .next (s.finish i [] true (ms.map fun m => (m.1, { th := Thread.leaveSys, next := some m.1.xpc })))
/-- Whether an entry of the system-call table can be entered (R94). -/
def badEntry (t : W64) : Bool :=
  t = 0 || t.extractLsb' 0 2 != (0 : BitVec 2) || t.extractLsb' 56 8 != (0 : BitVec 8)
/-- SYS #n (R94): PROTECTION in supervisor mode; the entry of the system-call table, read as supervisor; the return state
takes PC + 4 and SUP, and the thread goes on in supervisor mode at the entry. -/
def execSys (n : BitVec 7) (s : State) : Out :=
  s.operands .both [] fun i ms =>
    match s.context? i.ck.ctx with
    | none => .next s
    | some c =>
      match firstTrap (ms.map fun m => (m.1.key.tid, if m.1.sup then some Trap.privilege else none)) with
      | some (t, x) => .next (s.takeTrap i t x)
      | none =>
        s.eachFetch i (ms.take 1) (fun _ m _ s =>
          s.readVirt c (physDie i.core) (.core i.core) m.key (c.desc.syscall + w64 (8 * n.toNat)) 8 .device) fun l s1 =>
          let t := w64 (match l with | p :: _ => leNat p.2 | [] => 0)
          if badEntry t then .next (s1.takeTrap i (lowLane ms) { rank := 7, cause := .protection })
          else .next (s1.finish i [] true (ms.map fun m =>
            (m.1, { th := fun u => u.enterSys i.run.pc, next := some t })))
/-- FENCE.I (R44, R96): the thread's earlier stores and atomics are performed at device scope; then the core's fetch buffers
and table cache are emptied. -/
def execFenceI (s : State) : Out :=
  s.operands .both [] fun i ms =>
    if ms.any fun m => s.inFlight m.1.key then .next (s.stall i [])
    else match s.blockedLine i.core with
      | some l => .next (s.waitPinned i (some l))
      | none =>
        let s1 := ((s.flushDirty i.ck.ctx i.core).clearProbes i).updCore i.core fun c => { c with fetchBuf := [], seqCache := [] }
        .next (s1.retire i true i.fallThrough)

/-! Special registers (R38 to R40, R98, R99). -/

/-- Whether a special register is read into a pair (R38). -/
def wideReg : SReg → Bool
  | .clock | .ptptime | .time => true
  | .lane | .tid | .gid | .coh | .role | .launch | .core | .die | .dev | .wb | .visit | .status | .trap => false
/-- The kind of a replay entry of a special register (R367). -/
def replayKind : SReg → Option Nat
  | .clock => some 0
  | .ptptime => some 1
  | .lane | .tid | .gid | .coh | .role | .launch | .core | .die | .dev | .time | .wb | .visit | .status | .trap => none
/-- What a thread reads in a special register (R38, R98). -/
def State.sreg (s : State) (i : Iss) (t : Thread) (sr : SReg) : W64 :=
  let vcore := match s.cohort? i.ck with | some c => c.vcore | none => 0
  match sr with
  | .lane => w64 (match s.group? i.run.gk with | some g => g.laneOf t.key.tid | none => 0)
  | .tid => w64 t.key.tid
  | .gid => w64 t.gid
  | .coh => w64 i.ck.coh
  | .role => w64 t.role
  | .launch => w64 i.ck.launch
  | .core => w64 vcore
  | .die => w64 (dieOf vcore)
  | .dev => w64 (match s.context? i.ck.ctx with | some c => c.self | none => 0)
  | .clock => w64 s.clock
  | .ptptime => s.ptp
  | .time => t.time
  | .wb => w64 t.wb
  | .visit => t.visit.zeroExtend 64
  | .status => t.status.zeroExtend 64
  | .trap => t.trap.zeroExtend 64
/-- RDSR (R98, R367). -/
def execRdsr (d : Slot) (sr : SReg) (s : State) : Out :=
  let fs := [if wideReg sr then Fld.dgs d 2 else .dg d]
  s.operands .both fs fun i ms =>
    let put := fun (v : W64) => putWords d (if wideReg sr then [lo32 v, hi32 v] else [lo32 v])
    match replayKind sr with
    | none => .next (s.finish i fs false (ms.map fun m => (m.1, { g := put (s.sreg i m.1 sr) })))
    | some k =>
      s.replayAll i ms k (fun t _ => s.sreg i t sr) fun l s1 =>
        .next (s1.finish i fs false (l.map fun p => (p.1, .recorded p.1 (put p.2))))
/-- REGISTER_RANGE of a refused window base, rank 2 (R34, R336). -/
def Trap.window (v : Int) : Trap :=
  { rank := 2, cause := .registerRange, info1 := 0x800#64 ||| ((wrap32 v).zeroExtend 64 <<< 32) }
/-- A new window base: refused when not a multiple of 8 or outside the allotment (R34). -/
def Thread.setWb (t : Thread) (v : Int) : Except Trap Eff :=
  if v % 8 ≠ 0 ∨ v < 0 ∨ (t.gallot : Int) - 8 < v then .error (.window v)
  else .ok { th := fun t => { t with wb := v.toNat } }
/-- WRSR (R34, R38, R40, R51, R99): a is a pair for a 64-bit register. -/
def execWrsr (a : Slot) (sr : SReg) (s : State) : Out :=
  s.memberwise .both [if wideReg sr then .gs a 2 else .g a] false fun _ t r =>
    match sr with
    | .wb => if r.unread.isEmpty then t.setWb ((r.x 0).toNat % 1024 : Nat) else .ok {}
    | .visit => .ok { th := fun t => { t with visit := r.x 0 } }
    | .status => match if r.unread.isEmpty then t.statusTrap (r.x 0) else none with
      | some x => .error x
      | none => .ok { th := fun t => t.writeStatus (r.x 0) }
    | .lane | .tid | .gid | .coh | .role | .launch | .core | .die | .dev | .clock | .ptptime | .time | .trap =>
      .error .privilege
/-- WBASE (R34, R100): v is eight times the field. -/
def execWbase (v : BitVec 7) (s : State) : Out :=
  s.memberwise .both [] false fun _ t _ => t.setWb (8 * v.toNat : Nat)
/-- WBADD (R34, R100): v is eight times the signed field. -/
def execWbadd (v : BitVec 7) (s : State) : Out :=
  s.memberwise .both [] false fun _ t _ => t.setWb (t.wb + 8 * v.toInt)

end Sys2Proof.Machine
end

