-- ==== Sys2Proof/Machine/Group.lean ====
section
/-! DEFINITION. Group membership and exchange: JOIN, LEAVE, SHFL and VOTE, major 0x22 (R127 to R129, R146 to R151), and the
formation of groups (R128). -/

namespace Sys2Proof.Machine

/-! Names of groups (R127). -/

/-- A slot of a core after a group took another %gid: what it holds in the slot follows it, and a slot that it has moved away from
keeps its place in the orders of R140 and R362 (R372). -/
def IssueSlot.rename (x : IssueSlot) (j : Nat) (gk gk' : GrpKey) : IssueSlot :=
  let fix := fun (g : GrpKey) => if g = gk && slotOf gk'.gid false == j then gk' else g
  { x with detCur := x.detCur.map fix, detYield := x.detYield.map fix, served := x.served.map fun p => (p.1, fix p.2),
           sampled := x.sampled.map fun p => (p.1, fix p.2) }
/-- Gives a group another %gid in every place that names it. -/
def State.renameGroup (s : State) (gk gk' : GrpKey) : State :=
  let fix := fun (g : GrpKey) => if g = gk then gk' else g
  { s with
    groups := s.groups.map fun g => { g with key := fix g.key },
    threads := s.threads.map fun t => if t.key.ck = gk.ck && t.gid == gk.gid && t.join.isNone then { t with gid := gk'.gid } else t,
    cohorts := s.cohorts.map fun c => if c.key = gk.ck then
      { c with bars := c.bars.map fun b => { b with groups := b.groups.map fun g => if g == gk.gid then gk'.gid else g } } else c,
    cores := s.cores.map fun c => (c.1, { c.2 with
      slots := (List.range c.2.slots.length).zipWith (fun j x => x.rename j gk gk') c.2.slots,
      victims := c.2.victims.map fun v => (v.1, v.2.map fix),
      l1 := c.2.l1.map fun l => { l with owner := l.owner.map fun o => o.map fix } }) }
/-- A formed group whose lowest member has left takes the %gid of its lowest remaining member, so that no two groups of a
cohort hold one %gid (R127). -/
def State.regid (s : State) (gk : GrpKey) : State :=
  match s.group? gk with
  | none => s
  | some g =>
    match g.members with
    | [] => s
    | t :: _ => if gk.gid < 2048 || gk.gid == 2048 + t then s else s.renameGroup gk { gk with gid := 2048 + t }
/-- A new group of threads at program counters, in a role (R127, R128). -/
def State.formGroup (s : State) (ck : CohKey) (role : Nat) (ts : List (Nat × W64)) : State :=
  match ts with
  | [] => s
  | p :: _ =>
    let gk : GrpKey := { ck := ck, gid := 2048 + p.1 }
    let g : Group := { key := gk, role := role, members := ts.map (·.1), frontier := [], score := 0,
                       decayed := s.clock / 1024, mmaSeq := 0,
                       since := s.clock }
    let s1 := s.setGroups (s.groups ++ [g])
    let s2 := ts.foldl (fun s p => s.updThread { ck := ck, tid := p.1, addr := false } fun t =>
      { t with gid := gk.gid, join := none }) s1
    s2.arrive gk false ts

/-! JOIN and LEAVE (R128, R129, R147, R148). -/

/-- JOIN (R128, R147): each member leaves its group and becomes pending with its key. -/
def execJoin (a : Slot) (s : State) : Out :=
  s.operands .unsplit [.g a] fun i ms =>
    let s1 := (ms.foldl (fun s m => s.updThread m.1.key fun t =>
      { t with join := some { key := (m.2.x 0).extractLsb' 0 16, pc := i.run.pc, since := s.clock } })
      (s.countProgress i)).clearRun i
    match s1.depart i.run.gk (ms.map fun m => m.1.key.tid) with
    | .ok s2 => .next ((((s2.reapGroup i.run.gk).switchPoint i).regid i.run.gk).idleSlots i.core)
    | .error n => .next (s.takeTrap i (lowLane ms) (.barrier n))
/-- LEAVE (R129, R148): each member becomes a group of one at the next instruction. -/
def execLeave (s : State) : Out :=
  s.operands .unsplit [] fun i ms =>
    let s1 := (s.countProgress i).clearRun i
    match s1.depart i.run.gk (ms.map fun m => m.1.key.tid) with
    | .ok s2 =>
      let s3 := (((s2.reapGroup i.run.gk).switchPoint i).regid i.run.gk).idleSlots i.core
      .next (ms.foldl (fun s m => s.formGroup i.ck m.1.role [(m.1.key.tid, nextPc i.run.pc)]) s3)
    | .error n => .next (s.takeTrap i (lowLane ms) (.barrier n))

/-! Formation (R128). -/

/-- Cuts a list into consecutive parts of 32. -/
def chunks32 {α : Type} : Nat → List α → List (List α)
  | 0, _ => []
  | fuel + 1, l => if l.isEmpty then [] else l.take 32 :: chunks32 fuel (l.drop 32)
/-- Forms pending threads into groups of 32 by ascending %tid (R128). -/
def State.formPending (s : State) (ck : CohKey) (role : Nat) (ts : List Thread) : State :=
  let l := (sortBy (fun (x y : Thread) => decide (x.key.tid < y.key.tid)) ts).map fun t =>
    (t.key.tid, match t.join with | some j => nextPc j.pc | none => 0)
  (chunks32 l.length l).foldl (fun s g => s.formGroup ck role g) s
/-- Whether a thread is blocked in a wait (R135). -/
def State.isBlocked (s : State) (t : Thread) : Bool :=
  match s.group? { ck := t.key.ck, gid := t.gid } with
  | none => false
  | some g => g.frontier.any fun en => en.addr == t.key.addr && en.wait.isSome && en.members.contains t.key.tid
/-- Of the threads pending with one key, those that form now (R128): all of them when the oldest has waited 512 clocks or
no thread of the cohort can run; else the largest multiple of 32, oldest first. None in DET but the last. -/
def formNow (clock : Nat) (det stuck : Bool) (ts : List Thread) : List Thread :=
  let since := fun (t : Thread) => match t.join with | some j => j.since | none => 0
  if stuck then ts
  else if det then []
  else if ts.any fun t => decide (since t + 512 ≤ clock) then ts
  else
    let l := sortBy (fun (x y : Thread) => decide (since x < since y) || (since x == since y && decide (x.key.tid < y.key.tid))) ts
    l.take (l.length / 32 * 32)
/-- The groups that form in a cohort now: role and threads. -/
def State.formable (s : State) (ck : CohKey) : List (Nat × List Thread) :=
  let all := s.threads.filter fun t => decide (t.key.ck = ck) && !t.exited
  let pend := all.filter fun t => t.join.isSome
  let stuck := all.all fun t => t.join.isSome || s.isBlocked t
  let keys := (pend.map fun t => (t.role, match t.join with | some j => j.key.toNat | none => 0)).eraseDups
  (keys.map fun k => (k.1, formNow s.clock (s.isDet ck) stuck (pend.filter fun t =>
    t.role == k.1 && (match t.join with | some j => j.key.toNat | none => 0) == k.2))).filter fun p => !p.2.isEmpty
/-- Whether a cohort's threads may run: its context is RUNNING and it is on a core (R149). -/
def State.cohortRuns (s : State) (ck : CohKey) : Bool :=
  (match s.context? ck.ctx with | some c => decide (c.st = .running) | none => false) &&
  (match s.cohort? ck with
    | some c => (match c.st with | .resident _ => true | .waiting | .saved _ | .killed _ => false)
    | none => false)
/-- GROUP_FORMATION (R128): the pending threads of a cohort whose formation condition holds form groups. -/
def execGroupFormation (s : State) : Out :=
  match s.op with
  | .nat3 ctx launch coh =>
    let ck : CohKey := { ctx := ctx, launch := launch, coh := coh }
    if s.cohortRuns ck then .next ((s.formable ck).foldl (fun s p => s.formPending ck p.1 p.2) s) else .next s
  | _ => .next s

/-! SHFL and VOTE (R150, R151). -/

/-- SHFL (R150): a member takes g[a] of the lane it names if that lane is in the entry, else its own. -/
def State.shuffle (s : State) (d a b : Slot) (lane : Nat → Nat → Int) : Out :=
  let fs := [Fld.dg d, .g a, .g b]
  s.operands .compute fs fun i ms =>
    let laneOf := fun (t : Thread) => match s.group? i.run.gk with | some g => g.laneOf t.key.tid | none => 0
    .next (s.finish i fs false (ms.map fun m =>
      let src := lane (laneOf m.1) (m.2.x 2).toNat
      (m.1, .slot d (match ms.find? fun q => decide ((laneOf q.1 : Int) = src) with
        | some q => q.2.x 1
        | none => m.2.x 1))))
/-- SHFL.idx (R150). -/
def execShflIdx (d a b : Slot) (s : State) : Out := s.shuffle d a b fun _ x => x
/-- SHFL.up (R150). -/
def execShflUp (d a b : Slot) (s : State) : Out := s.shuffle d a b fun l x => (l : Int) - x
/-- SHFL.down (R150). -/
def execShflDown (d a b : Slot) (s : State) : Out := s.shuffle d a b fun l x => (l : Int) + x
/-- SHFL.xor (R150). -/
def execShflXor (d a b : Slot) (s : State) : Out := s.shuffle d a b fun l x => (l ^^^ x : Nat)
/-- VOTE (R151): every member receives one value of the members' tests, given as (lane, test). -/
def State.vote (s : State) (d a : Slot) (f : List (Nat × Bool) → W32) : Out :=
  let fs := [Fld.dg d, .g a]
  s.operands .compute fs fun i ms =>
    let laneOf := fun (t : Thread) => match s.group? i.run.gk with | some g => g.laneOf t.key.tid | none => 0
    let v := f (ms.map fun m => (laneOf m.1, m.2.x 1 != 0))
    .next (s.finish i fs false (ms.map fun m => (m.1, .slot d v)))
/-- VOTE.any (R151). -/
def execVoteAny (d a : Slot) (s : State) : Out := s.vote d a fun l => boolWord (l.any (·.2))
/-- VOTE.all (R151). -/
def execVoteAll (d a : Slot) (s : State) : Out := s.vote d a fun l => boolWord (l.all (·.2))
/-- VOTE.ballot (R151). -/
def execVoteBallot (d a : Slot) (s : State) : Out :=
  s.vote d a fun l => ofBits fun k => l.any fun p => p.1 == k && p.2

end Sys2Proof.Machine
end

