-- ==== Sys2Proof/Machine/Matrix.lean ====
section
/-! DEFINITION. The matrix engine and the accumulator store: MMA and VXM, ACCRD, ACCWR, ACCZ and ACCWAIT, majors 0x24 to
0x27 (R30 to R32, R144, R145, R157 to R175), and the engine's own steps. -/

namespace Sys2Proof.Machine

/-! Formats and fragments (R158 to R160). -/

/-- The format of an MMA operand. -/
inductive MFmt
  | plain (t : Sys2Proof.PFmt)
  | blocked (b : BFmt)
  deriving DecidableEq, Repr
/-- The format of a descriptor code (R9, R158). -/
def mfmtOf (c : Nat) : Option MFmt :=
  if c < 16 then (Sys2Proof.PFmt.ofCode (BitVec.ofNat 4 c)).map .plain else (BFmt.ofCode c).map .blocked
/-- K of a format (R159). -/
def MFmt.k : MFmt → Nat
  | .plain t => 512 / fmtWidth t
  | .blocked b => 16 * b.groups
/-- Whether a format takes part in INT32 accumulation (R31). -/
def MFmt.isInt : MFmt → Bool
  | .plain t => match t with
    | .i8 | .n8 | .i4 | .n4 | .bin1 => true
    | .f32 | .fx19 | .bf16 | .f16 | .e5m2 | .e4m3 | .e3m4 | .h8 | .h4 | .h2 => false
  | .blocked _ => false
/-- The elements of a row or column from its sixteen words; none raises BLOCK_FORMAT (R18, R160, R162). -/
def MFmt.row (f : MFmt) (ws : List W32) : Option (List FV) :=
  match f with
  | .plain t =>
    let w := fmtWidth t
    some ((List.range (512 / w)).map fun k =>
      decodeP t ((ws.getD (k / (32 / w)) 0).toNat / 2 ^ (k % (32 / w) * w) % 2 ^ w))
  | .blocked b => match decodeBlock (bytesOfWords ws) with
    | some (t, vs) => if t.groups == b.groups then some vs else none
    | none => none
/-- A decoded tile descriptor (R158). -/
structure TileDesc where
  fa : MFmt
  fb : MFmt
  zero : Bool
  sat : Bool
  tile : Nat
  deriving DecidableEq, Repr
/-- Decodes a tile descriptor; none raises BLOCK_FORMAT (R158, R159). -/
def tileDesc (d : W32) : Option TileDesc :=
  match mfmtOf (d.extractLsb' 16 8).toNat, mfmtOf (d.extractLsb' 24 8).toNat with
  | some fa, some fb =>
    let sat := d.getLsbD 10
    if (d.extractLsb' 12 4 : BitVec 4) != 0 || d.getLsbD 9 || fa.k != fb.k || (sat && !(fa.isInt && fb.isInt)) then none
    else some { fa := fa, fb := fb, zero := d.getLsbD 11, sat := sat, tile := (d.extractLsb' 0 9).toNat }
  | some _, none => none
  | none, _ => none
/-- BLOCK_FORMAT (R336). -/
def Trap.blockFormat (what idx : Nat) : Trap := { rank := 7, cause := .blockFormat, info1 := w64 (what + 4 * idx) }
/-- GROUP_SHAPE (R336). -/
def Trap.groupShape (n : Nat) : Trap := { rank := 7, cause := .groupShape, info1 := w64 n }

/-! Tiles (R157, R165, R166). -/

/-- A bound tile of a cohort. -/
def Cohort.tile? (c : Cohort) (t : Nat) : Option Tile := c.tiles.find? fun x => x.no == t
/-- An element of a tile; an unbound tile reads as zero (R157). -/
def Cohort.tileElem (c : Cohort) (t row col : Nat) : W32 :=
  match c.tile? t with
  | some x => sget 0 x.elems (64 * row + col)
  | none => 0
/-- Updates a bound tile. -/
def Cohort.updTile (c : Cohort) (t : Nat) (f : Tile → Tile) : Cohort :=
  { c with tiles := updWhere (fun x => x.no == t) f c.tiles }
/-- Binds a tile number of a cohort on a core; none when no physical tile is free (R157). -/
def State.bindTile (s : State) (core : Nat) (ck : CohKey) (t : Nat) : Option State :=
  match s.cohort? ck with
  | none => none
  | some c =>
    if (c.tile? t).isSome then some s
    else if 512 ≤ ((s.cohortsOn core).map fun c => c.tiles.length).sum then none
    else some (s.updCohort ck fun c => { c with tiles := c.tiles ++ [{ no := t, elems := [] }] })
/-- The order of MMAs: issue clock, then slot (R144, R165). -/
def MmaReq.before (x y : MmaReq) : Bool :=
  decide (x.issue < y.issue) || (x.issue == y.issue && (decide (x.slot < y.slot) || (x.slot == y.slot && decide (x.id < y.id))))
/-- The requests of an engine that are not complete. -/
def MatrixEngine.pending (e : MatrixEngine) : List MmaReq := (e.running.map (·.1)).toList ++ e.queue
/-- The MMAs that own a tile of a cohort, oldest first (R165). -/
def MatrixEngine.owners (e : MatrixEngine) (ck : CohKey) (t : Nat) : List MmaReq :=
  sortBy MmaReq.before (e.pending.filter fun q => !q.vxm && decide (q.gk.ck = ck) && q.tile == t)
/-- REQTAG of an accepted request. -/
def State.reqTag (s : State) (ctx eng seq : Nat) : Nat :=
  match (s.engine eng).queue.find? fun q => q.ck.ctx == ctx && q.seq == seq with
  | some q => leAt q.line 60 4
  | none => 0
/-- ACC_BUSY of a tile that no operation holds: its binding failed (R157, R336). -/
def Trap.accFull (t : Nat) : Trap := { rank := 7, cause := .accBusy, info1 := w64 t }
/-- The tiles that a request line names as source or destination (R266). -/
def lineTiles (b : Bytes) : List Nat :=
  let f := leAt b 4 1
  (if f % 4 == 2 then [leAt b 8 8 % 512] else []) ++ (if f / 4 % 4 == 2 then [leAt b 16 8 % 512] else [])
/-- The copy engine and request that hold a tile of a cohort (R165, R275). -/
def State.tileHolder (s : State) (ck : CohKey) (t : Nat) : Option (Nat × Nat) :=
  s.engines.findSome? fun e =>
    (e.2.queue.find? fun q => decide (q.ck = ck) && q.held.contains t && (match q.status with
      | .queued | .active | .waitSlot => true
      | .complete | .failed _ _ | .cancelled => false)).map fun q => (e.1, q.seq)
/-- ACC_BUSY of a tile held by a copy (R165, R336). -/
def State.heldTrap (s : State) (ck : CohKey) (t : Nat) : Option Trap :=
  match s.tileHolder ck t with
  | none => none
  | some (e, q) => some { rank := 7, cause := .accBusy, info1 := w64 (t + 2 * 2 ^ 9 + e % 32 * 2 ^ 11 + q * 2 ^ 32),
                          info2 := w64 (s.reqTag ck.ctx e q) }
/-- ACC_BUSY of a tile that an MMA owns or a copy holds (R166, R336). -/
def State.busyTrap (s : State) (core : Nat) (ck : CohKey) (t : Nat) : Option Trap :=
  match (s.core core).eng.owners ck t with
  | q :: _ => some { rank := 7, cause := .accBusy,
                     info1 := w64 (t + 2 ^ 9 + q.gk.gid % 65536 * 2 ^ 16 + q.seq * 2 ^ 32),
                     info2 := w64 (ck.launch + ck.coh * 2 ^ 32) }
  | [] => s.heldTrap ck t

/-! MMA (R161 to R164). -/

/-- MCLASS of a group's role (R121, R144). -/
def State.mclass (s : State) (gk : GrpKey) : Nat :=
  match s.group? gk, s.launch? gk.ck.ctx gk.ck.launch with
  | some g, some l => (match l.hdr.roles[g.role]? with | some r => r.mclass | none => 0)
  | none, _ => 0
  | _, none => 0
/-- The sixteen-word rows of a fragment: two per lane (R160). -/
def fragRows (ls : List (List W32)) : List (List W32) := ls.flatMap fun l => [l.take 16, (l.drop 16).take 16]
/-- Whether the row k of a fragment cannot be used (R162). -/
def badRow (f : MFmt) (rows : List (List W32)) (k : Nat) : Bool := (f.row (rows.getD k [])).isNone
/-- BLOCK_FORMAT of the lane l of an MMA: its first bad block of A, or else of B (R146, R160, R162). -/
def laneBlock (t : TileDesc) (a b : List (List W32)) (l : Nat) : Option Trap :=
  match [2 * l, 2 * l + 1].find? (badRow t.fa a), [2 * l, 2 * l + 1].find? (badRow t.fb b) with
  | some k, _ => some (.blockFormat 1 k)
  | none, some k => some (.blockFormat 2 k)
  | none, none => none
/-- What refuses an MMA before its tile is looked at, with the lane it is reported against: GROUP_SHAPE, then BLOCK_FORMAT
(R146, R162). -/
def mmaTrap (g : Group) (descs : List W32) (a b : List (List W32)) : Except (Nat × Trap) TileDesc :=
  let d := descs.headD 0
  if descs.length ≠ 32 ∨ g.members.length ≠ 32 ∨ descs.any (fun x => decide (x ≠ d)) then .error (0, .groupShape descs.length)
  else match tileDesc d with
    | none => .error (0, .blockFormat 0 0)
    | some t =>
      match (List.range 32).findSome? fun l => (laneBlock t a b l).map fun x => (l, x) with
      | some p => .error p
      | none => .ok t
/-- Gives a group its next operation sequence number (R166). -/
def State.nextSeq (s : State) (gk : GrpKey) : Nat × State :=
  match s.group? gk with
  | some g => (g.mmaSeq + 1, s.updGroup gk fun g => { g with mmaSeq := g.mmaSeq + 1 })
  | none => (1, s)
/-- Hands a request to a core's engine. -/
def State.enqueueMma (s : State) (core : Nat) (q : MmaReq) : State :=
  s.updCore core fun c => { c with eng := { c.eng with queue := c.eng.queue ++ [q] } }
/-- MMA (R161 to R164): the checks at issue, then acceptance by the engine; the fragments are held until it completes. -/
def execMma (d a b : Slot) (s : State) : Out :=
  let fs := [Fld.g d, .gs a 32, .gs b 32]
  s.operands .compute fs fun i ms =>
    match s.group? i.run.gk with
    | none => .next s
    | some g =>
      let rowsA := fragRows (ms.map fun m => m.2.l 1)
      let rowsB := fragRows (ms.map fun m => m.2.l 2)
      let stop := fun (x : Trap) => Host.Outcome.next (s.takeTrap i (lowLane ms) x)
      match mmaTrap g (ms.map fun m => m.2.x 0) rowsA rowsB with
      | .error (l, x) => .next (s.takeTrap i (((ms.map fun m => m.1.key.tid)[l]?).getD (lowLane ms)) x)
      | .ok t =>
        match s.heldTrap i.ck t.tile with
        | some x => stop x
        | none => match s.bindTile i.core i.ck t.tile with
          | none => stop (.accFull t.tile)
          | some s1 =>
            let n := s1.nextSeq i.run.gk
            let id := n.2.newId
            let held := ms.map fun m => (m.1.key, (Fld.gs a 32).span.filterMap m.1.regOf ++ (Fld.gs b 32).span.filterMap m.1.regOf)
            let q : MmaReq := { id := id.1, gk := i.run.gk, cls := s.mclass i.run.gk, issue := s.clock, slot := i.slot,
                                seq := n.1, tile := t.tile, desc := (ms.map fun m => m.2.x 0).headD 0, a := rowsA,
                                b := rowsB, aSlot := a.toNat, bSlot := b.toNat, frag := held, groupsDone := 0,
                                occupied := 0, vxm := false }
            .next ((ms.foldl (fun s m => s.moveQueues m.1 fs []) (id.2.enqueueMma i.core q)).retire i false i.fallThrough)

/-! The engine at work (R30, R31, R144, R163). -/

/-- The exact value of an integer element. -/
def fvInt : FV → Int
  | .fin s m e => (if s then -1 else 1) * (m * 2 ^ e.toNat : Nat)
  | .nan _ => 0
  | .inf _ => 0
/-- One element after one K group (R30, R31, R163): xs and ys are the sixteen elements of its row and column. -/
def groupStep (t : TileDesc) (d : W32) (xs ys : List FV) : W32 :=
  if t.fa.isInt && t.fb.isInt then
    let x := d.toInt + (xs.zipWith (fun x y => fvInt x * fvInt y) ys).sum
    wrap32 (if t.sat then max (-2 ^ 31) (min x (2 ^ 31 - 1)) else x)
  else w32 (sumRound parF32 .rne (some (opnd parF32 d) :: xs.zipWith mulFV ys)).2
/-- A tile after K groups `g0` up to `g1` of an MMA (R163). -/
def mmaGroups (t : TileDesc) (a b : List (List FV)) (g0 g1 : Nat) (elem : Nat → W32) : Sparse W32 :=
  (List.range 4096).filterMap fun e =>
    let xs := a.getD (e / 64) []
    let ys := b.getD (e % 64) []
    let start := if t.zero && g0 == 0 then 0 else elem e
    let v := (List.range (g1 - g0)).foldl (fun d k =>
      groupStep t d ((xs.drop (16 * (g0 + k))).take 16) ((ys.drop (16 * (g0 + k))).take 16)) start
    if v = 0 then none else some (e, v)
/-- The thread whose FENCE.X lets an MMA see what other paths wrote to its tile: the lowest of those that issued it (R215). -/
def MmaReq.reader (q : MmaReq) : Nat := (q.frag.head?.map fun p => p.1.tid).getD 0
/-- Performs K groups up to `g1` of a request on its tile, as its reads of it see it (R163, R215). -/
def State.runGroups (s : State) (q : MmaReq) (g1 : Nat) : State :=
  match tileDesc q.desc with
  | none => s
  | some t =>
    let a := q.a.map fun r => (t.fa.row r).getD []
    let b := q.b.map fun r => (t.fb.row r).getD []
    match s.cohort? q.gk.ck with
    | none => s
    | some c =>
      let v := s.see c .acc (if t.zero && q.groupsDone == 0 then [] else (List.range 4096).map fun e => (q.reader, .tile q.tile e))
      v.2.updCohort q.gk.ck fun c => (c.keep .acc).updTile q.tile fun x =>
        { x with elems := mmaGroups t a b q.groupsDone g1 fun e => v.1 q.reader (.tile q.tile e) }
/-- Clocks that a request occupies the engine (R164, R173). -/
def MmaReq.clocks (q : MmaReq) : Nat :=
  if q.vxm then 8
  else match tileDesc q.desc with
    | some t => if t.fa = .plain .f32 ∨ t.fb = .plain .f32 then 16 else 8
    | none => 8
/-- K groups of a request (R144). -/
def MmaReq.groups (q : MmaReq) : Nat :=
  if q.vxm then 1 else match tileDesc q.desc with | some t => t.fa.k / 16 | none => 0
/-- Groups that have ended by the end of an occupied clock (R144). -/
def MmaReq.endedBy (q : MmaReq) (c : Nat) : Nat :=
  ((List.range q.groups).filter fun g => decide (((g + 1) * q.clocks + q.groups - 1) / q.groups ≤ c)).length
/-- Whether a queued request can start: no earlier MMA owns its tile (R164). -/
def MatrixEngine.canStart (e : MatrixEngine) (q : MmaReq) : Bool :=
  q.vxm || !(e.pending.any fun p => !p.vxm && decide (p.gk.ck = q.gk.ck) && p.tile == q.tile && p.before q)
/-- The request the engine starts next: the highest class, then the earliest (R144). The requests of a clock are all there before one of them
starts, so that those of one tile are performed in slot order (R165). -/
def MatrixEngine.pick (e : MatrixEngine) (clock : Nat) : Option MmaReq :=
  (sortBy (fun x y => decide (y.cls < x.cls) || (x.cls == y.cls && x.before y))
    (e.queue.filter fun q => decide (q.issue < clock) && e.canStart q)).head?
/-- A queued request of a higher class than the running one that could start (R144, R165). -/
def MatrixEngine.outranks (e : MatrixEngine) (clock : Nat) (q : MmaReq) : Bool :=
  e.queue.any fun p => decide (q.cls < p.cls) && decide (p.issue < clock) && e.canStart p
/-- Whether the engine of a core may start requests. -/
def State.updEng (s : State) (core : Nat) (f : MatrixEngine → MatrixEngine) : State :=
  s.updCore core fun c => { c with eng := f c.eng }
/-- MMA_START (R144): the idle engine starts the request it serves next. -/
def execMmaStart (s : State) : Out :=
  match s.op with
  | .nat core =>
    let e := (s.core core).eng
    match e.running, e.pick s.clock with
    | none, some q => .next (s.updEng core fun e =>
        { e with queue := e.queue.filter fun p => p.id != q.id, running := some (q, s.clock) })
    | some _, _ => .next s
    | none, none => .next s
  | _ => .next s
/-- MMA_SUSPEND (R144): a request of a higher class suspends the running MMA at the end of a group. -/
def execMmaSuspend (s : State) : Out :=
  match s.op with
  | .nat core =>
    let e := (s.core core).eng
    match e.running with
    | none => .next s
    | some (q, start) =>
      let due := max 1 (min q.clocks (q.occupied + (s.clock - start)))
      let c := (List.range (q.clocks + 1)).find? fun c =>
        decide (due ≤ c) && decide (q.endedBy (c - 1) < q.endedBy c)
      match c with
      | none => .next s
      | some c =>
        if q.vxm || q.clocks ≤ c || !e.outranks s.clock q then .next s
        else
          let g1 := q.endedBy c
          .next ((s.runGroups q g1).updEng core fun e =>
            { e with queue := { q with groupsDone := g1, occupied := c } :: e.queue, running := none })
  | _ => .next s
/-- Entries blocked in ACCWAIT whose tiles no MMA owns go on (R168). -/
def State.releaseAcc (s : State) (core : Nat) (ck : CohKey) : State :=
  s.releaseEntries ck fun w _ => match w with
    | .accwait ts => ts.all fun t => ((s.core core).eng.owners ck t).isEmpty
    | .bar _ | .arrive _ | .nbar _ _ | .fwait _ | .recv _ _ _ => false
/-- A running request is done: it leaves the engine. -/
def State.finishMma (s : State) (core : Nat) (q : MmaReq) : State :=
  if q.vxm then s.updEng core fun e => { e with running := none }
  else ((s.runGroups q q.groups).updEng core fun e => { e with running := none }).releaseAcc core q.gk.ck
/-- MMA_COMPLETE (R164, R165): the last K group is written, ownership ends, the fragments are free. -/
def execMmaComplete (s : State) : Out :=
  match s.op with
  | .nat core => match (s.core core).eng.running with
    | some (q, start) =>
      if q.vxm || decide (s.clock < start + (q.clocks - q.occupied)) then .next s else .next (s.finishMma core q)
    | none => .next s
  | _ => .next s

/-! VXM (R170 to R174). -/

/-- A decoded weight descriptor (R170): the blocked format or BF16, GSEL and the byte offset. -/
structure WDesc where
  fmt : Option BFmt
  gsel : Nat
  off : Nat
  deriving DecidableEq, Repr
/-- The bytes of a weight set by its WFMT (R171); none where WFMT is not a weight format. -/
def weightSize (d : W32) : Option Nat :=
  let f := (d.extractLsb' 24 8).toNat
  if f == 3 then some 256 else if (BFmt.ofCode f).isSome then some 512 else none
/-- The byte offset of a weight set (R170). -/
def weightOff (d : W32) : Nat := 64 * (d.extractLsb' 0 14).toNat
/-- Column j of a weight set, as sixteen values; none raises BLOCK_FORMAT at that block (R171, R172). -/
def weightCol (d : W32) (ws : List W32) (j : Nat) : Option (List FV) :=
  let f := (d.extractLsb' 24 8).toNat
  let gsel := (d.extractLsb' 19 5).toNat
  if f == 3 then
    some ((List.range 16).map fun k =>
      decodeP .bf16 ((ws.getD (8 * j + k / 2) 0).toNat / 65536 ^ (k % 2) % 65536))
  else match BFmt.ofCode f, decodeBlock (bytesOfWords ((ws.drop (16 * j)).take 16)) with
    | some t, some (u, vs) =>
      if t.groups == u.groups && decide (gsel < u.groups) then some ((vs.drop (16 * gsel)).take 16) else none
    | some _, none => none
    | none, _ => none
/-- What refuses a VXM (R172): PROTECTION with the rank of address PROTECTION, then BLOCK_FORMAT. -/
def vxmTrap (scratch : Nat) (d : W32) (ws : List W32) : Option Trap :=
  match weightSize d with
  | some n =>
    if scratch < weightOff d + n then some (.addrProt (w64 (weightOff d)) false)
    else if (d.extractLsb' 14 5 : BitVec 5) != 0 || ((d.extractLsb' 24 8).toNat == 3 && (d.extractLsb' 19 5).toNat != 0) then
      some (.blockFormat 0 0)
    else ((List.range 8).find? fun j => (weightCol d ws j).isNone).map fun j => .blockFormat 3 j
  | none => some (.blockFormat 0 0)
/-- The row of the engine: y of R174 for sixteen BF16 inputs. -/
def vxmRow (d : W32) (ws x : List W32) : List W32 :=
  let xs := (List.range 16).map fun k => decodeP .bf16 ((x.getD (k / 2) 0).toNat / 65536 ^ (k % 2) % 65536)
  (List.range 8).map fun j =>
    w32 (sumRound parF32 .rne (some (FV.fin false 0 0) :: xs.zipWith mulFV ((weightCol d ws j).getD []))).2
/-- Closes a gather: it enters the queue of its class as one request issued when it opened (R173). -/
def State.closeGather (s : State) (core : Nat) (g : Gather) : State :=
  let q : MmaReq := { id := g.id, gk := { ck := g.ck, gid := 0 }, cls := g.cls, issue := g.opened, slot := g.slot, seq := 0,
                      tile := 0, desc := g.desc, a := [], b := [], aSlot := 0, bSlot := 0, frag := [], groupsDone := 0,
                      occupied := 0, vxm := true }
  s.updEng core fun e =>
    { e with queue := e.queue ++ [q], gathers := e.gathers.filter fun x => x.id != g.id, closed := e.closed ++ [g] }
/-- The open gather of a key: one that opened less than 64 clocks ago (R173). -/
def State.openGather (s : State) (core : Nat) (ck : CohKey) (d : W32) (cls : Nat) : Option Gather :=
  (s.core core).eng.gathers.find? fun g => decide (g.ck = ck) && decide (g.desc = d) && g.cls == cls && decide (s.clock < g.opened + 64)
/-- The weights that a thread's VXM issued now uses: those of its open gather, or the scratch as its read on the ACC path sees it (R173,
R203, R215). -/
def State.weightsFor (s : State) (core : Nat) (c : Cohort) (tid : Nat) (d : W32) (cls : Nat) : List W32 × State :=
  match s.openGather core c.key d cls with
  | some g => (g.weights, s)
  | none =>
    let v := s.seeScratch c .acc ((weightSize d).getD 0) [(tid, weightOff d)]
    (wordsOf (v.1 tid (weightOff d)), v.2)
/-- One member's VXM joins the open gather of its key or opens one; a gather of 64 rows closes (R173). -/
def State.addRow (s : State) (i : Iss) (d : W32) (weights : List W32) (row : VxmRow) : State :=
  let cls := s.mclass i.run.gk
  let p := match s.openGather i.core i.ck d cls with
    | some g => ({ g with rows := g.rows ++ [row] }, s)
    | none =>
      let id := s.newId
      (({ id := id.1, ck := i.ck, desc := d, cls := cls, opened := s.clock, slot := i.slot,
          weights := weights, rows := [row] } : Gather), id.2)
  let s1 := p.2.updEng i.core fun e =>
    { e with gathers := (e.gathers.filter fun g => g.id != p.1.id) ++ [p.1] }
  if 64 ≤ p.1.rows.length then s1.closeGather i.core p.1 else s1
/-- The members of a VXM join gathers in turn, each checked against the weights that it would use (R172, R173): their causes, and the
state after those without one. -/
def State.addRows (s : State) (i : Iss) (c : Cohort) (fs : List Fld) (d : Slot) (ms : List (Thread × Reads)) :
    List (Nat × Option Trap) × State :=
  ms.foldl (fun (acc : List (Nat × Option Trap) × State) m =>
    let desc := m.2.x 2
    let w := acc.2.weightsFor i.core c m.1.key.tid desc (acc.2.mclass i.run.gk)
    match vxmTrap c.scratchSize desc w.1 with
    | some x => (acc.1 ++ [(m.1.key.tid, some x)], acc.2)
    | none => (acc.1 ++ [(m.1.key.tid, none)], (w.2.moveQueues m.1 fs []).addRow i desc w.1
        { key := m.1.key, x := m.2.l 1, dst := (Fld.dgs d 8).span.map m.1.regOf })) ([], s)
/-- VXM (R170 to R173). -/
def execVxm (d a b : Slot) (s : State) : Out :=
  let fs := [Fld.dgs d 8, .gs a 8, .g b]
  s.operands .compute fs fun i ms =>
    match s.cohort? i.ck with
    | none => .next s
    | some c =>
      let r := s.addRows i c fs d ms
      match firstTrap r.1 with
      | some (t, x) => .next (s.takeTrap i t x)
      | none => .next (r.2.retire i false i.fallThrough)
/-- GATHER_CLOSE (R173): a gather closes 64 clocks after it opened, or when it holds 64 rows. -/
def execGatherClose (s : State) : Out :=
  match s.op with
  | .nat2 core id => match (s.core core).eng.gathers.find? fun g => g.id == id with
    | some g => if decide (g.opened + 64 ≤ s.clock) || decide (64 ≤ g.rows.length) then .next (s.closeGather core g) else .next s
    | none => .next s
  | _ => .next s
/-- The rows of a closed gather are written (R174). -/
def State.writeRows (s : State) (g : Gather) : State :=
  g.rows.foldl (fun s r =>
    let y := vxmRow g.desc g.weights r.x
    s.updThread r.key fun t => (List.range 8).foldl (fun t j => match r.dst.getD j none with
      | some reg => t.writeReg reg (y.getD j 0)
      | none => t) t) s
/-- A gathered VXM is done: its rows are written and it leaves the engine. -/
def State.finishVxm (s : State) (core : Nat) (q : MmaReq) : State :=
  match (s.core core).eng.closed.find? fun g => g.id == q.id with
  | some g => (s.writeRows g).updEng core fun e =>
      { e with running := none, closed := e.closed.filter fun x => x.id != q.id }
  | none => s.updEng core fun e => { e with running := none }
/-- VXM_COMPLETE (R174). -/
def execVxmComplete (s : State) : Out :=
  match s.op with
  | .nat core => match (s.core core).eng.running with
    | some (q, start) => if !q.vxm || decide (s.clock < start + 8) then .next s else .next (s.finishVxm core q)
    | none => .next s
  | _ => .next s

/-! Accumulator instructions (R166 to R169). -/

/-- The tile a member names (R168, R169). -/
def tileOf (x : W32) (timm : Nat) : Nat := (x.toNat % 512 + timm) % 512
/-- Binds the tiles of a list in turn; the first that fails is named. -/
def State.bindAll (s : State) (core : Nat) (ck : CohKey) (l : List (Nat × Nat)) : Except (Nat × Nat) State :=
  l.foldl (fun acc p => match acc with
    | .error e => .error e
    | .ok s => match s.bindTile core ck p.2 with
      | some s' => .ok s'
      | none => .error p) (.ok s)
/-- An accumulator instruction: no member acts when a tile is owned or held, or when one that is written cannot be bound
(R157, R166). That a busy tile is reported ahead of a binding that fails, whichever lane is the lower, is DESIGN CHOICE (log entry 84). -/
def State.accAccess (s : State) (fs : List Fld) (binds : Bool) (tile : Reads → Nat)
    (go : Iss → Cohort → List (Thread × Reads) → State → State) : Out :=
  s.operands .compute fs fun i ms =>
    match firstTrap (ms.map fun m => (m.1.key.tid, s.busyTrap i.core i.ck (tile m.2))) with
    | some (t, x) => .next (s.takeTrap i t x)
    | none =>
      match s.bindAll i.core i.ck (if binds then ms.map fun m => (m.1.key.tid, tile m.2) else []) with
      | .error (t, n) => .next (s.takeTrap i t (.accFull n))
      | .ok s1 => match s1.cohort? i.ck with
        | some c => .next (go i c ms s1)
        | none => .next s
/-- ACCZ (R168). -/
def execAccz (a : Slot) (t : BitVec 9) (s : State) : Out :=
  let fs := [Fld.g a]
  s.accAccess fs true (fun r => tileOf (r.x 0) t.toNat) fun i _ ms s =>
    let s1 := ms.foldl (fun s m => (s.moveQueues m.1 fs []).updCohort i.ck fun c =>
      (c.keep .acc).updTile (tileOf (m.2.x 0) t.toNat) fun x => { x with elems := [] }) s
    s1.retire i false i.fallThrough
/-- ACCWAIT (R168): blocks until no MMA owns a named tile. -/
def execAccwait (a : Slot) (t : BitVec 9) (s : State) : Out :=
  let fs := [Fld.g a]
  s.operands .compute fs fun i ms =>
    let ts := (ms.map fun m => tileOf (m.2.x 0) t.toNat).eraseDups
    let s1 := ms.foldl (fun s m => s.moveQueues m.1 fs []) s
    if ts.all fun t => ((s.core i.core).eng.owners i.ck t).isEmpty then .next (s1.retire i false i.fallThrough)
    else .next ((s1.countProgress i).block i (.accwait ts))
/-- The two elements of a member's slice, as (row, column) (R169). -/
def sliceElems (col : Bool) (sl lane : Nat) : (Nat × Nat) × (Nat × Nat) :=
  let e := 2 * lane
  if col then ((e, sl), (e + 1, sl)) else ((sl, e), (sl, e + 1))
/-- The slice a member names (R169). -/
def sliceNo (x : W32) (imm : BitVec 6) : Nat := (x.toNat % 64 + imm.toNat) % 64
/-- ACCRD (R169, R215). -/
def execAccrd (d a : Slot) (t : BitVec 4) (col : Bool) (i : BitVec 6) (s : State) : Out :=
  let fs := [Fld.dgs d 2, .g a, .g (a + 1)]
  s.accAccess fs false (fun r => tileOf (r.x 1) t.toNat) fun iss c ms s =>
    let lane := fun (x : Thread) => match s.group? iss.run.gk with | some g => g.laneOf x.key.tid | none => 0
    let words := fun (m : Thread × Reads) =>
      let n := tileOf (m.2.x 1) t.toNat
      let e := sliceElems col (sliceNo (m.2.x 2) i) (lane m.1)
      [ScrCell.tile n (64 * e.1.1 + e.1.2), .tile n (64 * e.2.1 + e.2.2)]
    let v := s.see c .acc (ms.flatMap fun m => (words m).map fun x => (m.1.key.tid, x))
    v.2.finish iss fs false (ms.map fun m => (m.1, { g := putWords d ((words m).map (v.1 m.1.key.tid)) }))
/-- ACCWR (R169): the member of highest lane wins. -/
def execAccwr (d a : Slot) (t : BitVec 4) (col : Bool) (i : BitVec 6) (s : State) : Out :=
  let fs := [Fld.gs d 2, .g a, .g (a + 1)]
  s.accAccess fs true (fun r => tileOf (r.x 1) t.toNat) fun iss _ ms s =>
    let lane := fun (x : Thread) => match s.group? iss.run.gk with | some g => g.laneOf x.key.tid | none => 0
    let s1 := ms.foldl (fun s m =>
      let e := sliceElems col (sliceNo (m.2.x 2) i) (lane m.1)
      let put := fun (x : Tile) (p : Nat × Nat) (v : W32) => { x with elems := sput 0 x.elems (64 * p.1 + p.2) v }
      (s.moveQueues m.1 fs []).updCohort iss.ck fun c => (c.keep .acc).updTile (tileOf (m.2.x 1) t.toNat) fun x =>
        put (put x e.1 ((m.2.l 0).getD 0 0)) e.2 ((m.2.l 0).getD 1 0)) s
    s1.retire iss false iss.fallThrough

end Sys2Proof.Machine
end

