-- ==== Sys2Proof/Machine/Sched.lean ====
section
/-! DEFINITION. Issue: which group's entry a free slot takes (R130 to R143, R357, R365, R371, R372, R416), the decay of
throttling scores (R138), and QUEUE_DEADLOCK of a pair (R189). -/

namespace Sys2Proof.Machine

/-! Which groups a slot serves (R133). -/

/-- Whether new runs of a cohort may begin on its core: its context is RUNNING, it is resident, and PREEMPT has not
selected the core (R350). -/
def State.mayBegin (s : State) (ck : CohKey) : Bool :=
  s.cohortRuns ck && (match s.context? ck.ctx, s.cohort? ck with
    | some c, some h => !(c.pre.any fun p => p.1 == h.vcore)
    | none, _ => false
    | _, none => false)
/-! Offers (R132). -/

/-- The ready entries of a stream of a group, in frontier order (R135). -/
def Group.ready (g : Group) (addr : Bool) : List Entry := g.frontier.filter fun en => en.addr == addr && en.wait.isNone
/-- Of a list of entries, the one that has waited longest; ties go to the first. -/
def oldestEntry : List Entry → Option Entry
  | [] => none
  | e :: es =>
    match oldestEntry es with
    | some f => if f.readySince < e.readySince then some f else some e
    | none => some e
/-- The entry a group offers: its highest ready entry, or in throughput mode one that has waited 4,096 clocks (R132). -/
def Group.offer (g : Group) (addr det : Bool) (clock : Nat) : Option Entry :=
  let r := g.ready addr
  if det then r.head?
  else match oldestEntry (r.filter fun en => decide (en.readySince + 4096 ≤ clock)) with
    | some en => some en
    | none => r.head?
/-- How long a group has offered a ready entry without issuing any run (R140). -/
def Group.waited (g : Group) (addr : Bool) (clock : Nat) : Nat :=
  match oldestEntry (g.ready addr) with
  | some en => clock - max g.since en.readySince
  | none => 0

/-! Memory runs and eligibility (R136, R139). -/

/-- The word at an instruction address as the arbiter sees it; none where it cannot be fetched. -/
def State.peekWord (s : State) (core : Nat) (c : Context) (pc : Nat) : Option W32 :=
  match (s.core core).fetchBuf.find? fun e => e.1 == c.id && e.2.1 == pc with
  | some e => some e.2.2
  | none => match s.walk c (.core core) pc with
    | .leaf pte size => match leafOutcome c (w64 pc) .fetch .device pte size with
      | .ok none pa _ => some (w32 (s.readNat pa 4))
      | .ok (some _) _ _ => none
      | .trap _ => none
      | .pinned _ => none
    | .fault _ => none
    | .poison => none
    | .pinned _ => none
/-- The major of a word (R46). -/
def majorOf (w : W32) : Nat := (w.extractLsb' 25 6).toNat
/-- Whether a run that begins at an address is a memory run: `n` words are looked at, up to the first that ends the run
(R136). A word that cannot be fetched ends the look-ahead, and the run then counts as no memory run: DESIGN CHOICE (log entry 86). -/
def memoryRun (peek : Nat → Option W32) : Nat → Nat → Bool
  | 0, _ => false
  | n + 1, pc =>
    match peek pc with
    | none => false
    | some w =>
      (decide (0x28 ≤ majorOf w) && decide (majorOf w ≤ 0x36)) ||
        (!w.getLsbD 31 && memoryRun peek n ((pc + 4) % 2 ^ 56))
/-- Whether an entry heads a memory run (R136). -/
def State.isMemRun (s : State) (core : Nat) (b : Bound) (en : Entry) : Bool :=
  match s.context? b.g.key.ck.ctx with
  | some c => memoryRun (s.peekWord core c) 24 en.pc.toNat
  | none => false
/-- The groups of a cumulative order that stay within CAP, and the first (R139). -/
def withinCap (base cap : Nat) : List (GrpKey × Nat) → Nat → Bool → List GrpKey
  | [], _, _ => []
  | (k, l) :: rest, sum, first =>
    let c := sum + base + l
    (if first || decide (c ≤ cap) then [k] else []) ++ withinCap base cap rest c false
/-- The memory-eligible groups of a core, but for those that have waited 4,096 clocks (R139). -/
def State.eligible (s : State) (core : Nat) : List GrpKey :=
  let ctl := (s.core core).isctl
  let l := ((s.groupsOn core).filter fun p => !s.isDet p.1.key && p.2.frontier.any fun en => en.wait.isNone).map fun p =>
    (p.2.key, p.2.scoreAt ctl s.clock, p.1.residency)
  let lt := fun (x y : GrpKey × Nat × Nat) =>
    decide (y.2.1 < x.2.1) || (x.2.1 == y.2.1 && (decide (x.2.2 < y.2.2) ||
      (x.2.2 == y.2.2 && decide (x.1.gid < y.1.gid))))
  withinCap (ctl.extractLsb' 12 8).toNat (ctl.extractLsb' 0 12).toNat ((sortBy lt l).map fun x => (x.1, x.2.1)) 0 true
/-- Whether throughput group `b` may begin the run its entry heads (R139, R140). -/
def State.mayIssue (s : State) (core : Nat) (b : Bound) (en : Entry) : Bool :=
  !(s.core core).isctl.getLsbD 31 || !s.isMemRun core b en || decide (4096 ≤ b.g.waited b.addr s.clock) ||
    (s.eligible core).contains b.g.key

/-! The choice of a slot (R140, R142, R416). -/

/-- Of bound groups, the one that has waited longest; ties go to the lower %gid, then to the earlier cohort (R140). -/
def longest (clock : Nat) : List (Bound × Entry) → Option (Bound × Entry)
  | [] => none
  | p :: ps =>
    match longest clock ps with
    | none => some p
    | some q =>
      let wp := p.1.g.waited p.1.addr clock
      let wq := q.1.g.waited q.1.addr clock
      if wp < wq then some q
      else if wp == wq && (decide (q.1.g.key.gid < p.1.g.key.gid) ||
          (q.1.g.key.gid == p.1.g.key.gid && decide (q.1.res < p.1.res))) then some q
      else some p
/-- The group a slot takes in throughput mode, with its entry (R140, R372). -/
def State.chooseThroughput (s : State) (core slot : Nat) (bs : List Bound) : Option (Bound × Entry) :=
  let offers := (bs.filter fun b => !b.det && s.mayBegin b.g.key.ck).filterMap fun b =>
    match b.g.offer b.addr false s.clock with
    | some en => if s.mayIssue core b en then some (b, en) else none
    | none => none
  match longest s.clock (offers.filter fun p => decide (4096 ≤ p.1.g.waited p.1.addr s.clock)) with
  | some p => some p
  | none =>
    match ((s.core core).slot slot).served with
    | none => offers.head?
    | some (res, gk) =>
      match offers.find? fun p => decide (res < p.1.res) || (p.1.res == res && decide (gk.gid < p.1.g.key.gid)) with
      | some p => some p
      | none => offers.head?
/-- The group a slot takes in deterministic mode, with its entry: the current group, or at a switch point the ready group
of lowest (launch creation order, %coh, %gid), a yielding group last (R142). -/
def State.chooseDet (s : State) (core slot : Nat) (bs : List Bound) : Option (Bound × Entry) :=
  let sl := (s.core core).slot slot
  let offers := (bs.filter fun b => b.det && s.mayBegin b.g.key.ck).filterMap fun b =>
    (b.g.offer b.addr true s.clock).map fun en => (b, en)
  match offers.find? fun p => decide (sl.detCur = some p.1.g.key) with
  | some p => some p
  | none =>
    let others := offers.filter fun p => decide (sl.detYield ≠ some p.1.g.key)
    let lt := fun (x y : Bound × Entry) =>
      decide (x.1.order < y.1.order) || (x.1.order == y.1.order && (decide (x.1.g.key.ck.coh < y.1.g.key.ck.coh) ||
        (x.1.g.key.ck.coh == y.1.g.key.ck.coh && decide (x.1.g.key.gid < y.1.g.key.gid))))
    (sortBy lt (if others.isEmpty then offers else others)).head?
/-- What a free slot begins: between the modes the slot shares itself run by run (R416). -/
def State.arbitrate (s : State) (core slot : Nat) : Option (Bound × Entry) :=
  let sl := (s.core core).slot slot
  if sl.run.isSome || s.mgmt.thr || decide (s.clock < sl.idleUntil) then none
  else
    let bs := s.boundTo core slot
    let detNext := bs.any (·.det) && (!sl.anyRun || !sl.lastDet || !(bs.any fun b => !b.det))
    let first := if detNext then s.chooseDet core slot bs else s.chooseThroughput core slot bs
    match first with
    | some p => some p
    | none => if detNext then s.chooseThroughput core slot bs else s.chooseDet core slot bs

/-! The run begins. -/

/-- Whether a causal trial of a context is running (R365). -/
def Debug.trial (d : Debug) : Bool := d.cxctl.getLsbD 31
/-- The enabled breakpoints that an address matches (R357). -/
def Debug.breakpoints (d : Debug) (pc : W64) : List Nat :=
  (List.range 8).filter fun n =>
    d.dbgctl.getLsbD 31 && d.dbgctl.getLsbD n && decide (d.bpaddr.getD n 0 &&& 0x00FFFFFFFFFFFFFC#64 = pc)
/-- The entry leaves its frontier and issues in a slot. -/
def State.takeEntry (s : State) (core slot : Nat) (gk : GrpKey) (en : Entry) (single : Bool) : Iss × State :=
  let r : Run := { gk := gk, addr := en.addr, members := en.members, pc := en.pc, startPc := en.pc, e := false, count := 0,
                   noMatch := en.noMatch, single := single, stalledSince := none, waits := [] }
  ({ core := core, slot := slot, run := r },
   (s.updGroup gk fun g => { g with frontier := g.frontier.erase en, since := s.clock }).updSlot core slot fun x =>
     { x with run := some r })
/-- A trial counts a run by where it starts and delays those that start outside its range (R365). -/
def State.countRun (s : State) (core slot : Nat) (ctx : Nat) (pc : W64) : State :=
  match s.context? ctx with
  | none => s
  | some c =>
    if c.dbg.trial then
      let inside := decide (c.dbg.cxlo.toNat ≤ pc.toNat) && decide (pc.toNat < c.dbg.cxhi.toNat)
      let d := c.dbg
      let s1 := s.updContext ctx fun c =>
        { c with dbg := if inside then { d with cxin := d.cxin + 1 } else { d with cxout := d.cxout + 1 } }
      if inside then s1
      else s1.updSlot core slot fun x => { x with idleUntil := s.clock + (d.cxctl.extractLsb' 0 16).toNat }
    else s
/-- An entry stops at breakpoints without issuing (R357). -/
def State.breakAt (s : State) (i : Iss) (hits : List Nat) : State :=
  let bits := hits.foldl (fun (acc : W32) n => acc ||| (1#32 <<< n)) 0
  (s.updContext i.ck.ctx fun c => { c with dbg := { c.dbg with dbgstat := c.dbg.dbgstat ||| bits } }).takeTrap i
    (i.run.members.headD 0) { rank := 7, cause := .breakpoint, info1 := 0x80 }
/-- A selected entry begins its run, or stops at a breakpoint without issuing (R131, R357). -/
def State.beginRun (s : State) (core slot : Nat) (p : Bound × Entry) : State :=
  let gk := p.1.g.key
  let hits := match s.context? gk.ck.ctx with
    | some c => if p.2.noMatch then [] else c.dbg.breakpoints p.2.pc
    | none => []
  let t := s.takeEntry core slot gk p.2 false
  if hits.isEmpty then
    let both := p.1.det || (s.boundTo core slot).any (·.det)
    let s1 := t.2.updSlot core slot fun x =>
      let x := { x with lastDet := p.1.det, anyRun := both && (s.boundTo core slot).any fun b => !b.det }
      if p.1.det then { x with detCur := some gk, detYield := none } else { x with served := some (p.1.res, gk) }
    s1.countRun core slot gk.ck.ctx p.2.pc
  else
    t.2.breakAt t.1 hits
/-- SLOT_ARBITRATION (R140, R142, R416): a free slot chooses a group's offered entry and begins its run. -/
def execSlotArbitration (s : State) : Out :=
  match s.op with
  | .nat2 core slot => match s.arbitrate core slot with
    | some p => .next (s.beginRun core slot p)
    | none => .next s
  | _ => .next s
/-- The scores of the groups on a core decay by the multiples of 1,024 clocks that have passed (R138). -/
def State.decayCore (s : State) (core : Nat) : State :=
  let ctl := (s.core core).isctl
  let here := (s.groupsOn core).map fun p => p.2.key
  s.setGroups (s.groups.map fun g => if here.contains g.key then g.decayTo ctl s.clock else g)
/-- SCORE_DECAY (R138): at each multiple of 1,024 clocks the scores of the groups on a core decay. -/
def execScoreDecay (s : State) : Out :=
  match s.op with
  | .nat core => .next (s.decayCore core)
  | _ => .next s
/-- A core's ISCTL is written (R137): the decays that are due by the old word come first; a zero word selects the reset values. -/
def State.loadIsctl (s : State) (core : Nat) (w : W32) : State :=
  (s.decayCore core).updCore core fun c => { c with isctl := if w = 0 then 0xA2010200 else w }

/-! QUEUE_DEADLOCK (R189). -/

/-- Whether the run has waited on queues for 65,536 clocks. -/
def Run.stuck (r : Run) (clock : Nat) : Bool :=
  match r.stalledSince with
  | some c => !r.waits.isEmpty && decide (c + 65536 ≤ clock)
  | none => false
/-- Whether the address stream of a pair waits on one of its queues for 65,536 clocks. -/
def State.addrStuck (s : State) (core : Nat) (gk : GrpKey) (tid : Nat) : Bool :=
  (s.core core).slots.any fun x => match x.run with
    | some r => r.addr && decide (r.gk = gk) && r.stuck s.clock && r.waits.any fun w => w.1 == tid
    | none => false
/-- Whether no load of a pair is still to fill a queue entry. -/
def State.noPendingFill (s : State) (k : ThKey) : Bool := (s.pairQueues k).all fun q => q.all QEntry.isFull
/-- The member of a compute stream's run whose pair is deadlocked, with the queue it waits on. -/
def State.deadlocked (s : State) (core : Nat) (r : Run) : Option (Nat × Nat) :=
  if r.addr || !r.stuck s.clock then none
  else r.waits.find? fun w =>
    s.addrStuck core r.gk w.1 && s.noPendingFill { ck := r.gk.ck, tid := w.1, addr := false }
/-- QUEUE_DEADLOCK (R189): a pair whose streams have both waited 65,536 clocks on each other traps at the compute stream's
instruction. -/
def execQueueDeadlock (s : State) : Out :=
  match s.op with
  | .nat2 core slot => match ((s.core core).slot slot).run with
    | some r => match s.deadlocked core r with
      | some (t, q) =>
        .next (s.takeTrap { core := core, slot := slot, run := r } t { rank := 7, cause := .queueDeadlock, info1 := w64 q })
      | none => .next s
    | none => .next s
  | _ => .next s

end Sys2Proof.Machine
end

