-- ==== Sys2Proof/Machine/Flue.lean ====
section
/-! DEFINITION. Logical time (R283 to R286), capabilities (R289, R290), count batches, Flue nodes and frontiers (R293 to
R299, R304, R393), the delivery of records to the threads and counters that wait for them (R293, R301, R320), and the
release of frontier waits (R322). -/

namespace Sys2Proof.Machine

/-! Times (R283, R284). -/

/-- Counter i of a logical time (R283). -/
def timeAt (t : W64) (i : Nat) : Nat := (t.extractLsb' (48 - 16 * i) 16).toNat
/-- The time with the given counters. -/
def mkTime (l : List Nat) : W64 :=
  w64 (l.getD 0 0 * 2 ^ 48 + l.getD 1 0 * 2 ^ 32 + l.getD 2 0 * 2 ^ 16 + l.getD 3 0)
/-- Whether a time is well formed for a depth (R283). -/
def timeOk (depth : Nat) (t : W64) : Bool := (List.range 4).all fun i => decide (i < depth) || timeAt t i == 0
/-- Product order (R284). -/
def timeLe (t u : W64) : Bool := (List.range 4).all fun i => decide (timeAt t i ≤ timeAt u i)
/-- The meet of two times (R284). -/
def timeMeet (t u : W64) : W64 := mkTime ((List.range 4).map fun i => min (timeAt t i) (timeAt u i))
/-- A time whose counters at a depth and beyond read as zero (R120, R292). -/
def timeMask (depth : Nat) (t : W64) : W64 :=
  mkTime ((List.range 4).map fun i => if i < depth then timeAt t i else 0)

/-! The graph (R285, R286). -/

/-- One step of a summary on a time of a depth; none where its requirement fails (R286). -/
def applyStep (x : Nat × W64) : SumStep → Option (Nat × W64)
  | .enter => if x.1 < 4 then some (x.1 + 1, x.2) else none
  | .inc =>
    if x.1 == 0 || timeAt x.2 (x.1 - 1) == 0xFFFF then none
    else some (x.1, x.2 + w64 (2 ^ (48 - 16 * (x.1 - 1))))
  | .leave => if x.1 == 0 then none else some (x.1 - 1, timeMask (x.1 - 1) x.2)
/-- Apply(s, t) of R286 on a time of a depth. -/
def applySum : List SumStep → Nat → W64 → Option W64
  | [], _, t => some t
  | st :: rest, depth, t =>
    match applyStep (depth, t) st with
    | some x => applySum rest x.1 x.2
    | none => none
/-- The number of locations. -/
def Graph.nloc (g : Graph) : Nat := g.depths.length
/-- The depth of a location. -/
def Graph.depth (g : Graph) (l : Nat) : Nat := g.depths.getD l 0
/-- The time at the end of an edge. -/
def Graph.along (g : Graph) (e : Edge) (t : W64) : Option W64 := applySum (g.sums.getD e.sum []) (g.depth e.src) t
/-- Whether a capability at a count key covers another (R290). -/
def Graph.covers (g : Graph) (k : Nat) (t : W64) (l : Nat) (u : W64) : Bool :=
  (k == l && timeLe t u) ||
  g.edges.any fun e => e.src == k && e.dst == l && (match g.along e t with | some b => timeLe b u | none => false)

/-! Frontiers (R297, R298). -/

/-- The minimal elements of a set, without repeats, in lexicographic order. -/
def minTimes (a : List W64) : List W64 :=
  let d := sortBy (fun (x y : W64) => decide (x.toNat < y.toNat)) a.eraseDups
  d.filter fun u => !d.any fun v => decide (v ≠ u) && timeLe v u
/-- Reduce of R297. -/
def reduceTimes (a : List W64) : List W64 :=
  if a.length ≤ 4 then a
  else match a.drop 3 with
    | [] => a
    | x :: rest => minTimes (a.take 3 ++ [rest.foldl timeMeet x])
/-- The new set of a location from its own times and the sets of its edges' sources (R297). -/
def Graph.newSet (g : Graph) (own : Nat → List W64) (f : List (List W64)) (l : Nat) : List W64 :=
  reduceTimes (minTimes (own l ++ (g.edges.filter fun e => e.dst == l).flatMap fun e =>
    (f.getD e.src []).filterMap fun a => g.along e a))
/-- One pass over the locations in ascending order (R297). -/
def Graph.pass (g : Graph) (own : Nat → List W64) (f : List (List W64)) : List (List W64) :=
  (List.range g.nloc).foldl (fun f l => f.set l (g.newSet own f l)) f
/-- Passes until nothing changes (R297). -/
def Graph.settle (g : Graph) (own : Nat → List W64) : Nat → List (List W64) → List (List W64)
  | 0, f => f
  | fuel + 1, f =>
    let f' := g.pass own f
    if f' = f then f else g.settle own fuel f'
/-- F of R297. -/
def Graph.frontier (g : Graph) (own : Nat → List W64) : List (List W64) :=
  g.settle own (2 ^ 20) (List.replicate g.nloc [])
/-- I of R297, from the final F of the sources. -/
def Graph.inputs (g : Graph) (inFlight : Nat → List W64) (f : List (List W64)) : List (List W64) :=
  (List.range g.nloc).map fun l => g.newSet inFlight f l
/-- A reported frontier has passed a time (R298). -/
def passed (a : List W64) (t : W64) : Bool := !a.any fun x => timeLe x t
/-- A newly computed set replaces the reported one only when it has progressed (R298). -/
def reportOf (old new : List W64) : List W64 :=
  if new.all fun e => old.any fun o => timeLe o e then new else old
/-- Reports of every location (R298). -/
def reportAll (old new : List (List W64)) : List (List W64) :=
  (List.range new.length).map fun l => reportOf (old.getD l []) (new.getD l [])

/-! Counts (R287, R295). -/

/-- Adds to the count of a count key; a count of zero is not kept. -/
def addCount (l : List Count) (loc : Nat) (t : W64) (d : Int) : List Count :=
  let has := l.any fun x => x.loc == loc && decide (x.time = t)
  let l1 := if has then l.map fun x => if x.loc == loc && decide (x.time = t) then { x with n := x.n + d } else x
    else l ++ [{ loc := loc, time := t, n := d }]
  l1.filter fun x => decide (x.n ≠ 0)
/-- Adds to the part of the counts that a member sourced (R397). -/
def addBySrc (l : List (Nat × Count)) (v loc : Nat) (t : W64) (d : Int) : List (Nat × Count) :=
  let is := fun (x : Nat × Count) => x.1 == v && x.2.loc == loc && decide (x.2.time = t)
  let l1 := if l.any is then l.map fun x => if is x then (x.1, { x.2 with n := x.2.n + d }) else x
    else l ++ [(v, { loc := loc, time := t, n := d })]
  l1.filter fun x => decide (x.2.n ≠ 0)
/-- One change at a node. -/
def FlueNode.change (n : FlueNode) (v : Nat) (c : CountChange) : FlueNode :=
  { n with counts := addCount n.counts c.loc c.time c.delta, bySrc := addBySrc n.bySrc v c.loc c.time c.delta }
/-- A node with no counts, reporting nothing outstanding. -/
def FlueNode.fresh (nloc : Nat) : FlueNode :=
  { counts := [], bySrc := [], f := List.replicate nloc [], i := List.replicate nloc [], next := [] }
/-- The sequence number a node expects of a source. -/
def FlueNode.expects (n : FlueNode) (v src : Nat) : Nat := kget 0 n.next (v, src)
/-- Whether a node may apply a batch of a source next: the one it expects, or the first that reaches it (R295, R393). -/
def FlueNode.accepts (n : FlueNode) (v src seq : Nat) : Bool :=
  seq == n.expects v src || !(n.next.any fun p => decide (p.1 = (v, src)))
/-- A node applies the changes of a batch whole, increments before decrements, and counts the batch (R295). -/
def FlueNode.applyChanges (n : FlueNode) (v src seq : Nat) (ch : List CountChange) : FlueNode :=
  let m := ch.foldl (fun n c => n.change v c) n
  { m with next := kput m.next (v, src) ((seq + 1) % 2 ^ 32) }
/-- A node applies a batch whole: increments before decrements (R295). -/
def FlueNode.applyBatch (n : FlueNode) (b : Batch) : FlueNode := n.applyChanges b.vdev b.srcId b.seq (b.incs ++ b.decs)
/-- The net counts that a member sourced are retired at a node (R397). -/
def FlueNode.retire (n : FlueNode) (v : Nat) : FlueNode :=
  let l := n.bySrc.filter fun x => x.1 == v
  l.foldl (fun n x => { n with counts := addCount n.counts x.2.loc x.2.time (-x.2.n) })
    { n with bySrc := n.bySrc.filter fun x => x.1 != v }
/-- What a node holds of its own device goes by the device's new number in the job (R383). -/
def FlueNode.renumber (n : FlueNode) (old new : Nat) : FlueNode :=
  let f := fun (v : Nat) => if v == old then new else v
  { n with bySrc := n.bySrc.map fun x => (f x.1, x.2), next := n.next.map fun x => ((f x.1.1, x.1.2), x.2) }
/-- The counts of its own device that a node holds. -/
def FlueNode.ownCounts (n : FlueNode) (v : Nat) : List CountChange :=
  (n.bySrc.filter fun x => x.1 == v).map fun x => { loc := x.2.loc, time := x.2.time, delta := x.2.n }
/-- Own(L) of a node (R297). -/
def FlueNode.own (n : FlueNode) (l : Nat) : List W64 := (n.counts.filter fun x => x.loc == l).map (·.time)
/-- A node recomputes its frontiers and reports them (R297, R298). -/
def FlueNode.recompute (n : FlueNode) (g : Graph) (inFlight : Nat → List W64) : FlueNode :=
  let f := g.frontier n.own
  { n with f := reportAll n.f f, i := reportAll n.i (g.inputs inFlight f) }
/-- The die on which a virtual core runs now, whose Flue node its threads test (R298, R322, R352). -/
def Context.runsOn (c : Context) (v : Nat) : Nat := physDie (c.phys v)
/-- The Flue node of a die. -/
def Context.node (c : Context) (die : Nat) : FlueNode := c.nodes.getD die (FlueNode.fresh 0)
/-- Whether the Flue node of a die has stopped at the halt line (R304). -/
def Context.flueStopped (c : Context) (die : Nat) : Bool := c.stopped.contains (.flue die)

/-- The source identifier of a core, a copy engine, a frame trigger unit or the host interface (R295). -/
def coreSrc (vcore : Nat) : Nat := vcore
/-- The source identifier of a copy engine. -/
def engineSrc (k : Nat) : Nat := 0x2000 + k % 32
/-- The source identifier of a frame trigger unit. -/
def triggerSrc (k : Nat) : Nat := 0x4000 + k
/-- The source identifier of the host interface. -/
def hostSrc : Nat := 0x6000
/-- The number under which the state holds a virtual engine of a context. -/
def engAt (ctx e : Nat) : Nat := 32 * ctx + e
/-- The virtual number of an engine (R264). -/
def engNo (k : Nat) : Nat := k % 32
/-- The virtual die on which an engine sits (R264). -/
def engineDie (k : Nat) : Nat := engNo k / 8
/-- A source forms a batch of count changes (R295): increments, then decrements; no change forms none. -/
def Context.form (c : Context) (src home : Nat) (ch : List CountChange) : Context :=
  if ch.isEmpty then c
  else
    let n := aget 0 c.batchSeq src
    let b : Batch := { srcId := src, vdev := c.self, seq := n, incs := ch.filter fun x => decide (0 < x.delta),
                       decs := ch.filter fun x => decide (x.delta < 0), home := home, applied := [], peers := [],
                       stepped := c.stepping.isSome }
    { c with batches := c.batches ++ [b], batchSeq := aput c.batchSeq src ((n + 1) % 2 ^ 32) }
/-- The batch a source will form next, by source and sequence number. -/
def Context.nextBatchId (c : Context) (src : Nat) : Nat × Nat := (src, aget 0 c.batchSeq src)
/-- A source of a context forms a batch. -/
def State.form (s : State) (ctx src home : Nat) (ch : List CountChange) : State :=
  s.updContext ctx fun c => c.form src home ch
/-- A count change. -/
def chg (loc : Nat) (t : W64) (d : Int) : CountChange := { loc := loc, time := t, delta := d }

/-- The count keys a context holds or is about to hold. -/
def Context.keys (c : Context) : List (Nat × W64) :=
  ((c.nodes.flatMap fun n => n.counts.map fun x => (x.loc, x.time)) ++
    c.batches.flatMap fun b => b.incs.map fun x => (x.loc, x.time)).eraseDups
/-- FSHARE of a partition, in count keys (R354). -/
def State.flueShare (s : State) (part : Nat) : Nat := 1024 * leAt (s.mgmt.parts.getD part []) 36 2
/-- Whether the nodes can take the new count keys of an event (R294). -/
def State.keyRoom (s : State) (c : Context) (ch : List CountChange) : Bool :=
  let held := c.keys
  let new := (((ch.filter fun x => decide (0 < x.delta)).map fun x => (x.loc, x.time)).eraseDups).filter fun k =>
    !held.contains k
  let all := ((s.contexts.filter fun x => x.desc.part == c.desc.part).map fun x => x.keys.length).foldl (· + ·) 0
  new.isEmpty || (decide (held.length + new.length ≤ 65536) && decide (all + new.length ≤ s.flueShare c.desc.part))

/-! Capabilities (R289, R290, R320). -/

/-- Adds counts to a capability table. -/
def capAdd (caps : List Cap) (loc : Nat) (t : W64) (n : Nat) : List Cap :=
  if caps.any fun x => x.loc == loc && decide (x.time = t) then
    caps.map fun x => if x.loc == loc && decide (x.time = t) then { x with count := x.count + n } else x
  else caps ++ [{ loc := loc, time := t, count := n }]
/-- Takes one count from an entry; an entry whose count reaches zero is freed (R290). -/
def capTake (caps : List Cap) (loc : Nat) (t : W64) : List Cap :=
  (caps.map fun x => if x.loc == loc && decide (x.time = t) then { x with count := x.count - 1 } else x).filter fun x =>
    x.count != 0
/-- Whether a table holds a count key. -/
def capHas (caps : List Cap) (loc : Nat) (t : W64) : Bool := caps.any fun x => x.loc == loc && decide (x.time = t)
/-- The receives of a cohort that wait for a record. -/
def Context.recvsOf (c : Context) (ck : CohKey) : List RecvWait := c.recvs.filter fun w => decide (w.key.ck = ck)
/-- The entries that waiting receives reserve beside a table (R320). -/
def reservedCaps (ws : List RecvWait) (caps : List Cap) : Nat :=
  (((ws.filterMap fun w => w.t.map fun t => (w.loc, t)).eraseDups).filter fun k => !capHas caps k.1 k.2).length +
    (ws.filter fun w => w.t.isNone).length
/-- The counts that waiting receives may still add to an entry (R320). -/
def pendingCaps (ws : List RecvWait) (x : Cap) : Nat :=
  (ws.filter fun w => w.loc == x.loc && (match w.t with | none => true | some t => decide (t = x.time))).length
/-- Whether a table with what is reserved beside it fits 16 entries of at most 65,535 counts (R289, R291, R320). -/
def capsFit (ws : List RecvWait) (caps : List Cap) : Bool :=
  decide (caps.length + reservedCaps ws caps ≤ 16) && caps.all fun x => decide (x.count + pendingCaps ws x ≤ 65535)
/-- Whether the cohort's table or its launch's capability covers a count key (R290). -/
def Context.covered (c : Context) (l : Option Launch) (caps : List Cap) (loc : Nat) (u : W64) : Bool :=
  (caps.any fun x => c.graph.covers x.loc x.time loc u) ||
  (match l with
    | some l => l.holdsCap && c.graph.covers l.hdr.donech l.hdr.intime loc u
    | none => false)

/-! Frontier waits (R322) and reports. -/

/-- The location and time at which a timed copy of a context lands, while it has not landed (R288, R297). -/
def State.timedKey (s : State) (ctx : Nat) (q : CopyReq) : Option (Nat × W64) :=
  if q.ck.ctx == ctx && q.counted && (match q.status with
      | .queued | .active | .waitSlot => true
      | .complete | .failed _ _ | .cancelled => false) then
    (s.launch? q.ck.ctx q.ck.launch).map fun l => (l.hdr.donech, w64 (leAt q.line 32 8))
  else none
/-- The times of records emitted but not delivered, the host's held ones among them, and of timed copies not yet landed, those that wait in a
saved cohort among them, by location (R297). -/
def State.inFlightTimes (s : State) (c : Context) : List (Nat × W64) :=
  ((c.records.filter fun r => !r.delivered).map fun r => (r.loc, r.time)) ++
  (c.hostHold.map fun p => (c.desc.hostch, p.1)) ++
  ((s.engines.flatMap fun e => e.2.queue) ++ (s.cohorts.flatMap fun h => h.slotWaiting.map (·.2))).filterMap (s.timedKey c.id)
/-- Whether every target of a frontier wait has passed at the node of the waiting core's die (R298, R322). -/
def Context.fwaitOver (c : Context) (die : Nat) (targets : List (Nat × Nat × W64)) : Bool :=
  targets.all fun p => passed ((c.node die).f.getD p.2.1 []) p.2.2
/-- Members acquire what a frontier wait or a record orders before them (R210): the clean GEN lines of their core. -/
def State.acquireWide (s : State) (ck : CohKey) : State :=
  match s.coreOf ck with
  | some c => s.dropClean c
  | none => s
/-- Frontier waits of a cohort that are over go on: an acquire, and the phase id ⟨FW, L, t⟩ (R218, R322). -/
def State.releaseFwait (s : State) (ck : CohKey) : State :=
  match s.context? ck.ctx, s.cohort? ck with
  | some c, some h =>
    match h.st with
    | .resident v =>
      let isOver := fun (w : Wait) => match w with
        | .fwait ts => c.fwaitOver (c.runsOn v) ts
        | .bar _ | .arrive _ | .nbar _ _ | .recv _ _ _ | .accwait _ => false
      let ts := (s.groups.filter fun g => decide (g.key.ck = ck)).flatMap fun g => g.frontier.flatMap fun en =>
        match en.wait with
        | some (.fwait ts) => if isOver (.fwait ts) then ts else []
        | some (.bar _) => [] | some (.arrive _) => [] | some (.nbar _ _) => [] | some (.recv _ _ _) => []
        | some (.accwait _) => [] | none => []
      if ts.isEmpty then s
      else
        let s1 := ts.foldl (fun s p => s.formPhase { ck := ck, tid := p.1, addr := false } (.fw p.2.1 p.2.2)) s
        (s1.acquireWide ck).releaseEntries ck fun w _ => isOver w
    | .waiting => s
    | .saved _ => s
    | .killed _ => s
  | some _, none => s
  | none, _ => s
/-- The nodes of a context that have not stopped recompute and report their frontiers (R297, R298); frontier waits that
are over go on (R322). -/
def State.recompute (s : State) (ctx : Nat) : State :=
  match s.context? ctx with
  | none => s
  | some c =>
    let fl := s.inFlightTimes c
    let times := fun l => (fl.filter fun p => p.1 == l).map (·.2)
    let nodes := (List.range c.nodes.length).map fun d =>
      if c.flueStopped d then c.node d else (c.node d).recompute c.graph times
    let s1 := s.updContext ctx fun c => { c with nodes := nodes }
    ((s1.cohorts.filter fun h => h.key.ctx == ctx).map (·.key)).foldl (fun s ck => s.releaseFwait ck) s1

/-! The record store (R293). -/

/-- The lowest places of the record store that hold no record. -/
def Context.freeSlots (c : Context) (n : Nat) : List Nat :=
  ((List.range (c.records.length + n)).filter fun k => !c.records.any fun r => r.slot == k).take n
/-- Bytes that the manual does not state. -/
def State.freeBytes (s : State) (n : Nat) : Bytes × State :=
  ((List.range n).map fun k => (Config.freeWord (s.free + k)).extractLsb' 0 8, { s with free := s.free + n })
/-- A record takes its 128 bytes of the store at RSBASE, through the context's translation (R293, R344). What they hold, and what becomes of
the bytes where the page cannot be written, are not stated: they are free bytes, and a page that the slices cannot write now keeps what
it holds: DESIGN CHOICE (log entry 42). -/
def State.storeRecord (s : State) (ctx slot : Nat) : State :=
  match s.context? ctx with
  | none => s
  | some c =>
    let va := c.desc.rsbase + w64 (128 * slot)
    let b := s.freeBytes 128
    let r := b.2.xlate c 0 deviceSrc va .store .device
    match r.1 with
    | .ok none pa _ => if (linesOf pa 128).any (r.2.refused deviceSrc) then r.2 else r.2.writePhys pa (b.1.map some)
    | .ok (some _) _ _ | .trap _ | .pinned _ => r.2
/-- A record enters the record store of a context, and takes the next number there (R293). -/
def State.addRecord (s : State) (ctx : Nat) (r : Record) : State :=
  match s.context? ctx with
  | none => s
  | some c =>
    let slot := (c.freeSlots 1).headD 0
    (s.updContext ctx fun c => { c with records := c.records ++ [{ r with id := c.nextRecord, slot := slot }], nextRecord := c.nextRecord + 1 }).storeRecord
      ctx slot

/-! Delivery (R293, R301, R320). -/

/-- An arrival at a count key decrements CCOUNT of the counters armed there (R301). -/
def Context.arrival (c : Context) (loc : Nat) (t : W64) : Context :=
  { c with counters := c.counters.map fun k =>
      if k.loc == loc && decide (k.ctime = t) then { k with ccount := k.ccount - 1 } else k }
/-- Whether a delivered record matches a receive (R293). -/
def RecvWait.takes (w : RecvWait) (r : Record) : Bool :=
  r.delivered && r.loc == w.loc && (match w.t with | none => true | some t => decide (r.time = t))
/-- A record is assigned to a waiting member (R320): the payload, the time, %time and the capability. -/
def State.assignRecord (s : State) (w : RecvWait) (r : Record) : State :=
  let ck := w.key.ck
  let s1 := s.updContext ck.ctx fun c =>
    { c with records := c.records.filter fun x => x.id != r.id, recvs := c.recvs.erase w }
  let s2 := if r.counted then s1.updCohort ck fun h => { h with caps := capAdd h.caps r.loc r.time 1 } else s1
  let s3 := s2.updThread w.key fun t =>
    let t1 := (putWords w.d (wordsOf r.payload)).foldl (fun t p => t.writeSlot p.1 p.2) t
    let t2 := (putWords w.b [lo32 r.time, hi32 r.time]).foldl (fun t p => t.writeSlot p.1 p.2) t1
    { t2 with time := r.time }
  let s4 := s3.setGroups (s3.groups.map fun g =>
    if g.key.ck = ck then
      { g with frontier := g.frontier.map fun en =>
          match en.wait with
          | some (.recv d b un) =>
            if en.addr == w.key.addr && en.members.contains w.key.tid then
              { en with wait := some (.recv d b (un.filter fun t => t != w.key.tid)) }
            else en
          | some (.bar _) => en | some (.arrive _) => en | some (.nbar _ _) => en | some (.fwait _) => en
          | some (.accwait _) => en | none => en }
    else g)
  (s4.acquireWide ck).releaseEntries ck fun x _ => match x with
    | .recv _ _ un => un.isEmpty
    | .bar _ | .arrive _ | .nbar _ _ | .fwait _ | .accwait _ => false
/-- Whether a cohort is on a core. -/
def State.onCore (s : State) (ck : CohKey) : Bool :=
  match s.cohort? ck with
  | some h => (match h.st with | .resident _ => true | .waiting => false | .saved _ => false | .killed _ => false)
  | none => false
/-- The virtual core of a cohort. -/
def State.vcoreOf (s : State) (ck : CohKey) : Nat :=
  match s.cohort? ck with
  | some h => h.vcore
  | none => 0
/-- A core forms a batch on behalf of a cohort. -/
def State.formFor (s : State) (ck : CohKey) (ch : List CountChange) : State :=
  let v := s.vcoreOf ck
  s.form ck.ctx (coreSrc v) (match s.context? ck.ctx with | some c => c.runsOn v | none => 0) ch
/-- Delivered records are assigned to the receives that wait, in the order of their executions, oldest record first; the
changes of one cohort form one batch (R288, R320). -/
def State.assignAll (s : State) (ctx : Nat) : State :=
  match s.context? ctx with
  | none => s
  | some c =>
    let r := c.recvs.foldl (fun (acc : State × List (CohKey × CountChange)) w =>
      if !acc.1.onCore w.key.ck then acc
      else match (acc.1.context? ctx).bind fun c => c.records.find? w.takes with
        | none => acc
        | some rec =>
          (acc.1.assignRecord w rec,
           if rec.counted then acc.2 ++ [(w.key.ck, chg rec.loc rec.time 1), (w.key.ck, chg rec.loc rec.time (-1))]
           else acc.2)) (s, [])
    ((r.2.map (·.1)).eraseDups).foldl (fun s ck =>
      s.formFor ck ((r.2.filter fun p => decide (p.1 = ck)).map (·.2))) r.1
/-- Records of a context become delivered, in emission order: counters count them, and receives take them (R293, R301). -/
def State.deliver (s : State) (ctx : Nat) (p : Record → Bool) : State :=
  let s1 := s.updContext ctx fun c =>
    let now := c.records.filter fun r => !r.delivered && p r
    let c1 := now.foldl (fun c r => c.arrival r.loc r.time) c
    { c1 with records := (c.records.filter fun r => r.delivered || !p r) ++ now.map fun r => { r with delivered := true } }
  s1.assignAll ctx
/-- Whether two batches are the same one: source and sequence number. -/
def Batch.same (x y : Batch) : Bool := x.vdev == y.vdev && x.srcId == y.srcId && x.seq == y.seq
/-- Every node of the job has applied a batch: its records are delivered (R293, R393). -/
def State.batchOver (s : State) (ctx : Nat) (b : Batch) : State :=
  (s.updContext ctx fun c => { c with batches := c.batches.filter fun x => !x.same b }).deliver ctx fun r =>
    decide (r.batch = some (b.srcId, b.seq))
/-- A batch of this device leaves for the other members of its job (R393). -/
def State.sendAway (s : State) (c : Context) (peers : List Nat) (b : Batch) : State :=
  let away := fun (x : Batch) => { x with peers := peers, left := true }
  let d : Context := { c with batches := updWhere (fun x => x.same b) away c.batches }
  s.putSent (d.ctlAll peers (.flue { srcId := b.srcId, seq := b.seq, vdev := b.vdev, incs := b.incs, decs := b.decs }))
/-- The members that a batch of a device must reach: all others of its job (R393). -/
def Context.peersOf (c : Context) : List Nat := if c.pod.damper = .none then [] else c.liveMembers.filter fun m => m != c.self
/-- Every node of the device has applied a batch (R295): one of another member is over here; one of its own leaves for the other members
in a job (R393), unless it has left, and is over once they have applied it. -/
def State.batchDone (s : State) (ctx : Nat) (b : Batch) : State :=
  match s.context? ctx with
  | none => s
  | some c =>
    if b.vdev != c.self then s.updContext ctx fun c => { c with batches := c.batches.filter fun x => !x.same b }
    else if b.left then (if b.peers.isEmpty then s.batchOver ctx b else s)
    else if c.peersOf.isEmpty then s.batchOver ctx b
    else s.sendAway c c.peersOf b
/-- Whether a node has still to apply a batch. -/
def Batch.waitsAt (b : Batch) (die : Nat) : Bool := !b.applied.contains die
/-- The batch a node applies next of a source: in sequence order, at its source's own node first (R295), none while the
node has stopped (R304). A decrement follows every increment of its count key that was formed before it, so that no count falls below
zero (R295). -/
def Context.nextBatch (c : Context) (die v src : Nat) : Option Batch :=
  if die < c.nodes.length && !c.flueStopped die then
    (c.batches.find? fun b => b.vdev == v && b.srcId == src && (c.node die).accepts v src b.seq &&
      b.waitsAt die && (v != c.self || die == b.home || b.applied.contains b.home)).filter fun b =>
        !((c.batches.takeWhile fun x => !x.same b).any fun x => x.waitsAt die &&
          x.incs.any fun y => b.decs.any fun z => y.loc == z.loc && decide (y.time = z.time))
  else none
/-- A node applies a batch, and the frontiers follow (R295, R297). -/
def State.applyBatch (s : State) (c : Context) (die : Nat) (b : Batch) : State :=
  let done := (List.range c.nodes.length).all fun d => d == die || b.applied.contains d
  let s1 := s.updContext c.id fun c =>
    { c with nodes := c.nodes.set die ((c.node die).applyBatch b),
             batches := c.batches.map fun x => if x.same b then { x with applied := x.applied ++ [die] } else x }
  (if done then s1.batchDone c.id b else s1).recompute c.id
/-- The first batch of a source of this device that another member has still to apply: members apply one source's batches in order (R393). -/
def Context.nextAway (c : Context) (m src : Nat) : Option Batch :=
  if c.st = .running then c.batches.find? fun b => b.vdev == c.self && b.srcId == src && b.peers.contains m else none
/-- Another member has applied a batch of this device whole, or will not (R393): the batch is over once every node of the job has. -/
def State.appliedAway (s : State) (ctx m : Nat) (b : Batch) : State :=
  let s1 := s.updContext ctx fun c =>
    { c with batches := updWhere (fun x => x.same b) (fun x => { x with peers := x.peers.erase m }) c.batches }
  let isOver := match s1.context? ctx with
    | some c => c.batches.any fun x => x.same b && x.peers.isEmpty && (List.range c.nodes.length).all x.applied.contains
    | none => false
  if isOver then (s1.batchOver ctx b).recompute ctx else s1
/-- The number under which another member's nodes stand beside the nodes of the device. -/
def awayNode (m : Nat) : Nat := 4096 + m
/-- FLUE_BATCH_APPLY (R295, R393): a Flue node applies the next batch of a source, named by its virtual device and source
identifier, and recomputes its frontiers; or the nodes of another member have applied one. That the source learns it, which no message of R382
tells, is DEDUCED from R393 (log entry 41). -/
def execFlueBatchApply (s : State) : Out :=
  match s.op with
  | .nat3 ctx die src =>
    match s.context? ctx with
    | none => .next s
    | some c =>
      if 4096 ≤ die then
        match c.nextAway (die - 4096) (src % 65536) with
        | none => .next s
        | some b => .next (s.appliedAway ctx (die - 4096) b)
      else match c.nextBatch die (src / 65536) (src % 65536) with
        | none => .next s
        | some b => .next (s.applyBatch c die b)
  | _ => .next s

end Sys2Proof.Machine
end

