-- ==== Sys2Proof/Machine/Image.lean ====
section
/-! DEFINITION. The save area (R353): the image of a cohort, its bytes as the device writes them and what it takes back from them. The
manual names the parts of an image and their fields in order; the places of the fields within a part are the model's: DESIGN CHOICE (log
entry 82). -/

namespace Sys2Proof.Machine

/-! Writing (R353). -/

/-- The threads and streams of a cohort in the order of their records: ascending %tid, the compute stream of a pair first. -/
def State.imageThreads (s : State) (ck : CohKey) : List Thread :=
  sortBy (fun (x y : Thread) => decide (x.key.tid < y.key.tid) || (x.key.tid == y.key.tid && !x.key.addr && y.key.addr))
    (s.threads.filter fun t => decide (t.key.ck = ck))
/-- The place of a thread in its group's frontier, and its entry; none while it is pending at a JOIN or has exited. -/
def Group.entryOf (g : Group) (k : ThKey) : Option (Nat × Entry) :=
  ((List.range g.frontier.length).zip g.frontier).find? fun p => p.2.addr == k.addr && p.2.members.contains k.tid
/-- The loads of a thread that still have to fill entries of its queues (R188). -/
def State.pendingLdq (s : State) (k : ThKey) : Nat :=
  (s.reqs.filter fun r => decide (r.key = k) && (match r.dest with
    | .queue _ _ => true
    | .none | .regs _ | .wreg _ => false)).length
/-- The 64-byte record of a thread, its fields in the order of R353. -/
def State.threadRecord (s : State) (t : Thread) : Bytes :=
  let g := s.group? { ck := t.key.ck, gid := t.gid }
  let e := g.bind fun g => g.entryOf t.key
  let pc := match t.join, e with
    | some j, _ => j.pc
    | none, some e => e.2.pc
    | none, none => 0
  natLe 8 pc.toNat ++ natLe 2 (match e with | some e => e.2.prio | none => 0) ++ natLe 2 t.wb ++ natLe 4 t.visit.toNat ++
    natLe 8 t.status.toNat ++ natLe 8 t.xpc.toNat ++ natLe 8 (if t.xsup then 1 else 0) ++ natLe 8 t.time.toNat ++ natLe 2 t.gid ++
    natLe 1 (match g with | some g => g.laneOf t.key.tid | none => 0) ++ natLe 1 (if t.key.addr then 1 else 0) ++
    natLe 2 (match t.join with | some j => j.key.toNat | none => 0) ++ natLe 2 (match t.join with | some j => s.clock - j.since | none => 0) ++
    natLe 2 (match e with | some e => e.1 | none => 0) ++ natLe 2 (s.pendingLdq t.key) ++ natLe 4 0
/-- The general registers of a thread, then its spectral ones, in register order. -/
def Thread.regBytes (t : Thread) : Bytes := (List.range t.gallot).flatMap fun k => bytesOfWord (sget 0 t.regs k)
/-- The spectral registers of a thread in register order. -/
def Thread.wregBytes (t : Thread) : Bytes := (List.range t.wallot).flatMap fun k => bytesOfWords (samples (sget 0 t.wregs k))
/-- A tile of an image: its number, then its 4,096 elements. -/
def Tile.bytes (t : Tile) : Bytes := natLe 4 t.no ++ (List.range 4096).flatMap fun k => bytesOfWord (sget 0 t.elems k)
/-- The parts of an image after its header, in the order of R353. The bytes of the frontiers, the queues and the barriers, whose
coding is not stated, are free bytes from a place on. -/
def State.imageParts (s : State) (h : Cohort) (base : Nat) : List Bytes :=
  let ts := s.imageThreads h.key
  let free := fun (at' n : Nat) => (List.range n).map fun k => (Config.freeWord (base + at' + k)).extractLsb' 0 8
  let groups := (s.groups.filter fun g => decide (g.key.ck = h.key)).length
  [ts.flatMap s.threadRecord, free 0 (64 * groups), ts.flatMap Thread.regBytes ++ ts.flatMap Thread.wregBytes,
   free 4096 (256 * h.queues.length), free 1048576 4096,
   (List.range 16).flatMap fun k => match h.caps[k]? with
     | some c => natLe 4 c.loc ++ natLe 4 c.count ++ natLe 8 c.time.toNat
     | none => natLe 16 0,
   h.slotWaiting.flatMap fun p => p.2.line ++ natLe 8 p.2.seq ++ natLe 8 p.1,
   (List.range h.scratchSize).map fun k => sget 0 h.scratch k, h.tiles.flatMap Tile.bytes]
/-- Where each of a list of parts begins, from an offset up. -/
def partOffsets : Nat → List Bytes → List Nat
  | _, [] => []
  | off, p :: ps => off :: partOffsets (off + p.length) ps
/-- The header of an image. -/
def State.imageHeader (s : State) (h : Cohort) (parts : List Bytes) : Bytes :=
  let fields := natLe 4 h.key.launch ++ natLe 4 h.key.coh ++ natLe 4 (s.imageThreads h.key).length ++ natLe 4 h.tiles.length ++
    natLe 4 h.scratchSize ++ (partOffsets 256 parts).flatMap (natLe 4)
  let raw := match s.launch? h.key.ctx h.key.launch with
    | some l => (l.hdr.raw ++ List.replicate 64 0).take 64
    | none => List.replicate 64 0
  ((fields ++ List.replicate 64 0).take 64 ++ raw ++ List.replicate 256 0).take 256
/-- The image of a cohort, in units of 256 bytes. -/
def State.imageOf (s : State) (h : Cohort) : Bytes × State :=
  let parts := s.imageParts h s.free
  let b := s.imageHeader h parts ++ parts.flatten
  (b ++ List.replicate ((256 - b.length % 256) % 256) 0, { s with free := s.free + 2 ^ 21 })

/-! Reading. -/

/-- The entries of a map in canonical form, from its values in key order. -/
def sparseOf {α : Type} [DecidableEq α] (dflt : α) (l : List α) : Sparse α :=
  ((List.range l.length).zip l).filter fun p => decide (p.2 ≠ dflt)
/-- Packets of a list of words. -/
def packetsOf : List W32 → List W128
  | a :: b :: c :: d :: rest => packet a b c d :: packetsOf rest
  | _ => []
/-- A part of an image: its bytes from where it begins in the cohort as it was saved. -/
def imagePart (b : Bytes) (parts : List Bytes) (k : Nat) : Bytes :=
  (b.drop ((partOffsets 256 parts).getD k 0)).take ((parts.getD k []).length)
/-- Where the registers of each thread begin among those of a list: general and spectral ones. -/
def regPlaces : Nat → Nat → List Thread → List (ThKey × Nat × Nat)
  | _, _, [] => []
  | g, w, t :: ts => (t.key, g, w) :: regPlaces (g + 4 * t.gallot) (w + 16 * t.wallot) ts
/-- A thread takes WB, %visit, the bits of %status that software writes and SUP, XPC, XSUP, %time, and the program counter and key of a JOIN
from its record (R353). -/
def Thread.fromRecord (t : Thread) (r : Bytes) : Thread :=
  let m : W32 := statusSup ||| 0x80000000#32
  { t with wb := leAt r 10 2, visit := w32 (leAt r 12 4), status := (t.status &&& ~~~m) ||| (w32 (leAt r 16 8) &&& m),
           xpc := w64 (leAt r 24 8), xsup := leAt r 32 8 == 1, time := w64 (leAt r 40 8),
           join := t.join.map fun j => { j with pc := w64 (leAt r 0 8), key := BitVec.ofNat 16 (leAt r 52 2) } }
/-- The members of an entry stand where their records say, as program counter and priority by thread (R353). -/
def Entry.standAt (ck : CohKey) (at' : List (ThKey × W64 × Nat)) (en : Entry) : List Entry :=
  let places := fun tid => match at'.find? fun p => decide (p.1 = { ck := ck, tid := tid, addr := en.addr }) with
    | some p => p.2
    | none => (en.pc, en.prio)
  ((en.members.map places).eraseDups).map fun p =>
    { en with pc := p.1, prio := p.2, members := en.members.filter fun tid => decide (places tid = p) }
/-- A cohort takes its thread records, registers, scratch and tiles from its image, which the supervisor may have changed (R353). -/
def State.loadImage (s : State) (h : Cohort) (b : Bytes) : State :=
  let ts := s.imageThreads h.key
  let parts := s.imageParts h s.free
  let recs := ((List.range ts.length).zip ts).map fun p => (p.2.key, ((imagePart b parts 0).drop (64 * p.1)).take 64)
  let stand := recs.map fun p => (p.1, w64 (leAt p.2 0 8), leAt p.2 8 2)
  let regs := imagePart b parts 2
  let places := regPlaces 0 ((ts.map fun t => 4 * t.gallot).sum) ts
  let known := fun (t : Thread) => match recs.find? fun p => decide (p.1 = t.key) with
    | some p => t.fromRecord p.2
    | none => t
  let load := fun (t : Thread) => match places.find? fun p => decide (p.1 = t.key) with
    | none => t
    | some (_, g, w) =>
      { t with regs := sparseOf 0 (wordsOf ((regs.drop g).take (4 * t.gallot))),
               wregs := sparseOf 0 (packetsOf (wordsOf ((regs.drop w).take (16 * t.wallot)))) }
  let tiles := imagePart b parts 8
  let s1 := s.setThreads (updWhere (fun t => decide (t.key.ck = h.key)) (fun t => load (known t)) s.threads)
  let s2 := s1.setGroups (updWhere (fun g => decide (g.key.ck = h.key)) (fun g =>
    { g with frontier := (g.frontier.flatMap (Entry.standAt h.key stand)).foldl (fun fr en => placeEntry en fr) [] }) s1.groups)
  s2.updCohort h.key fun h =>
    { h with scratch := sparseOf 0 (imagePart b parts 7), older := [],
             tiles := ((List.range h.tiles.length).zip h.tiles).map fun p =>
               let x := (tiles.drop (16388 * p.1)).take 16388
               { no := leAt x 0 4 % 512, elems := sparseOf 0 (wordsOf (x.drop 4)) } }
/-- Whether a field of a cohort's image lies outside its range: a program counter or return address, a WB, a rounding mode, the bits of a flag,
a %lane or a tile number (R34, R40, R353). -/
def State.imageBad (s : State) (h : Cohort) (b : Bytes) : Bool :=
  let ts := s.imageThreads h.key
  let parts := s.imageParts h s.free
  let recs := imagePart b parts 0
  let bad := fun (p : Nat × Thread) =>
    let r := (recs.drop (64 * p.1)).take 64
    decide (2 ^ 56 ≤ leAt r 0 8) || leAt r 10 2 % 8 != 0 || (decide (p.2.gallot ≤ leAt r 10 2)) || decide (2 ^ 32 ≤ leAt r 16 8) ||
      badRM (w32 (leAt r 16 8)) || decide (2 ^ 56 ≤ leAt r 24 8) || decide (1 < leAt r 32 8) || decide (31 < leAt r 50 1) || decide (1 < leAt r 51 1)
  let tiles := imagePart b parts 8
  (((List.range ts.length).zip ts).any bad) || (List.range h.tiles.length).any fun k => decide (511 < leAt tiles (16388 * k) 4)

/-! The directory (R353). -/

/-- The directory entry of a cohort in the save area: 1 saved, 2 completed during pre-emption, 0 free. -/
def dirEntry (ck : CohKey) (state off : Nat) : Bytes := natLe 4 ck.launch ++ natLe 4 ck.coh ++ natLe 1 state ++ natLe 7 off
/-- The lowest free entry of the save directory. -/
def Context.freeDir (c : Context) : Option Nat := (List.range 4096).find? fun k => !c.savedDir.any fun e => e.2.1 == k
/-- The device's own access waits: for a pinned line, or for what another device answers to a read. -/
def State.deviceAwait (s : State) (c : Context) {α : Type} : Got α → State
  | .wait (some l) => s.probeFor deviceSrc (deviceKey c.id) l
  | .ask v pa n => s.askFor deviceSrc (deviceKey c.id) v false [readAcc pa n]
  | .wait none | .ok _ | .trap _ => s
/-- Reads back what the device wrote at an offset of the save area; nothing where it wrote nothing. -/
def State.readSaved (s : State) (c : Context) (off : Nat) : Got Bytes × State :=
  match c.image.find? fun p => decide (p.1 = w64 off) with
  | none => (.ok [], s)
  | some p => s.readSup c (c.desc.savebase + p.1) p.2.length
/-- A cohort leaves the save area: its registers, scratch and tiles hold what its image holds, and its directory entry is free. An image
that cannot be read leaves them as they were saved: DESIGN CHOICE (log entry 82). -/
def State.readImage (s : State) (c : Context) (h : Cohort) : Got Unit × State :=
  match c.savedDir.find? fun e => decide (e.1 = h.key) with
  | none => (.ok (), s)
  | some (_, slot, off) =>
    let r := s.readSaved c off
    let go := fun (s : State) =>
      let w := s.writeVirt c (c.desc.savebase + w64 (16 * slot)) (dirEntry h.key 0 off)
      match w.1 with
      | .ok _ | .trap _ => (Got.ok (), (w.2.updContext c.id fun c =>
          { c with savedDir := c.savedDir.filter fun e => decide (e.1 ≠ h.key),
                   image := c.image.filter fun p => decide (p.1 ≠ w64 off) }).deviceDone c)
      | .wait l => (.wait l, w.2.deviceAwait c w.1)
      | .ask v pa n => (.ask v pa n, w.2)
    match r.1 with
    | .ok b => if b.isEmpty then go r.2 else go (r.2.loadImage h b)
    | .trap _ => go r.2
    | .wait l => (.wait l, r.2.deviceAwait c r.1)
    | .ask v pa n => (.ask v pa n, r.2.deviceAwait c r.1)

end Sys2Proof.Machine
end

