-- ==== Sys2Proof/Machine/Launch.lean ====
section
/-! DEFINITION. Launch headers (R65, R120 to R122, R415), launches and their names (R124), the placement of cohorts (R125,
R351), their completion (R126), and launch counters that fire (R300, R301). -/

namespace Sys2Proof.Machine

/-! Headers. -/

/-- What one core provides: threads, general registers, spectral registers, scratch bytes (R125). -/
def coreHolds : List Nat := [2048, 393216, 65536, 1048576]
/-- What a cohort of a launch needs of them (R122, R124, R125). -/
def Header.need (h : Header) : List Nat :=
  let n := fun (r : Role) => r.ngroups * r.gsize
  let streams := fun (r : Role) => if r.split then 2 else 1
  [(h.roles.map fun r => n r * streams r).sum, (h.roles.map fun r => n r * r.gallot * streams r).sum,
   (h.roles.map fun r => n r * r.wallot).sum, h.scratch]
/-- Whether bytes of a structure are all zero. -/
def zeroAt (b : Bytes) (off n : Nat) : Bool := leAt b off n == 0
/-- A role entry; none where it breaks R121 or R122. -/
def parseRole (b : Bytes) : Option Role :=
  let f := leAt b 13 1
  let r : Role := { entry := leAt b 0 4, aentry := leAt b 4 4, gallot := leAt b 8 2, wallot := leAt b 10 1,
                    ngroups := leAt b 11 1, gsize := leAt b 12 1, split := f % 2 == 1, mclass := f / 2 % 4 }
  if r.entry % 4 == 0 && r.aentry % 4 == 0 && (r.split || r.aentry == 0) && r.gallot % 16 == 0 &&
      decide (16 ≤ r.gallot) && decide (r.gallot ≤ 1024) && [0, 8, 16, 32].contains r.wallot &&
      decide (1 ≤ r.ngroups) && decide (r.ngroups ≤ 32) && decide (1 ≤ r.gsize) && decide (r.gsize ≤ 32) &&
      decide (f < 8) && zeroAt b 14 18 then some r
  else none
/-- The block-priority table, each START above the one before; none where it breaks R65. -/
def parseBlocks (b : Bytes) : Nat → Nat → Option Nat → Option (List (Nat × Nat))
  | 0, _, _ => some []
  | n + 1, k, prev =>
    let start := leAt b (8 * k) 4
    let ok := start % 4 == 0 && zeroAt b (8 * k + 6) 2 && (match prev with
      | none => start == 0
      | some p => decide (p < start))
    if ok then (parseBlocks b n (k + 1) (some start)).map fun l => (start, leAt b (8 * k + 4) 2) :: l else none
/-- A launch header with its block-priority table; none where LAUNCH raises ILLEGAL_ENCODING (R120 to R122). -/
def parseHeader (b bp : Bytes) : Option Header :=
  let fl := leAt b 2 2
  let nroles := leAt b 10 1
  let donech := leAt b 34 2
  let gx := leAt b 4 2
  let gy := leAt b 6 2
  let gz := leAt b 8 2
  let bpcount := leAt b 32 2
  let fields := leAt b 0 2 == 1 && decide (fl < 32) && fl / 4 % 4 != 3 && gx != 0 && gy != 0 && gz != 0 &&
    decide (1 ≤ nroles) && decide (nroles ≤ 4) && decide (leAt b 11 1 ≤ 4) && leAt b 12 4 % 256 == 0 &&
    decide (leAt b 12 4 ≤ 1048576) && leAt b 16 8 % 4 == 0 && leAt b 24 8 % 8 == 0 && decide (1 ≤ bpcount) &&
    decide (bpcount ≤ 4096) && (decide (donech < 1024) || donech == 0xFFFF) && zeroAt b 36 4 && zeroAt b 48 16 &&
    decide (gx * gy * gz < 2 ^ 32)
  if !fields then none
  else match (List.range nroles).mapM fun k => parseRole ((b.drop (64 + 32 * k)).take 32), parseBlocks bp bpcount 0 none with
    | some roles, some blocks =>
      let h : Header := { raw := b, idem := fl % 2 == 1, det := fl / 2 % 2 == 1, rpl := fl / 4 % 4, supl := fl / 16 % 2 == 1,
                          gx := gx, gy := gy, gz := gz, tdepth := leAt b 11 1, scratch := leAt b 12 4,
                          textbase := w64 (leAt b 16 8), bpbase := w64 (leAt b 24 8), donech := donech,
                          intime := w64 (leAt b 40 8), roles := roles, bp := blocks }
      if (h.need.zip coreHolds).all fun p => decide (p.1 ≤ p.2) then some h else none
    | none, _ => none
    | some _, none => none
/-- Reads a header and its block-priority table (R122, R415); a table whose BPCOUNT is out of range is not read. -/
def State.readHeader (s : State) (c : Context) (die : Nat) (src : ReqSrc) (key : ThKey) (va : W64) (who : Who) :
    Got (Bytes × Bytes) × State :=
  Got.andThen (s.readVirt c die src key va 256 who) fun b s =>
    let n := leAt b 32 2
    if n == 0 || decide (4096 < n) then (.ok (b, []), s)
    else Got.andThen (s.readVirt c die src key (w64 (leAt b 24 8)) (8 * n) who) fun t s => (.ok (b, t), s)

/-! Launches (R124, R126, R289). -/

/-- Whether a launch of a header holds a launch capability (R288, R289). -/
def Header.hasCap (h : Header) : Bool := h.donech != 0xFFFF
/-- Creates a launch: it consumes the next %launch value (R124), and the next replay ordinal when RPL is not 0 (R367). -/
def State.createLaunch (s : State) (ctx : Nat) (h : Header) (sup : Bool) (b : Binding) : State :=
  match s.context? ctx with
  | none => s
  | some c =>
    let l : Launch := { ctx := ctx, id := c.nextLaunch, order := c.launchOrder, hdr := h, sup := sup, nextCoh := 0,
                        remaining := h.gx * h.gy * h.gz, binding := b, holdsCap := h.hasCap,
                        ordinal := if h.rpl == 0 then none else some c.dbg.rplOrd, recordPending := false,
                        sources := if h.det then sortNat ((c.cores ++ c.vacant).map fun p => p.1).eraseDups else [] }
    let s1 := s.updContext ctx fun c =>
      { c with nextLaunch := if c.nextLaunch + 1 == 2 ^ 32 then 1 else c.nextLaunch + 1, launchOrder := c.launchOrder + 1,
               dbg := if h.rpl == 0 then c.dbg else { c.dbg with rplOrd := c.dbg.rplOrd + 1 } }
    s1.setLaunches (s1.launches ++ [l])

/-! Starting a cohort (R36, R39, R124, R127, R154). -/

/-- A thread or stream at its start (R36, R38, R39, R94, R218, R292). -/
def Thread.start (c : Context) (l : Launch) (k : ThKey) (role : Nat) (r : Role) (gid : Nat) : Thread :=
  { key := k, role := role, split := r.split, gid := gid, gallot := r.gallot, wallot := if k.addr then 0 else r.wallot,
    regs := [], wregs := [], wb := 0, visit := 0x00100000,
    status := (if l.sup then 0x80000000#32 else 0) ||| w32 (l.hdr.rpl * 2 ^ 26) ||| (if l.hdr.det then 0x02000000#32 else 0) |||
      (if l.hdr.idem then 0x01000000#32 else 0) ||| (c.desc.en.zeroExtend 32 <<< 16),
    trap := 0, xpc := 0, xsup := false, time := timeMask l.hdr.tdepth l.hdr.intime, phase := .start c.self l.id,
    exited := false, join := none, recSeq := 0 }
/-- Where each role's %tid and %gid begin (R124). -/
def roleBases : List Role → Nat → Nat → List (Role × Nat × Nat)
  | [], _, _ => []
  | r :: rs, tid, gid => (r, tid, gid) :: roleBases rs (tid + r.ngroups * r.gsize) (gid + r.ngroups)
/-- The streams of a role's threads. -/
def Role.streams (r : Role) : List Bool := if r.split then [false, true] else [false]
/-- Where a stream of a role begins (R121). -/
def Role.startPc (r : Role) (l : Launch) (addr : Bool) : W64 :=
  pc56 (l.hdr.textbase + w64 (if addr then r.aentry else r.entry))
/-- The threads of a role (R124). -/
def roleThreads (c : Context) (l : Launch) (ck : CohKey) (role : Nat) (x : Role × Nat × Nat) : List Thread :=
  (List.range (x.1.ngroups * x.1.gsize)).flatMap fun j => x.1.streams.map fun a =>
    Thread.start c l { ck := ck, tid := x.2.1 + j, addr := a } role x.1 (x.2.2 + j / x.1.gsize)
/-- The pre-formed groups of a role, each with an entry per stream (R124, R130). -/
def roleGroups (l : Launch) (ck : CohKey) (role clock : Nat) (x : Role × Nat × Nat) : List Group :=
  (List.range x.1.ngroups).map fun j =>
    let ms := (List.range x.1.gsize).map fun k => x.2.1 + j * x.1.gsize + k
    { key := { ck := ck, gid := x.2.2 + j }, role := role, members := ms,
      frontier := x.1.streams.foldl (fun fr a => placeEntry (readyEntry a (x.1.startPc l a) (l.prio (x.1.startPc l a)) ms clock) fr) [],
      score := 0, decayed := clock / 1024, mmaSeq := 0, since := clock }
/-- The queues of a split role's pairs (R187). -/
def roleQueues (x : Role × Nat × Nat) : List PairQueues :=
  if x.1.split then (List.range (x.1.ngroups * x.1.gsize)).map fun j => { tid := x.2.1 + j, q := List.replicate 8 [] } else []
/-- A cohort starts on a virtual core (R125, R154, R177, R289): its threads, groups, scratch, barriers and queues. -/
def State.startCohort (s : State) (c : Context) (l : Launch) (ck : CohKey) (vcore : Nat) (caps : List Cap)
    (relaunches : Nat) : State :=
  let rs := roleBases l.hdr.roles 0 0
  let groups := (l.hdr.roles.map fun r => r.ngroups).sum
  let idx := (List.range rs.length).zip rs
  let h : Cohort := { key := ck, st := .resident vcore, residency := s.nextId, relaunches := relaunches,
                      scratchSize := l.hdr.scratch, scratch := [], bars := List.replicate 16 (Barrier.fresh groups),
                      caps := caps, tiles := [], queues := rs.flatMap roleQueues, slotWaiting := [] }
  { s with nextId := s.nextId + 1,
           cohorts := (s.cohorts.filter fun x => decide (x.key ≠ ck)) ++ [h],
           threads := s.threads ++ idx.flatMap fun p => roleThreads c l ck p.1 p.2,
           groups := s.groups ++ idx.flatMap fun p => roleGroups l ck p.1 s.clock p.2 }

/-! Placement (R125, R351). -/

/-- What the cohorts on a physical core use, and what a cohort more would need with them. -/
def State.needOn (s : State) (core : Nat) : List Nat :=
  (s.cohortsOn core).foldl (fun acc c => match s.launch? c.key.ctx c.key.launch with
    | some l => acc.zipWith (· + ·) l.hdr.need
    | none => acc) [0, 0, 0, 0]
/-- Whether a physical core has room for a cohort of a launch with bound tiles (R125, R351). -/
def State.roomOn (s : State) (core : Nat) (h : Header) (tiles : Nat) : Bool :=
  decide ((s.cohortsOn core).length < 32) &&
  (((s.needOn core).zipWith (· + ·) h.need).zip coreHolds).all (fun p => decide (p.1 ≤ p.2)) &&
  decide (((s.cohortsOn core).map fun c => c.tiles.length).sum + tiles ≤ 512)
/-- Whether PREEMPT vacates a physical core, so that no cohort of any context is placed there (R350). -/
def State.vacating (s : State) (core : Nat) : Bool :=
  s.contexts.any fun c => c.pre.any fun p => c.phys p.1 == core
/-- The cohort to be placed next: one to relaunch (R347), a saved one (R351), or the next of a launch (R125). -/
inductive ToPlace
  | again (h : Cohort) | saved (h : Cohort) | fresh (l : Launch)
/-- The next cohort in the order of R125 and R347, by launch creation, and of R351, by %launch. -/
def State.toPlace (s : State) (ctx : Nat) (fresh : Bool) : Option ToPlace :=
  let mine := s.cohorts.filter fun h => h.key.ctx == ctx
  let again := mine.filter fun h => decide (h.st = .waiting)
  let saved := mine.filter fun h => match h.st with | .saved _ => true | .waiting | .resident _ | .killed _ => false
  let lt := fun (x y : Cohort) => decide (x.key.launch < y.key.launch) ||
    (x.key.launch == y.key.launch && decide (x.key.coh < y.key.coh))
  let older := fun (x y : Cohort) => decide (s.launchOrder x.key < s.launchOrder y.key) ||
    (s.launchOrder x.key == s.launchOrder y.key && decide (x.key.coh < y.key.coh))
  match (if fresh then (sortBy older again).head? else none), (sortBy lt saved).head? with
  | some h, _ => some (.again h)
  | none, some h => some (.saved h)
  | none, none =>
    if fresh then
      let open' := s.launches.filter fun l => l.ctx == ctx && decide (l.nextCoh < l.hdr.gx * l.hdr.gy * l.hdr.gz)
      (sortBy (fun (x y : Launch) => decide (x.order < y.order)) open').head?.map .fresh
    else none
/-- The lowest virtual core of a context that a physical core carries. -/
def Context.vcoreAt (c : Context) (core : Nat) : Option Nat :=
  (sortNat ((c.cores.filter fun p => p.2 == core).map (·.1))).head?
/-- What the placement of a cohort does to its core: its threads acquire what precedes the launch (R210), and where its launch starts on
the core, RO lines and the table cache go (R44, R182). -/
def State.freshenCore (s : State) (core ctx launch : Nat) : State :=
  let s1 := s.dropClean core
  if (s.core core).started.contains (ctx, launch) then s1
  else (s1.dropRo core).updCore core fun c =>
    { c with seqCache := [], started := (ctx, launch) :: c.started.filter fun x => (s.launch? x.1 x.2).isSome }
/-- Ages of a cohort's entries, groups and pending threads turned about a clock: from the clocks since which they wait to the clocks they
have waited, as a saved cohort keeps them, and back (R149). -/
def State.reAge (s : State) (ck : CohKey) (clock : Nat) : State :=
  let f := fun (n : Nat) => clock - n
  { s with
    groups := s.groups.map fun g => if g.key.ck = ck then
      { g with frontier := g.frontier.map fun en => { en with readySince := f en.readySince }, since := f g.since } else g,
    threads := s.threads.map fun t => if t.key.ck = ck then
      { t with join := t.join.map fun j => { j with since := f j.since } } else t }
/-- The clock at which the waits of a cohort on a virtual core stand still: its core's stop, or now while it runs (R149). -/
def State.waitClock (s : State) (c : Context) (v : Nat) : Nat :=
  match c.stopRecs.find? fun r => decide (r.unit = .core v) with
  | some r => r.clock
  | none => s.clock
/-- Scores of the groups of a cohort change by these words: brought up to date as it leaves a core, and from now on as it comes to
one, for a score that is not resident does not decay (R138). -/
def State.scoreGroups (s : State) (ck : CohKey) (f : Group → Group) : State :=
  s.setGroups (updWhere (fun g => decide (g.key.ck = ck)) f s.groups)
/-- A slot-waiting request returns to its place in its engine's queue (R282). -/
def requeue (q : CopyReq) (l : List CopyReq) : List CopyReq :=
  insertBy (fun (x y : CopyReq) => x.ck.ctx == y.ck.ctx && decide (x.seq < y.seq)) q l
/-- A context has another remap table: its ISCTL goes into the cores that it comes to occupy (R137, R352). -/
def State.remapTo (s : State) (c : Context) : State :=
  let old : List Nat := match s.context? c.id with
    | some x => x.cores.map fun p => p.2
    | none => []
  let new := ((c.cores.map fun p => p.2).filter fun p => !old.contains p).eraseDups
  new.foldl (fun s p => s.loadIsctl p c.desc.isctl)
    (s.updContext c.id fun _ => c)
/-- A saved cohort returns on a physical core: the remap entry of its virtual core is rewritten (R351, R352), its image read (R353), and the
core's table entries of its context go (R117). Clocks waited go on from the stop while the context is restored (R149). -/
def State.restoreCohort (s : State) (c : Context) (h : Cohort) (v core : Nat) : Got Unit × State :=
  Got.andThen (s.readImage c h) fun _ s =>
    match s.context? c.id with
    | none => (.ok (), s)
    | some c =>
      let s1 := s.remapTo { c with cores := aput c.cores v core, vacant := c.vacant.filter fun x => x.1 != v }
      let s2 := h.slotWaiting.foldl (fun s p => s.updEngine p.1 fun e => { e with queue := requeue p.2 e.queue }) s1
      let s3 := s2.updCohort h.key fun h => { h with st := .resident v, residency := s2.nextId, slotWaiting := [] }
      let s4 := ({ s3 with nextId := s3.nextId + 1 } : State).reAge h.key (s.waitClock c v)
      let s5 := s4.scoreGroups h.key fun g => { g with decayed := s.clock / 1024 }
      (.ok (), (s5.freshenCore core c.id h.key.launch).updCore core fun x =>
        { x with seqCache := x.seqCache.filter fun e => e.1 != c.id })
/-- Whether rewriting the remap entry of a virtual core would move cohorts that are on it (R352). -/
def State.remapBlocked (s : State) (c : Context) (v core : Nat) : Bool :=
  c.phys v != core && s.cohorts.any fun h => h.key.ctx == c.id && (match h.st with
    | .resident x => x == v
    | .killed x => x == v
    | .waiting => false
    | .saved _ => false)
/-- The spare cores that boot maps in place of cores fused bad, as (bad, spare): the spares of a die that are good stand for its lowest bad
cores (R412). -/
def Fuses.spares (f : Fuses) (die : Nat) : List (Nat × Nat) :=
  let bad := sortNat ((f.bad.filter fun b => b / 34 == die).eraseDups)
  (bad.filter fun b => decide (b % 34 < 32)).zip (([32, 33].map (34 * die + ·)).filter fun x => !bad.contains x)
/-- The core that a number of a core mask stands for: the spare that replaces a bad one; none for a bad one that no spare replaces
(R412). -/
def Fuses.standIn (f : Fuses) (core : Nat) : Option Nat :=
  if f.bad.contains core then ((f.spares (core / 34)).find? fun p => p.1 == core).map (·.2) else some core
/-- The cores that a partition entry names (R354, R412). -/
def State.partNamed (s : State) (p : Bytes) : List Nat :=
  ((List.range 136).filter fun k => leAt p 44 1 % 2 == 1 && (leAt p (8 * (k / 34)) 8).testBit (k % 34)).filterMap s.fuses.standIn
/-- Whether a physical core belongs to the partition of a context (R354). -/
def State.inPartition (s : State) (c : Context) (core : Nat) : Bool := (s.partNamed (s.mgmt.parts.getD c.desc.part [])).contains core
/-- The place of a core among the 32 of its die (R2): a spare has that of the core it replaces: the one fused bad, or, where a partition
names it in a repair (R355), the lowest of its die that no partition names, which is DESIGN CHOICE (log entry 88). -/
def State.placeInDie (s : State) (core : Nat) : Nat :=
  if core % 34 < 32 then core % 34
  else match (s.fuses.spares (core / 34)).find? fun p => p.2 == core with
    | some p => p.1 % 34
    | none =>
      let named := s.mgmt.parts.flatMap s.partNamed
      ((List.range 32).find? fun k => !named.contains (34 * (core / 34) + k)).getD 0
/-- The cluster of a physical core: 4 clusters of 8 on each die (R2). -/
def State.physCluster (s : State) (core : Nat) : Nat := 4 * physDie core + s.placeInDie core / 8
/-- The state after the next cohort of a context is placed on a physical core; none where none can be. -/
def State.placeOn (s : State) (c : Context) (core : Nat) : Option State :=
  let running := decide (c.st = .running)
  if !(running || (decide (c.st = .restoring) && decide (s.mgmt.restoring = some (c.id, none)))) || s.vacating core || !s.inPartition c core ||
      c.vacant.any (fun p => p.2 == core) then none
  else match s.toPlace c.id running with
    | none => none
    | some (.saved h) =>
      match h.st, s.launch? c.id h.key.launch with
      | .saved v, some l =>
        if s.roomOn core l.hdr h.tiles.length && !s.remapBlocked c v core then
          let r := s.restoreCohort c h v core
          some (match r.1 with
            | .ok _ => if running then (r.2.recompute c.id).assignAll c.id else r.2
            | .trap _ | .wait _ | .ask _ _ _ => r.2)
        else none
      | .saved _, none => none
      | .waiting, _ => none
      | .resident _, _ => none
      | .killed _, _ => none
    | some (.again h) =>
      match c.vcoreAt core, s.launch? c.id h.key.launch with
      | some v, some l =>
        if s.roomOn core l.hdr 0 then
          some ((s.startCohort c l h.key v h.caps h.relaunches).freshenCore core c.id l.id)
        else none
      | none, _ => none
      | some _, none => none
    | some (.fresh l) =>
      match c.vcoreAt core with
      | some v =>
        if s.roomOn core l.hdr 0 then
          let ck : CohKey := { ctx := c.id, launch := l.id, coh := l.nextCoh }
          let s1 := s.updLaunch c.id l.id fun l => { l with nextCoh := l.nextCoh + 1 }
          some ((s1.startCohort c l ck v [] 0).freshenCore core c.id l.id)
        else none
      | none => none
/-- COHORT_PLACEMENT (R125, R351): the next cohort of a context becomes resident on a physical core that has room. -/
def execCohortPlacement (s : State) : Out :=
  match s.op with
  | .nat2 ctx core =>
    match (s.context? ctx).bind fun c => s.placeOn c core with
    | some s1 => .next s1
    | none => .next s
  | _ => .next s

/-! Completion (R126). -/

/-- Whether a copy request is still to be performed. -/
def CopyReq.open (q : CopyReq) : Bool :=
  match q.status with
  | .queued | .active | .waitSlot => true
  | .complete | .failed _ _ | .cancelled => false
/-- Whether a matrix engine still works for a cohort. -/
def MatrixEngine.busyFor (e : MatrixEngine) (ck : CohKey) : Bool :=
  (e.pending.any fun q => decide (q.gk.ck = ck)) || (e.gathers ++ e.closed).any fun g => decide (g.ck = ck)
/-- Whether a result is on its way to a cohort. -/
def Dest.cohort : Dest → CohKey
  | .g k _ _ => k.ck
  | .w k _ _ => k.ck
  | .q ck _ _ _ _ => ck
/-- Whether requests or results of a cohort's threads are under way. -/
def State.memBusy (s : State) (ck : CohKey) : Bool :=
  (s.reqs.any fun r => decide (r.op ≠ .probe) && (decide (r.key.ck = ck) || r.merged.any fun p => decide (p.1.ck = ck))) ||
  s.rets.any fun r => r.dests.any fun d => decide (d.cohort = ck)
/-- Whether something that a cohort's threads issued is neither performed nor reported (R126). -/
def State.cohortBusy (s : State) (ck : CohKey) : Bool :=
  s.memBusy ck || (s.cores.any fun c => c.2.eng.busyFor ck) ||
  (s.engines.any fun e => e.2.queue.any fun q => decide (q.ck = ck) && q.open) ||
  (match s.context? ck.ctx with
    | some c => c.records.any fun r => !r.delivered && r.counted && (match r.source with
        | .thread l h _ => l == ck.launch && h == ck.coh
        | .launch _ | .host | .unit _ | .device => false)
    | none => false)
/-- The name under which the device waits for a line on behalf of a whole cohort. -/
def cohortKey (ck : CohKey) : ThKey := { ck := ck, tid := 4097, addr := false }
/-- A receiver's share of every holding-buffer slot is dropped, and slots with no receiver left are freed (R276). -/
def State.dropShares (s : State) (ck : CohKey) : State :=
  { s with holds := (s.holds.map fun h =>
      if h.2.2.ck.ctx == ck.ctx && h.2.2.ck.launch == ck.launch then
        (h.1, h.2.1, { h.2.2 with receivers := h.2.2.receivers.filter fun r => r != ck.coh }) else h).filter fun h =>
      !(h.2.2.parked && h.2.2.receivers.isEmpty) }
/-- Everything a cohort holds on its core is freed: threads, groups, registers, scratch, barriers and tiles (R126). -/
def State.freeCohort (s : State) (ck : CohKey) (core : Nat) : State :=
  ({ s with threads := s.threads.filter fun t => decide (t.key.ck ≠ ck),
            groups := s.groups.filter fun g => decide (g.key.ck ≠ ck),
            cohorts := s.cohorts.filter fun h => decide (h.key ≠ ck),
            cores := s.cores.map fun c => (c.1, c.2.disown fun g => decide (g.ck = ck)) } : State).idleSlots core
/-- A launch whose cohorts have all completed completes (R126, R289): its launch capability ends, and a completion record
waits to be emitted. -/
def State.finishLaunch (s : State) (ctx id vcore : Nat) : State :=
  match s.launch? ctx id with
  | none => s
  | some l =>
    if l.remaining != 0 then s
    else
      let die := match s.context? ctx with | some c => c.runsOn vcore | none => 0
      let s1 := if l.holdsCap then s.form ctx (coreSrc vcore) die [chg l.hdr.donech l.hdr.intime (-1)] else s
      if l.hdr.donech == 0xFFFF then s1.setLaunches (s1.launches.filter fun x => !(x.ctx == ctx && x.id == id))
      else s1.updLaunch ctx id fun l => { l with holdsCap := false, recordPending := true }
/-- The save directory lists a cohort that completes while PREEMPT drains its core (R352, R353). -/
def State.listCompleted (s : State) (c : Context) (ck : CohKey) (vcore : Nat) : Got Unit × State :=
  match c.pre.any (fun p => p.1 == vcore), c.freeDir with
  | true, some k =>
    let w := s.writeVirt c (c.desc.savebase + w64 (16 * k)) (dirEntry ck 2 0)
    match w.1 with
    | .ok _ | .trap _ => (.ok (), (w.2.updContext c.id fun c => { c with savedDir := c.savedDir ++ [(ck, k, 0)] }).deviceDone c)
    | .wait l => (.wait l, w.2.deviceAwait c w.1)
    | .ask v pa n => (.ask v pa n, w.2)
  | true, none => (.ok (), s)
  | false, _ => (.ok (), s)
/-- A cohort completes (R126, R182, R217, R288, R289): its core's dirty bytes have been written back, its pins end, its capabilities are
released, and its resources are free. -/
def State.completeCohort (s : State) (c : Context) (ck : CohKey) (h : Cohort) (vcore core : Nat) : State :=
  let s1 := (s.endPins fun p => decide (p.ck = ck) && p.dev.isNone).dropProbes (cohortKey ck)
  let s2 := s1.form ck.ctx (coreSrc vcore) (c.runsOn vcore) (h.caps.map fun x => chg x.loc x.time (-(x.count : Int)))
  let s3 := (s2.freeCohort ck core).dropShares ck
  (s3.updLaunch ck.ctx ck.launch fun l => { l with remaining := l.remaining - 1 }).finishLaunch ck.ctx ck.launch vcore
/-- Whether a unit of a context has not stopped. -/
def Context.live (c : Context) (u : StopUnit) : Bool :=
  (decide (c.st = .running) || decide (c.st = .halting)) && !c.stopped.contains u
/-- COHORT_COMPLETE (R126): every thread has exited and everything issued is performed or reported. A write-back that a
pin of another core refuses is re-sent first (R217), and what has left for another device is acknowledged first (R210, R384). -/
def execCohortComplete (s : State) : Out :=
  match s.op with
  | .nat3 ctx launch coh =>
    let ck : CohKey := { ctx := ctx, launch := launch, coh := coh }
    match s.context? ctx, s.cohort? ck with
    | some c, some h =>
      match h.st with
      | .resident v =>
        if c.live (.core v) && (s.threads.all fun t => decide (t.key.ck ≠ ck) || t.exited) && !s.cohortBusy ck then
          let core := c.phys v
          match s.blockedLine core with
          | some l => .next (s.probeFor (.core core) (cohortKey ck) l)
          | none =>
            let s1 := s.flushDirty ctx core
            if s1.reqs.any fun r => decide (r.key = backKey ctx core) && r.vdev.isSome then .next s1
            else
              let r := s1.listCompleted c ck v
              match r.1 with
              | .ok _ => .next (r.2.completeCohort c ck h v core)
              | .trap _ | .wait _ | .ask _ _ _ => .next r.2
        else .next s
      | .waiting => .next s
      | .saved _ => .next s
      | .killed _ => .next s
    | some _, none => .next s
    | none, _ => .next s
  | _ => .next s
/-- COMPLETION_RECORD (R126, R288): once the record store has room, the uncounted completion record of a launch is
delivered to DONECH at INTIME, and the launch is gone. -/
def execCompletionRecord (s : State) : Out :=
  match s.op with
  | .nat2 ctx id =>
    match s.context? ctx, s.launch? ctx id with
    | some c, some l =>
      if l.recordPending && decide (c.st = .running) && decide (c.records.length < c.desc.rscount) then
        let p := s.freeBytes 64
        let r : Record := { id := c.nextRecord, slot := 0, loc := l.hdr.donech, time := l.hdr.intime, payload := p.1,
                            source := .launch id, counted := false, batch := none, delivered := false }
        let s1 := p.2.addRecord ctx r
        let s2 := s1.setLaunches (s1.launches.filter fun x => !(x.ctx == ctx && x.id == id))
        .next ((s2.deliver ctx fun x => x.id == r.id).recompute ctx)
      else .next s
    | some _, none => .next s
    | none, _ => .next s
  | _ => .next s

/-! Launch counters (R300, R301). -/

/-- Whether the condition of an armed counter holds at its node, which has not stopped (R301, R304). -/
def Context.mayFire (c : Context) (k : Counter) : Bool :=
  !c.flueStopped k.die && ((k.cnt && k.ccount == 0) || (k.frn && passed ((c.node k.die).i.getD k.loc []) k.ctime))
/-- The lowest-numbered counter that fires now (R301). -/
def Context.nextFire (c : Context) : Option Counter :=
  if decide (c.st = .running) || decide (c.st = .halting) then
    (sortBy (fun (x y : Counter) => decide (x.idx < y.idx)) (c.counters.filter c.mayFire)).head?
  else none
/-- COUNTER_FIRE (R301): a counter fires once: it is freed, and its header is dispatched as a launch bound to (L, CTIME). -/
def execCounterFire (s : State) : Out :=
  match s.op with
  | .nat2 ctx idx =>
    match s.context? ctx with
    | none => .next s
    | some c =>
      match c.nextFire with
      | none => .next s
      | some k =>
        if k.idx != idx then .next s
        else
          let h := { k.hdr with intime := k.ctime, tdepth := c.graph.depth k.loc }
          let s1 := s.updContext ctx fun c => { c with counters := c.counters.filter fun x => x.idx != idx }
          .next (s1.createLaunch ctx h k.hdr.supl (.fixed k.loc k.ctime))
  | _ => .next s

end Sys2Proof.Machine
end

