-- ==== Sys2Proof/Machine/Det.lean ====
section
/-! DEFINITION. The schedules of DET launches (R223, R380): whose turn it is at each merge point, and when a flit that is due is known not
to come. -/

namespace Sys2Proof.Machine

/-- The source whose flit is due at a merge point: at first the first of the launch's schedule (R380). -/
def Launch.due (l : Launch) (m : MergePt) : Nat := kget (l.sources.headD 0) l.turns m
/-- The source after one in the cyclic order of the launch's schedule (R380). -/
def Launch.after (l : Launch) (v : Nat) : Nat :=
  match (l.sources.dropWhile fun x => x != v).drop 1 with
  | x :: _ => x
  | [] => l.sources.headD 0
/-- A merge point takes a source's flit: the next one of its order is due. -/
def Launch.taken (l : Launch) (v : Nat) (m : MergePt) : Launch :=
  { l with turns := kput l.turns m (l.after v), asking := l.asking.filter fun x => decide (x ≠ (m, v)) }
/-- How far a source stands behind the one that is due at a merge point. -/
def Launch.behind (l : Launch) (m : MergePt) (v : Nat) : Nat :=
  let at' := fun (x : Nat) => l.sources.findIdx fun y => y == x
  (at' v + (l.sources.length + 1) - at' (l.due m)) % (l.sources.length + 1)
/-- The merge points that a core's request to a slice passes: the link to the slice's die, and the port of the slice (R380). -/
def mergePts (v pa : Nat) : List MergePt :=
  (if dieOf v != sliceDie (sliceOf pa) then [.link (dieOf v) (sliceDie (sliceOf pa))] else []) ++ [.slice (sliceOf pa)]
/-- The DET launch that a request serves. -/
def State.detLaunch (s : State) (ck : CohKey) : Option Launch := (s.launch? ck.ctx ck.launch).filter fun l => l.hdr.det
/-- Whether a cohort is one of a launch. -/
def Launch.owns (l : Launch) (ck : CohKey) : Bool := ck.ctx == l.ctx && ck.launch == l.id
/-- Whether a run that a launch has in an issue slot stands still: it stalls, and has tested what it waits for since the last event; the
entry that issues now is left aside. -/
def State.slotStill (s : State) (l : Launch) (core slot : Nat) : Bool :=
  match ((s.core core).slot slot).run with
  | none => true
  | some r => !l.owns r.gk.ck || decide (s.cur = some (core, slot)) || (r.stalledSince.isSome && decide (s.moved < r.tested))
/-- Whether every ready entry of a launch's resident cohorts waits behind a run of the launch in its slot, or may not begin a run at all
(R337, R350). -/
def State.entriesStill (s : State) (l : Launch) : Bool :=
  s.groups.all fun g => !l.owns g.key.ck || (match s.coreOf g.key.ck with
    | none => true
    | some core => !s.mayBegin g.key.ck || g.frontier.all fun en => en.wait.isSome || decide (en.stat ≠ .plain) || (
        match ((s.core core).slot (slotOf g.key.gid en.addr)).run with
        | some r => l.owns r.gk.ck
        | none => false))
/-- Whether a DET launch stands still: nothing of it is under way, and its runs wait for requests that wait for their turn at merge points.
A flit that is due there will then not come. -/
def State.detStill (s : State) (l : Launch) : Bool :=
  !(s.rets.any fun r => r.dests.any fun d => l.owns d.cohort) &&
  !(s.engines.any fun e => e.2.queue.any fun q => l.owns q.ck && q.open && (match s.context? l.ctx with
      | some c => c.live (.engine (engNo e.1))
      | none => false)) &&
  !(s.walks.any fun w => w.ctx == l.ctx) && !(s.holds.any fun h => l.owns h.2.2.ck &&
    (!h.2.2.parked || h.2.2.receivers.any fun n => decide (0 < (s.bar { h.2.2.ck with coh := n } h.2.2.dnb).pend))) &&
  !(s.reqs.any fun r => l.owns r.key.ck && (r.vdev.isSome || decide (r.op = .probe))) &&
  (match s.context? l.ctx with
    | some c => decide (c.st ≠ .running) || c.batches.isEmpty
    | none => true) &&
  s.entriesStill l &&
  (s.cores.all fun c => (List.range 4).all (s.slotStill l c.1) &&
    !((c.2.eng.pending.any fun q => l.owns q.gk.ck) || (c.2.eng.gathers ++ c.2.eng.closed).any fun g => l.owns g.ck))
/-- The requests of a DET launch that slices may accept next, each with its virtual core: for each core and slice the first (R184). -/
def State.detHeads (s : State) (l : Launch) : List (Nat × Req) :=
  s.cores.flatMap fun c => ((firstPerSlice [] (s.reqs.filter fun q => q.ofCore c.1 && !s.refused (.core c.1) (q.pa / 64))).filter fun q => l.owns q.key.ck).map fun q =>
    (s.vcoreOf q.key.ck, q)
/-- Whether one of two waiting requests comes before the other where both flits due do not come: the lower slice, then the nearer turn. -/
def Launch.sooner (l : Launch) (x y : Nat × Req) : Bool :=
  let a := sliceOf x.2.pa
  let b := sliceOf y.2.pa
  decide (a < b) || (a == b && decide (l.behind (.slice a) x.1 < l.behind (.slice a) y.1))
/-- Whether a core's request of a DET launch may pass its merge points (R380): where its source is due at each. Where the launch stands
still, so that no flit due will come, the first of the waiting requests passes: DESIGN CHOICE (log entry 90). -/
def State.mayMerge (s : State) (l : Launch) (v : Nat) (q : Req) : Bool :=
  (mergePts v q.pa).all (fun m => l.due m == v) ||
  (s.detStill l && ((sortBy l.sooner (s.detHeads l)).head?.map fun x => x.2.id) == some q.id)
/-- Whether the inputs of engines may take the lines of a core of a DET launch (R380), as `mayMerge` has it for slices. -/
def State.mayEnter (s : State) (l : Launch) (v : Nat) (es : List Nat) : Bool :=
  let num := fun (x : MergePt × Nat) => match x.1 with
    | .engine e => 4096 * e + l.behind x.1 x.2
    | .slice _ | .link _ _ => 0
  let mine := es.map fun e => ((.engine e : MergePt), v)
  es.all (fun e => l.due (.engine e) == v) ||
  (s.detStill l && (s.detHeads l).isEmpty &&
    (match (sortBy (fun x y => decide (num x < num y)) (l.asking ++ mine)).head? with
      | some x => mine.contains x
      | none => true))
/-- A source of a DET launch waits at the inputs of engines. -/
def Launch.ask (l : Launch) (v : Nat) (es : List Nat) : Launch :=
  { l with asking := (l.asking ++ es.map fun e => (MergePt.engine e, v)).eraseDups }

end Sys2Proof.Machine
end

