-- ==== Sys2Proof/Machine/Time.lean ====
section
/-! DEFINITION. Major 0x38 (R305, R318 to R325): EMIT, RECV, CAPK, CAPD, CAPX, FWAIT, FTEST, TRIG, LAUNCH and TLW. -/

namespace Sys2Proof.Machine

/-- TIME_ORDER as own cause number `order` of an instruction (R291, R336). -/
def Trap.time (order sub loc : Nat) (t : W64) : Trap :=
  { rank := 7 + order, cause := .timeOrder, sub := sub, addr := w64 loc, info1 := t }
/-- The location and the form of a time: subcauses 9 and 4 (R283, R291). -/
def keyTrap (g : Graph) (order loc : Nat) (t : W64) : Option Trap :=
  if g.nloc ≤ loc then some (.time order 9 loc t)
  else if timeOk (g.depth loc) t then none
  else some (.time (order + 1) 4 loc t)
/-- Checks members in membership order, each against the table as the members before it leave it (R305). -/
def foldMembers {α β : Type} (f : β → Thread → Reads → Except Trap (β × α)) :
    β → List (Thread × Reads) → List (Thread × Except Trap α) × β
  | b, [] => ([], b)
  | b, m :: ms =>
    match f b m.1 m.2 with
    | .error t => let r := foldMembers f b ms
                  ((m.1, .error t) :: r.1, r.2)
    | .ok (b', x) => let r := foldMembers f b' ms
                     ((m.1, .ok x) :: r.1, r.2)
/-- The values of members that raise nothing. -/
def okValues {α : Type} (l : List (Thread × Except Trap α)) : List (Thread × α) :=
  l.filterMap fun p => match p.2 with | .ok x => some (p.1, x) | .error _ => none
/-- A release towards every agent that the record, the capability or the launch reaches: pod-wide in a job, else device-wide
(R210, R384). -/
def State.releaseAll (s : State) (i : Iss) (go : State → Out) : Out :=
  let job : Bool := match s.context? i.ck.ctx with | some c => decide (c.pod.damper ≠ .none) | none => false
  s.releaseStep i (if job then .pod else .device) go
/-- An instruction of the Flue: the context, the cohort and its launch are at hand. -/
def State.flueOp (s : State) (fs : List Fld) (go : Iss → Context → Cohort → List (Thread × Reads) → Out) : Out :=
  s.operands .compute fs fun i ms =>
    match s.context? i.ck.ctx, s.cohort? i.ck with
    | some c, some h => go i c h ms
    | some _, none => .next s
    | none, _ => .next s
/-- The members' checks, then the wait for count keys (R294), then the effect. -/
def State.flueChecked {α β : Type} (s : State) (i : Iss) (c : Context) (r : List (Thread × Except Trap α) × β)
    (ch : List (Thread × α) → List CountChange) (go : List (Thread × α) → β → Out) : Out :=
  match firstTrap (errorsOf r.1) with
  | some (t, x) => .next (s.takeTrap i t x)
  | none =>
    let vs := okValues r.1
    if s.keyRoom c (ch vs) then go vs r.2 else .next (s.stall i [])

/-! Records (R319, R320). -/

/-- EMIT (R288, R293, R319): a record per member, in one batch; it waits for room in the record store. -/
def execEmit (d a b : Slot) (s : State) : Out :=
  let fs := [Fld.g d, .gs a 16, .gs b 2]
  s.flueOp fs fun i c h ms =>
    let check := fun (_ : Unit) (_ : Thread) (r : Reads) =>
      let loc := (r.x 0).toNat
      match keyTrap c.graph 1 loc (r.p 2) with
      | some x => .error x
      | none =>
        if c.covered (s.launch? i.ck.ctx i.ck.launch) h.caps loc (r.p 2) then .ok ((), (loc, r.p 2, bytesOfWords (r.l 1)))
        else .error (.time 3 1 loc (r.p 2))
    s.flueChecked i c (foldMembers check () ms) (fun vs => vs.map fun v => chg v.2.1 v.2.2.1 1) fun vs _ =>
      if c.desc.rscount < c.records.length + vs.length then .next (s.stall i [])
      else s.releaseAll i fun s1 =>
        let vc := h.vcore
        let s2 := vs.foldl (fun (s : State) v => s.addRecord c.id
          { id := 0, slot := 0, loc := v.2.1, time := v.2.2.1, payload := v.2.2.2,
            source := .thread i.ck.launch i.ck.coh v.1.key.tid, counted := true, batch := some (c.nextBatchId (coreSrc vc)),
            delivered := false }) s1
        let s3 := (s2.formFor i.ck (vs.map fun v => chg v.2.1 v.2.2.1 1)).recompute c.id
        .next (s3.finish i fs false (ms.map fun m => (m.1, {})))
/-- The location and the time, if fixed, that the launch of a cohort is bound to (R293). -/
def State.boundTime (s : State) (c : Context) (ck : CohKey) : Option (Nat × Option W64) :=
  match s.launch? ck.ctx ck.launch with
  | some l => (match l.binding with
    | .host => some (c.desc.hostch, none)
    | .fixed l t => some (l, some t)
    | .none => none)
  | none => none
/-- RECV (R293, R320): reserves table entries, takes what is delivered, and blocks until every member has a record. -/
def execRecv (d b : Slot) (s : State) : Out :=
  let fs := [Fld.dgs d 16, .dgs b 2]
  s.flueOp fs fun i c h ms =>
    let low := lowLane ms
    match s.boundTime c i.ck with
    | none => .next (s.takeTrap i low (.time 0 8 0 0))
    | some (loc, t) =>
      let new := ms.map fun m => ({ key := m.1.key, loc := loc, t := t, d := d, b := b } : RecvWait)
      if !capsFit (c.recvsOf i.ck ++ new) h.caps then .next (s.takeTrap i low (.time 1 6 loc (t.getD 0)))
      else
        let s1 := (s.updContext c.id fun c => { c with recvs := c.recvs ++ new }).assignAll c.id
        let left := match s1.context? c.id with
          | some c => (ms.filter fun m => c.recvs.any fun w => decide (w.key = m.1.key)).map fun m => m.1.key.tid
          | none => []
        if left.isEmpty then .next ((s1.recompute c.id).retire i false i.fallThrough)
        else .next (((s1.countProgress i).block i (.recv d b left)).recompute c.id)

/-! Capabilities (R321). -/

/-- CAPK (R290, R321). -/
def execCapk (a b : Slot) (s : State) : Out :=
  let fs := [Fld.g a, .gs b 2]
  s.flueOp fs fun i c h ms =>
    let check := fun (caps : List Cap) (_ : Thread) (r : Reads) =>
      let loc := (r.x 0).toNat
      match keyTrap c.graph 1 loc (r.p 1) with
      | some x => .error x
      | none =>
        let caps' := capAdd caps loc (r.p 1) 1
        if !c.covered (s.launch? i.ck.ctx i.ck.launch) caps loc (r.p 1) then .error (.time 3 2 loc (r.p 1))
        else if !capsFit (c.recvsOf i.ck) caps' then .error (.time 4 6 loc (r.p 1))
        else .ok (caps', chg loc (r.p 1) 1)
    s.flueChecked i c (foldMembers check h.caps ms) (fun vs => vs.map (·.2)) fun vs caps =>
      let s1 := (s.updCohort i.ck fun h => { h with caps := caps }).formFor i.ck (vs.map (·.2))
      .next (s1.finish i fs false (ms.map fun m => (m.1, {})))
/-- CAPD (R290, R321): a release, −1 at (L, t), then +1 at (L, u). -/
def execCapd (a b : Slot) (s : State) : Out :=
  let fs := [Fld.g a, .gs b 2, .gs (b + 2) 2]
  s.flueOp fs fun i c h ms =>
    let check := fun (caps : List Cap) (_ : Thread) (r : Reads) =>
      let loc := (r.x 0).toNat
      match keyTrap c.graph 1 loc (r.p 1), keyTrap c.graph 1 loc (r.p 2) with
      | some x, _ => .error x
      | none, some x => .error x
      | none, none =>
        let caps' := capAdd (capTake caps loc (r.p 1)) loc (r.p 2) 1
        if !capHas caps loc (r.p 1) then .error (.time 3 3 loc (r.p 1))
        else if !timeLe (r.p 1) (r.p 2) then .error (.time 4 5 loc (r.p 2))
        else if !capsFit (c.recvsOf i.ck) caps' then .error (.time 5 6 loc (r.p 2))
        else .ok (caps', [chg loc (r.p 2) 1, chg loc (r.p 1) (-1)])
    s.flueChecked i c (foldMembers check h.caps ms) (fun vs => vs.flatMap (·.2)) fun vs caps =>
      s.releaseAll i fun s0 =>
        let s1 := (s0.updCohort i.ck fun h => { h with caps := caps }).formFor i.ck (vs.flatMap (·.2))
        .next (s1.finish i fs false (ms.map fun m => (m.1, {})))
/-- CAPX (R290, R321): a release, −1 at (L, t). -/
def execCapx (a b : Slot) (s : State) : Out :=
  let fs := [Fld.g a, .gs b 2]
  s.flueOp fs fun i c h ms =>
    let check := fun (caps : List Cap) (_ : Thread) (r : Reads) =>
      let loc := (r.x 0).toNat
      match keyTrap c.graph 1 loc (r.p 1) with
      | some x => .error x
      | none =>
        if capHas caps loc (r.p 1) then .ok (capTake caps loc (r.p 1), chg loc (r.p 1) (-1))
        else .error (.time 3 3 loc (r.p 1))
    s.flueChecked i c (foldMembers check h.caps ms) (fun _ => []) fun vs caps =>
      s.releaseAll i fun s0 =>
        let s1 := (s0.updCohort i.ck fun h => { h with caps := caps }).formFor i.ck (vs.map (·.2))
        .next (s1.finish i fs false (ms.map fun m => (m.1, {})))

/-! Frontier waits (R322). -/

/-- The members' targets of FWAIT or FTEST, after their checks: location field k, then the time. -/
def frontierTargets (c : Context) (k : Nat) (ms : List (Thread × Reads)) : List (Thread × Except Trap (Nat × W64)) :=
  ms.map fun m =>
    let loc := (m.2.x k).toNat
    (m.1, match keyTrap c.graph 1 loc (m.2.p (k + 1)) with
      | some x => .error x
      | none => .ok (loc, m.2.p (k + 1)))
/-- FWAIT (R135, R210, R218, R322): blocks until every member's time has passed; then an acquire and a phase id. -/
def execFwait (a b : Slot) (s : State) : Out :=
  let fs := [Fld.g a, .gs b 2]
  s.flueOp fs fun i c h ms =>
    let ts := frontierTargets c 0 ms
    match firstTrap (errorsOf ts) with
    | some (t, x) => .next (s.takeTrap i t x)
    | none =>
      let targets := (okValues ts).map fun p => (p.1.key.tid, p.2.1, p.2.2)
      if c.fwaitOver (c.runsOn h.vcore) targets then
        let s1 := targets.foldl (fun s p => s.formPhase { ck := i.ck, tid := p.1, addr := false } (.fw p.2.1 p.2.2)) s
        let fresh := fun (t : Thread) => (s1.thread? t.key).getD t
        .next ((s1.dropClean i.core).finish i fs false (ms.map fun m => (fresh m.1, {})))
      else
        let s1 := ms.foldl (fun s m => s.moveQueues m.1 fs []) (s.countProgress i)
        .next (s1.block i (.fwait targets))
/-- FTEST (R322, R367): 1 where the time has passed, else 0; it is not an acquire. -/
def execFtest (d a b : Slot) (s : State) : Out :=
  let fs := [Fld.dg d, .g a, .gs b 2]
  s.flueOp fs fun i c h ms =>
    match firstTrap (errorsOf (frontierTargets c 1 ms)) with
    | some (t, x) => .next (s.takeTrap i t x)
    | none =>
      let f := (c.node (c.runsOn h.vcore)).f
      s.replayAll i ms 2 (fun _ q => if passed (f.getD (q.x 1).toNat []) (q.p 2) then 1 else 0) fun l s1 =>
        .next (s1.finish i fs false (l.map fun p => (p.1, .recorded p.1 (putWords d [lo32 p.2]))))

/-! Triggers and launches (R300, R323, R324). -/

/-- ILLEGAL_ENCODING as an own cause (R122). -/
def Trap.badHeader (order : Nat) : Trap := { rank := 7 + order, cause := .illegalEncoding }
/-- PROTECTION as an own cause: SUPL named in user mode (R122). -/
def Trap.supl (order : Nat) : Trap := { rank := 7 + order, cause := .protection }
/-- The header that a member names, read as the issuing thread (R122, R415). -/
def State.fetchHeader (s : State) (i : Iss) (c : Context) (t : Thread) (va : W64) : Got (Bytes × Bytes) × State :=
  match checkAddr c va 256 false with
  | .error x => (.trap x, s)
  | .ok va => s.readHeader c (physDie i.core) (.core i.core) t.key va t.who
/-- The header checks of R122 in their order, from own cause `order` on. -/
def headerOf (t : Thread) (order : Nat) (b : Bytes × Bytes) : Except Trap Header :=
  match parseHeader b.1 b.2 with
  | none => .error (.badHeader order)
  | some h => if h.supl && !t.sup then .error (.supl (order + 1)) else .ok h
/-- The checks of LAUNCH on a member's header (R324). -/
def launchCheck (c : Context) (l : Option Launch) (caps : List Cap) (t : Thread) (b : Bytes × Bytes) : Except Trap Header :=
  match headerOf t 0 b with
  | .error x => .error x
  | .ok h =>
    if h.hasCap && decide (c.graph.nloc ≤ h.donech) then .error (.time 2 9 h.donech h.intime)
    else if (h.hasCap && h.tdepth != c.graph.depth h.donech) || !timeOk h.tdepth h.intime then
      .error (.time 3 4 h.donech h.intime)
    else if h.hasCap && !c.covered l caps h.donech h.intime then .error (.time 4 1 h.donech h.intime)
    else .ok h
/-- LAUNCH (R122, R124, R210, R324): each member creates one launch. -/
def execLaunch (a : Slot) (s : State) : Out :=
  let fs := [Fld.gs a 2]
  s.flueOp fs fun i c h ms =>
    s.releaseAll i fun s0 =>
      s0.eachFetch i ms (fun _ t r s => s.fetchHeader i c t (r.p 0)) fun l s1 =>
        let r := l.map fun p => (p.1, launchCheck c (s.launch? i.ck.ctx i.ck.launch) h.caps p.1 p.2)
        let caps := fun (vs : List (Thread × Header)) =>
          (vs.filter fun v => v.2.hasCap).map fun v => chg v.2.donech v.2.intime 1
        s1.flueChecked i c (r, ()) caps fun vs _ =>
          let s2 := vs.foldl (fun s v => s.createLaunch c.id v.2 v.2.supl .none) s1
          .next ((s2.formFor i.ck (caps vs)).finish i fs false (ms.map fun m => (m.1, {})))
/-- A member's arming block (R300): CLOC, CTIME, CCOUNT, CHDR. -/
structure ArmBlock where
  loc : Nat
  cnt : Bool
  frn : Bool
  time : W64
  count : Nat
  hdr : W64
  deriving DecidableEq, Repr
/-- Reads an arming block; none where a reserved bit is set, or neither CNT nor FRN is (R300, R323). -/
def armBlock (ws : List W32) : Option ArmBlock :=
  let w := fun k => ws.getD k 0
  let c := (w 0).toNat
  if decide (c < 65536) && c / 1024 % 16 == 0 && c / 16384 != 0 && decide ((w 3).toNat < 65536) && w 6 == 0 && w 7 == 0 then
    some { loc := c % 1024, cnt := c / 16384 % 2 == 1, frn := c / 32768 == 1, time := join64 (w 1) (w 2),
           count := (w 3).toNat, hdr := join64 (w 4) (w 5) }
  else none
/-- The checks of TRIG on a member, in the order of R323: `free` counters are left. -/
def trigCheck (c : Context) (l : Option Launch) (caps : List Cap) (free : List Nat) (t : Thread) (k : ArmBlock)
    (b : Bytes × Bytes) : Except Trap (List Nat × (ArmBlock × Nat × Header)) :=
  match keyTrap c.graph 0 k.loc k.time with
  | some x => .error x
  | none =>
    match headerOf t 2 b with
    | .error x => .error x
    | .ok h =>
      if h.hasCap && decide (c.graph.nloc ≤ h.donech) then .error (.time 4 9 h.donech k.time)
      else if h.hasCap && c.graph.depth h.donech != c.graph.depth k.loc then .error (.time 5 4 h.donech k.time)
      else if h.hasCap && !c.covered l caps h.donech k.time then .error (.time 6 1 h.donech k.time)
      else match free with
        | [] => .error (.time 7 7 k.loc k.time)
        | n :: rest => .ok (rest, (k, n, h))
/-- TRIG (R300, R323): each member arms the lowest-numbered free counter. -/
def execTrig (a : Slot) (s : State) : Out :=
  let fs := [Fld.gs a 8]
  s.flueOp fs fun i c h ms =>
    s.releaseAll i fun s0 =>
      s0.eachFetch i ms (fun _ t r s => match armBlock (r.l 0) with
          | none => (.trap .illegal, s)
          | some k => Got.andThen (s.fetchHeader i c t k.hdr) fun b s => (.ok (k, b), s)) fun l s1 =>
        let free := (List.range 1024).filter fun n => !c.counters.any fun x => x.idx == n
        let r := l.foldl (fun (acc : List (Thread × Except Trap (ArmBlock × Nat × Header)) × List Nat) p =>
          match trigCheck c (s.launch? i.ck.ctx i.ck.launch) h.caps acc.2 p.1 p.2.1 p.2.2 with
          | .error x => (acc.1 ++ [(p.1, .error x)], acc.2)
          | .ok v => (acc.1 ++ [(p.1, .ok v.2)], v.1)) ([], free)
        let caps := fun (vs : List (Thread × ArmBlock × Nat × Header)) =>
          (vs.filter fun v => v.2.2.2.hasCap).map fun v => chg v.2.2.2.donech v.2.1.time 1
        s1.flueChecked i c r caps fun vs _ =>
          let s2 := s1.updContext c.id fun c =>
            { c with counters := c.counters ++ vs.map fun v =>
                { idx := v.2.2.1, loc := v.2.1.loc, cnt := v.2.1.cnt, frn := v.2.1.frn, ctime := v.2.1.time,
                  ccount := v.2.1.count, hdr := v.2.2.2, die := c.runsOn h.vcore } }
          .next ((s2.formFor i.ck (caps vs)).finish i fs false (ms.map fun m => (m.1, {})))

/-! TLW (R325). -/

/-- A member of TLW: its source, and the place and handle of its entry. -/
structure TlwAcc where
  src : Acc
  dst : Acc
  h : Nat
/-- The address of entry h of a context's descriptor table (R268). -/
def entryAddr (c : Context) (h : Nat) : W64 := c.desc.dtbase + w64 (64 * h)
/-- Whether the core's own line holds the whole of a source on the GEN path (R180). -/
def State.wholeLine (s : State) (i : Iss) (a : Acc) : Bool := (s.l1Read i.core a.vdev a.pa 64 .gen).isSome
/-- The line a member reads on the GEN path: the core's own valid and dirty bytes over the owner's (R180, R181). -/
def State.genLine (s : State) (i : Iss) (a : Acc) (remote : Option Bytes) : Bytes :=
  let b := match a.vdev with
    | some _ => remote.getD []
    | none => s.readPhys a.pa 64
  match (s.core i.core).line? a.vdev (a.pa / 64) .gen with
  | none => b
  | some l => (List.range 64).map fun k => if l.has k then l.data.getD k 0 else b.getD k 0
/-- What a member's source asks of the owner of a remote page: the line, or, where the core holds it whole, on a CHECKED page the read
notice (R219, R384, R386). -/
def State.tlwAsk (s : State) (i : Iss) (a : Acc) : Option (Acc × RemAcc) :=
  let chk := if a.checked then some (s.chkOf a.t, a.pa, 64) else none
  if a.vdev.isNone then none
  else if s.wholeLine i a then (if chk.isSome then some (a, { pa := a.pa, op := .read 0, chk := chk }) else none)
  else some (a, { pa := a.pa, op := .read 64, chk := chk })
/-- The translation of a member's entry address, a store of the thread (R325, R415); an entry at or above 2^56 is PROTECTION, as every
address there (R42). -/
def State.entryXlate (s : State) (c : Context) (i : Iss) (t : Thread) (h : Nat) : XR × State :=
  match addrTrap (entryAddr c h) 64 true with
  | some x => (.trap x, s)
  | none => s.xlate c (physDie i.core) (.core i.core) (entryAddr c h) .store t.who
/-- A member's access from its translation. -/
def accOf (t : Thread) (r : Reads) (va : W64) : XR → Option Acc
  | .ok v pa ch => some { t := t, r := r, va := va, vdev := v, pa := pa, checked := ch }
  | .trap _ | .pinned _ => none
/-- The trap of a translation. -/
def XR.trap? : XR → Option Trap
  | .trap t => some t
  | .ok _ _ _ | .pinned _ => none
/-- The race of a member's source on a CHECKED page of this device (R219, R325). -/
def State.tlwRace (s : State) (c : Context) (a : Acc) : Option Trap :=
  if a.checked && a.vdev.isNone then
    let ca := a.chkAcc false 64 (s.chkOf a.t)
    (s.raceOf c.id ca).map fun w => { Trap.race ca w.1 w.2 with rank := 8 }
  else none
/-- The members of TLW write their entries in membership order, each as one indivisible write of the slice or of the device that holds
the page, bypassing L1 (R325). -/
def State.tlwWrite (s : State) (c : Context) (i : Iss) (l : List TlwAcc) (ans : Acc → Option Bytes) : State :=
  (l.map fun a => (a, s.genLine i a.src (ans a.src))).foldl (fun s p =>
    let data := (p.2.take 2 ++ natLe 2 c.id ++ p.2.drop 4).map some
    let s1 := if p.1.src.checked && p.1.src.vdev.isNone then
      s.markAccess c.id (p.1.src.chkAcc false 64 (s.chkOf p.1.src.t)) else s
    match p.1.dst.vdev with
    | none => (s1.drainFor i.core p.1.dst.pa).writePhys p.1.dst.pa data
    | some v => s1.sendWrite c.id i.core v p.1.dst.pa data) s
/-- TLW once its addresses are translated (R325): the source and the entry are waited for, raced and watched, then the entries are
written. -/
def State.tlwPerform (s : State) (c : Context) (i : Iss) (l : List TlwAcc) (go : State → Out) : Out :=
  let s1 := l.foldl (fun s a => if a.src.vdev.isNone then s.drainFor i.core a.src.pa else s) s
  let waits := (l.filterMap fun a => if a.src.vdev.isNone && !s1.wholeLine i a.src then some a.src.pa else none) ++
    (l.filterMap fun a => if a.dst.vdev.isNone then some a.dst.pa else none)
  match waits.find? fun pa => s1.refused (.core i.core) (pa / 64) with
  | some pa => .next (s1.waitPinned i (some (pa / 64)))
  | none =>
    match firstTrap (l.map fun a => (a.src.t.key.tid, s1.tlwRace c a.src)) with
    | some (t, x) => .next (s1.takeTrap i t x)
    | none =>
      let srcs := l.filterMap fun a => s1.tlwAsk i a.src
      let dsts := l.filterMap fun a => if a.dst.vdev.isNone then none else some (a.dst, ({ pa := a.dst.pa, op := .read 0, chk := none } : RemAcc))
      let vas := l.map fun a => (a.src.t, a.src.va)
      let read := fun (s : State) =>
        s.remoteAccess i .load 64 (srcs.any fun p => p.2.chk.isSome) true srcs
          (fun s go => s.watched c i vas 64 true false go) fun s ans => go (s.tlwWrite c i l ans)
      if dsts.isEmpty then read (s1.clearProbes i) else (s1.clearProbes i).askOwners i .store 64 false dsts read
/-- TLW (R268, R325): privileged; each member writes one entry of the descriptor table at the slice, bypassing L1, in
membership order. -/
def execTlw (a b : Slot) (s : State) : Out :=
  let fs := [Fld.gs a 2, .g b]
  s.privileged .compute fs fun i ms =>
    match s.context? i.ck.ctx with
    | none => .next s
    | some c =>
      let as := ms.map fun m => (m, checkAddr c (m.2.p 0) 64 false)
      match firstTrap (errorsOf (as.map fun p => (p.1.1, p.2))) with
      | some (t, x) => .next (s.takeTrap i t x)
      | none =>
        if ms.any fun m => s.inFlight m.1.key then .next (s.stall i [])
        else
          let xs := s.xlateAll c i .load (as.filterMap fun p => match p.2 with
            | .ok va => some (p.1.1, p.1.2, va)
            | .error _ => none)
          let hOf := fun (r : Reads) => (r.x 1).toNat % 65536
          -- the entry of a member whose handle never comes is not addressed
          let ys := xs.1.foldl (fun (acc : List (Nat × XR) × State) p =>
            if p.1.2.1.unread.contains 1 then acc
            else let r := acc.2.entryXlate c i p.1.1 (hOf p.1.2.1)
                 (acc.1 ++ [(p.1.1.key.tid, r.1)], r.2)) ([], xs.2)
          let s1 := ys.2
          if (xs.1.map (·.2) ++ ys.1.map (·.2)).any fun x => decide (x = .pinned none) then .next (s1.stall i [])
          else
            let poison := fun (p : (Thread × Reads × W64) × XR) => (accOf p.1.1 p.1.2.1 p.1.2.2 p.2).bind fun a =>
              s1.poisonTrap 64 .load a (s1.wholeLine i a)
            let causes := fun (t : Nat) => xs.1.flatMap (fun p =>
                if p.1.1.key.tid == t then [(t, p.2.trap?), (t, poison p)] else []) ++
              ys.1.filterMap fun p => if p.1 == t then some (t, p.2.trap?) else none
            match firstTrap (ms.flatMap fun m => causes m.1.key.tid) with
            | some (t, x) => .next (s1.takeTrap i t x)
            | none => match firstTrap (deadTraps ms) with
            | some (t, x) => .next (s1.takeTrap i t x)
            | none => match firstTrap (ms.map fun m => (m.1.key.tid,
                if c.desc.dtcount ≤ hOf m.2 then some ({ rank := 7, cause := .protection } : Trap) else none)) with
            | some (t, x) => .next (s1.takeTrap i t x)
            | none =>
              match (xs.1.map (·.2) ++ ys.1.map (·.2)).findSome? fun x => match x with
                  | .pinned l => l
                  | .ok _ _ _ | .trap _ => none with
              | some l => .next (s1.waitPinned i (some l))
              | none =>
                let l := (xs.1.zip ys.1).filterMap fun p =>
                  match accOf p.1.1.1 p.1.1.2.1 p.1.1.2.2 p.1.2, accOf p.1.1.1 p.1.1.2.1 (entryAddr c (hOf p.1.1.2.1)) p.2.2 with
                  | some x, some y => some ({ src := x, dst := y, h := hOf p.1.1.2.1 } : TlwAcc)
                  | some _, none | none, _ => none
                s1.tlwPerform c i l fun s => .next (s.finish i fs false (ms.map fun m => (m.1, {})))

end Sys2Proof.Machine
end

