-- ==== Sys2Proof/Machine/Copy.lean ====
section
/-! DEFINITION. The copy engines: CPYREQ (R264 to R266, R305 to R310), the take-up checks (R267 to R276, R394), the
elements of a box (R272, R274, R281), collectives (R394 to R397), multicast (R276), and the end or failure of a request (R277,
R278, R280, R288). -/

namespace Sys2Proof.Machine

/-! CPYREQ (R307 to R310). -/

/-- The engine whose aperture an address is; none where it is not exactly one (R264), or where bits [63:56] are set (R42, R307). -/
def apertureOf (c : Context) (va : W64) : Option Nat :=
  let o := va.toNat - c.desc.apbase.toNat
  if decide (va.toNat < 2 ^ 56) && decide (c.desc.apbase.toNat ≤ va.toNat) && o % 4096 == 0 && decide (o / 4096 < 32) then some (o / 4096) else none
/-- TIME of a request line. -/
def lineTime (b : Bytes) : W64 := w64 (leAt b 32 8)
/-- RFLAGS of a request line. -/
def lineFlags (b : Bytes) : Nat := leAt b 4 1
/-- TIMED of a request line. -/
def lineTimed (b : Bytes) : Bool := lineFlags b / 64 % 2 == 1
/-- MCAST of a request line. -/
def lineMcast (b : Bytes) : Bool := lineFlags b / 32 % 2 == 1
/-- ARRIVE of a request line. -/
def lineArrive (b : Bytes) : Bool := lineFlags b / 16 % 2 == 1
/-- REQTAG of a request line. -/
def lineTag (b : Bytes) : Nat := leAt b 60 4
/-- SNB of a request line. -/
def lineSnb (b : Bytes) : Nat := leAt b 2 1 % 16
/-- Whether a timed line is counted: the three conditions of R309. -/
def countedLine (c : Context) (l : Option Launch) (b : Bytes) : Bool :=
  lineTimed b && (match l with
    | some l => l.hdr.hasCap && timeOk (c.graph.depth l.hdr.donech) (lineTime b) && timeLe l.hdr.intime (lineTime b)
    | none => false)
/-- The requests that an engine has accepted of a context and not finished (R265). -/
def Engine.pendingOf (e : Engine) (ctx : Nat) : Nat := (e.queue.filter fun q => q.ck.ctx == ctx && q.open).length
/-- An engine accepts a line (R265, R308): it takes the next acceptance sequence number of its context. -/
def State.acceptCopy (s : State) (i : Iss) (h : Cohort) (t : Thread) (e : Nat) (line : Bytes) (counted : Bool) : State :=
  s.updEngine (engAt i.ck.ctx e) fun g =>
    let n := aget 0 g.nextSeq i.ck.ctx + 1
    let q : CopyReq := { ck := i.ck, tid := t.key.tid, seq := n, line := line, phase := s.phaseOf t, status := .queued,
                         idx := 0, tmpl := none, ext := none, counted := counted, sup := t.sup, core := h.vcore,
                         written := [], gid := t.gid, held := [], sent := 0, failedPeers := [], due := [], credit := 0 }
    { g with queue := g.queue ++ [q], nextSeq := aput g.nextSeq i.ck.ctx n }
/-- CPYREQ of either form (R264, R305, R307 to R310, R212): every member's line is accepted, or the instruction waits; in a DET launch for
its core's turn at the inputs of the engines too (R380). -/
def State.copyRequest (s : State) (fs : List Fld) (line : Reads → Bytes) (off : BitVec 8) : Out :=
  s.operandsQ .both fs fun i ms =>
    match s.context? i.ck.ctx, s.cohort? i.ck with
    | some c, some h =>
      let va := fun (m : Thread × Reads) => m.2.p 1 + off.signExtend 64 * 64
      let as := ms.map fun m => (m.1, match apertureOf c (va m) with
        | some e => (Except.ok (e, line m.2) : Except Trap (Nat × Bytes))
        | none => .error (.addrProt (va m) true))
      match firstTrap (errorsOf as) with
      | some (t, x) => .next (s.takeTrap i t x)
      | none => match firstTrap (deadTraps ms) with
      | some (t, x) => .next (s.takeTrap i t x)
      | none =>
        let vs := okValues as
        let l := s.launch? i.ck.ctx i.ck.launch
        let full := vs.any fun v => decide (64 < (s.engine (engAt i.ck.ctx v.2.1)).pendingOf i.ck.ctx +
          (vs.filter fun w => w.2.1 == v.2.1).length)
        let ch := (vs.filter fun v => countedLine c l v.2.2).map fun v =>
          chg (match l with | some l => l.hdr.donech | none => 0) (lineTime v.2.2) 1
        if full || !s.keyRoom c ch || ms.any (fun m => s.inFlight m.1.key) then .next (s.stall i [])
        else
          let es := (vs.map fun v => v.2.1).eraseDups
          let go := fun (s : State) =>
            let s1 := vs.foldl (fun s v => s.acceptCopy i h v.1 v.2.1 v.2.2 (countedLine c l v.2.2)) s
            .next ((s1.formFor i.ck ch).finish i fs false (ms.map fun m => (m.1, {})))
          match s.detLaunch i.ck with
          | none => go s
          | some d =>
            let upd := fun (f : Launch → Launch) => s.updLaunch d.ctx d.id f
            if s.mayEnter d h.vcore es then go (upd fun d => es.foldl (fun d e => d.taken h.vcore (.engine e)) d)
            else .next ((upd fun d => d.ask h.vcore es).stall i [])
    | some _, none => .next s
    | none, _ => .next s
/-- CPYREQ (R266, R307). -/
def execCpyreq (d a : Slot) (off : BitVec 8) (s : State) : Out :=
  s.copyRequest [.gs d 16, .gs a 2] (fun r => bytesOfWords (r.l 0)) off
/-- CPYREQW (R266, R307). -/
def execCpyreqw (d a : Slot) (off : BitVec 8) (s : State) : Out :=
  s.copyRequest [.w d 4, .gs a 2] (fun r => bytesOfWords ((r.pks 0).flatMap samples)) off

/-! Templates and extensions (R271, R394). -/

/-- ESZ of an element format; none where EFMT fails its use (R271). -/
def eszOf (efmt : Nat) : Option Nat :=
  if efmt == 0x01 || efmt == 0x02 then some 4
  else if efmt == 0x03 || efmt == 0x04 then some 2
  else if decide (0x05 ≤ efmt) && decide (efmt ≤ 0x09) then some 1
  else if decide (0x20 ≤ efmt) && decide (efmt ≤ 0x2C) then some 64
  else none
/-- Element size of a template. -/
def Template.esz (t : Template) : Nat := (eszOf t.efmt).getD 1
/-- A copy template's body; none where it fails its use (R271). -/
def parseTemplate (e : Bytes) : Option Template :=
  let shape := leAt e 5 1
  let rank := shape % 8
  let op := shape / 32 % 4
  let perm := (List.range 5).map fun k => leAt e 6 2 / 2 ^ (3 * k) % 8
  let box := (List.range 5).map fun k => leAt e (8 + 2 * k) 2
  let t : Template := { efmt := leAt e 4 1, rank := rank, pmode := shape / 8 % 4, op := op, perm := perm, box := box,
                        sb := (List.range 5).map fun k => leAt e (18 + 2 * k) 2,
                        ss := 1 :: (List.range 4).map fun k => leAt e (28 + 3 * k) 3,
                        ds := 1 :: (List.range 4).map fun k => leAt e (40 + 3 * k) 3,
                        padv := w32 (leAt e 52 4), xhandle := leAt e 56 2, gdim := leAt e 58 1 }
  if (eszOf t.efmt).isSome && zeroAt e 1 1 && decide (1 ≤ rank) && decide (rank ≤ 5) && t.pmode != 3 && decide (shape < 128) &&
      decide (leAt e 6 2 < 2 ^ 15) && (List.range rank).all (fun k => (perm.take rank).contains k) &&
      (List.range 5).all (fun k => decide (k < rank) || perm.getD k 0 == k) && box.all (fun b => b != 0) &&
      (List.range 5).all (fun k => decide (k < rank) || box.getD k 1 == 1) && (op == 3 || t.xhandle == 0) &&
      decide (t.gdim < rank) && zeroAt e 59 5 then some t
  else none
/-- Elements of a box. -/
def Template.count (t : Template) : Nat := t.box.foldl (· * ·) 1
/-- Box bytes (R277). -/
def Template.bytes (t : Template) : Nat := t.esz * t.count
/-- Digit of a device number along an axis of the grid (R394). -/
def gridCoord (grid : List Nat) (v axis : Nat) : Nat :=
  v / (grid.take axis).foldl (· * ·) 1 % max 1 (grid.getD axis 1)
/-- The ring of a device: the members of the job whose coordinates agree on every axis outside REPL, in rank order (R394). -/
def CollExt.ring (x : CollExt) (c : Context) : List Nat :=
  let total := x.grid.foldl (· * ·) 1
  (List.range total).filter fun v => (sget 0 c.pod.devmap v).getLsbD 31 &&
    (List.range 3).all fun a => x.repl.testBit a || gridCoord x.grid v a == gridCoord x.grid c.self a
/-- A collective extension's body for a template; none where it fails (R394). -/
def parseExt (e : Bytes) (t : Template) (c : Context) : Option CollExt :=
  let x : CollExt := { mode := leAt e 4 1, rop := leAt e 5 1, chloc := leAt e 6 2,
                       grid := (List.range 3).map fun k => leAt e (8 + 2 * k) 2, repl := leAt e 14 1,
                       chunk := leAt e 16 4, timeout := leAt e 20 4, root := leAt e 24 2 }
  let total := x.grid.foldl (· * ·) 1
  let n := (x.ring c).length
  if decide (x.mode ≤ 3) && decide (x.rop ≤ 5) && ((x.mode == 0 || x.mode == 3) == (x.rop == 0)) &&
      (x.rop != 5 || t.efmt == 1) && decide (x.chloc < c.graph.nloc) && decide (1 ≤ total) && decide (total ≤ 1024) &&
      decide (c.self < total) && decide (x.repl < 8) && zeroAt e 1 1 && zeroAt e 15 1 && x.chunk != 0 && x.chunk % 256 == 0 &&
      x.timeout != 0 && (x.mode != 3 || decide (x.root < n)) && zeroAt e 26 38 && n != 0 &&
      t.bytes % (n * t.esz) == 0 then some x
  else none
/-- The bytes a request credits to its barrier (R277). -/
def creditOf (t : Template) (x : Option CollExt) (c : Context) : Nat :=
  match x with
  | some x => if x.mode == 1 then t.bytes / max 1 (x.ring c).length else t.bytes
  | none => t.bytes

/-! Requests of an engine. -/

/-- The name under which an engine reads and waits for a request, and the one under which it writes. -/
def engKey (e : Nat) (q : CopyReq) : ThKey := { ck := q.ck, tid := 8192 + engNo e, addr := false }
/-- The name under which it reads index words. -/
def idxKey (e : Nat) (q : CopyReq) : ThKey := { ck := q.ck, tid := 8256 + engNo e, addr := false }
/-- Whether PREEMPT drains a virtual core (R350). -/
def Context.draining (c : Context) (v : Nat) : Bool := c.pre.any fun p => p.1 == v && decide (p.2 = .drain)
/-- The request that an engine performs: the one it has begun, else the first it has accepted, of a context that the halt line
has not stopped it for, or of a cohort that PREEMPT drains (R265, R281, R282). -/
def State.current (s : State) (e : Nat) : Option CopyReq :=
  let live := (s.engine e).queue.filter fun q => q.open && (match s.context? q.ck.ctx with
    | some c => c.live (.engine (engNo e)) || c.draining (s.vcoreOf q.ck)
    | none => false)
  match live.find? fun q => decide (q.status ≠ .queued) with
  | some q => some q
  | none => live.head?
/-- Updates a request of an engine. -/
def State.updReq (s : State) (e : Nat) (q : CopyReq) (f : CopyReq → CopyReq) : State :=
  s.updEngine e fun g => { g with queue := updWhere (fun x => x.ck.ctx == q.ck.ctx && x.seq == q.seq) f g.queue }
/-- A cause of a request: COPY_FAULT with a subcause (R280). -/
def copyFault (sub : Nat) : Trap := { rank := 7, cause := .copyFault, sub := sub }
/-- A translation fault or a poisoned read as a cause of a request (R274, R343). -/
def Trap.asCopy (t : Trap) (sub : Nat) (va : W64) : Trap := { t with cause := .copyFault, sub := sub, addr := va }
/-- The linear box index that a request has reached (R280, R281): a reduce-scatter begins at the segment of its member. -/
def State.boxIndex (s : State) (q : CopyReq) : Nat :=
  match s.context? q.ck.ctx, q.tmpl, q.ext with
  | some c, some t, some x =>
    let ring := x.ring c
    if x.mode == 1 then (ring.findIdx fun m => m == c.self) * (t.count / max 1 ring.length) + q.idx else q.idx
  | some _, some _, none | some _, none, _ | none, _, _ => q.idx
/-- The record of a request's cause (R280, R335, R336). -/
def State.reqRec (s : State) (e : Nat) (q : CopyReq) (t : Trap) (extra : Nat) : TrapRec :=
  { cause := t.cause.code, sub := t.sub, sup := q.sup, write := t.write, malformed := t.malformed, cow := t.cow,
    poison := t.poison, req := true, launch := q.ck.launch, coh := q.ck.coh, tid := q.tid, gid := q.gid, pc := 0, addr := t.addr,
    info1 := w64 (engNo e + extra + q.seq * 2 ^ 32), info2 := w64 (lineTag q.line + s.boxIndex q % 2 ^ 32 * 2 ^ 32), ptptime := s.ptp,
    ltime := if lineTimed q.line then lineTime q.line else 0, clock := s.clock, kind := 1, engine := engNo e, seq := q.seq }
/-- What a request waited for is dropped. -/
def State.dropWaits (s : State) (e : Nat) (q : CopyReq) : State :=
  (((s.dropProbes (engKey e q)).dropAnswers (engKey e q)).dropAnswers (idxKey e q)).dropAnswers
    { engKey e q with addr := true }
/-- A request ends: what it waits for is dropped, and its count key is released (R288). -/
def State.endReq (s : State) (e : Nat) (q : CopyReq) : State :=
  let s1 := s.dropWaits e q
  match q.counted, s.launch? q.ck.ctx q.ck.launch with
  | true, some l => s1.form q.ck.ctx (engineSrc e) (engineDie e) [chg l.hdr.donech (lineTime q.line) (-1)]
  | true, none => s1
  | false, _ => s1
/-- The bits of INFO1 that name the earlier agent of a race (R336). -/
def raceBits (t : Trap) : Nat :=
  if t.cause = .memoryRace then t.info1.toNat % 4 * 256 + t.info1.toNat / 2048 * 2048 else 0
/-- A request fails (R280): what it wrote stands, it credits nothing, and the context halts. -/
def State.copyFail (s : State) (e : Nat) (q : CopyReq) (t : Trap) (extra : Nat) : State :=
  let r := s.reqRec e q t (extra + raceBits t)
  let s1 := (s.endReq e q).updReq e q fun x => { x with status := .failed t.cause.code t.sub }
  let s2 : State := { s1 with holds := s1.holds.filter fun h =>
    !(h.2.2.eng == e && h.2.2.seq == q.seq && decide (h.2.2.ck = q.ck) && !h.2.2.parked) }
  (s2.requestTrap q.ck.ctx r).recompute q.ck.ctx
/-- What follows the outcome of a part of a request: it fails, waits for a pinned line (R217), waits for the answer of another
device that it has asked (R384), or goes on. -/
def copyGot {α : Type} (e : Nat) (q : CopyReq) (r : Got α × State) (go : α → State → State) : State :=
  match r.1 with
  | .ok a => go a r.2
  | .trap t => r.2.copyFail e q t 0
  | .wait (some l) => r.2.probeFor (.engine e) (engKey e q) l
  | .wait none => r.2
  | .ask _ _ _ => r.2

/-! Accesses of a request (R203, R219, R274, R384). -/

/-- Who makes the accesses of a request (R200, R308). -/
def State.copyWho (s : State) (q : CopyReq) : Who := { user := !q.sup, det := s.isDet q.ck }
/-- What a request's checked access carries (R202, R218, R220). -/
def copyChk (c : Context) (e : Nat) (q : CopyReq) : Chk :=
  let tag := w32 (lineTag q.line)
  { agent := if q.ext.isSome then .coll c.self (engNo e) q.seq tag else .copy c.self (engNo e) q.seq tag, phase := q.phase }
/-- The race check of a request's access at the slice (R219 to R221). -/
def State.copyCheck (s : State) (c : Context) (e : Nat) (q : CopyReq) (va : W64) (pa n : Nat) (wr checked : Bool) :
    Got Unit × State :=
  if !checked then (.ok (), s)
  else
    let a : ChkAcc := { tid := 0, va := va, pa := pa, n := n, wr := wr, chk := copyChk c e q }
    match s.raceOf c.id a with
    | some w => (.trap (Trap.race a w.1 w.2), s)
    | none => (.ok (), s.markAccess c.id a)
/-- An answer of another device to a request, or its refusal as a cause (R385). -/
def answerOf (va : W64) (sub : Nat) (a : ChkAcc) : Resp → Got Bytes
  | .data l => .ok (l.headD [])
  | .error _ (.race e w) => .trap (Trap.race a w e)
  | .error _ .malformed => .trap { copyFault sub with addr := va, malformed := true }
  | .error _ .poison => .trap { copyFault sub with addr := va, poison := true }
  | .retry _ => .ask 0 0 0
/-- The die whose shared TLB an engine uses: that of the physical engine behind it (R197, R352). -/
def Context.engDie (c : Context) (e : Nat) : Nat := aget (engNo e) c.engs (engNo e) / 8
/-- Where a request reads or writes global memory (R274): an address outside the space, or in the apertures of the engines, which are not
backed by memory (R264), is a failed translation. -/
def State.copyPlace (s : State) (c : Context) (e : Nat) (q : CopyReq) (sub : Nat) (at_ : Int) (n : Nat) (k : AccK) : XR × State :=
  let va := wrap64 at_
  let bad : XR := .trap { copyFault sub with addr := va, write := k.writes }
  if at_ < 0 ∨ 2 ^ 56 ≤ at_ then (bad, s)
  else if inAperture c va || inAperture c (wrap64 (at_ + n - 1)) then (bad, s)
  else
    let x := s.xlate c (c.engDie e) (.engine e) va k (s.copyWho q)
    match x.1 with
    | .trap t => (.trap (t.asCopy sub va), x.2)
    | .ok _ _ _ | .pinned _ => x
/-- A request asks another device under a name, and goes on with its answer (R384, R385). -/
def State.copyAsk (s : State) (e : Nat) (key : ThKey) (v sub : Nat) (ch : Bool) (a : ChkAcc) (op : RemOp) : Got Bytes × State :=
  let acc : RemAcc := { pa := a.pa, op := op, chk := if ch then some (a.chk, a.pa, a.n) else none }
  match s.answered? key v false [acc] with
  | some r => (answerOf a.va sub a r, s)
  | none => (.ask v a.pa a.n, s.askFor (.engine e) key v false [acc])
/-- Reads bytes of global memory for a request, asking another device where it holds them. -/
def State.copyRead (s : State) (c : Context) (e : Nat) (q : CopyReq) (key : ThKey) (sub : Nat) (at_ : Int) (n : Nat) :
    Got Bytes × State :=
  let va := wrap64 at_
  let x := s.copyPlace c e q sub at_ n .load
  match x.1 with
  | .trap t => (.trap t, x.2)
  | .pinned l => (.wait l, x.2)
  | .ok (some v) pa ch =>
    x.2.copyAsk e key v sub ch { tid := 0, va := va, pa := pa, n := n, wr := false, chk := copyChk c e q } (.read n)
  | .ok none pa ch =>
    if x.2.refused (.engine e) (pa / 64) then (.wait (some (pa / 64)), x.2)
    else if x.2.poisoned pa n then (.trap { copyFault sub with addr := va, poison := true }, x.2)
    else Got.andThen (x.2.copyCheck c e q va pa n false ch) fun _ s => (.ok (s.readPhys pa n), s)
/-- Writes bytes of global memory for a request. -/
def State.copyWrite (s : State) (c : Context) (e : Nat) (q : CopyReq) (at_ : Int) (data : Bytes) : Got Unit × State :=
  let n := data.length
  let va := wrap64 at_
  let x := s.copyPlace c e q 6 at_ n .store
  match x.1 with
  | .trap t => (.trap t, x.2)
  | .pinned l => (.wait l, x.2)
  | .ok (some v) pa ch =>
    Got.andThen (x.2.copyAsk e { engKey e q with addr := true } v 6 ch
      { tid := 0, va := va, pa := pa, n := n, wr := true, chk := copyChk c e q } (.write (data.map some))) fun _ s => (.ok (), s)
  | .ok none pa ch =>
    if x.2.refused (.engine e) (pa / 64) then (.wait (some (pa / 64)), x.2)
    else Got.andThen (x.2.copyCheck c e q va pa n true ch) fun _ s => (.ok (), s.writePhys pa (data.map some))

/-! Elements of a box (R272, R274). -/

/-- SSPACE of a request line. -/
def lineSspace (b : Bytes) : Nat := lineFlags b % 4
/-- DSPACE of a request line. -/
def lineDspace (b : Bytes) : Nat := lineFlags b / 4 % 4
/-- ORG of a request line. -/
def lineOrg (b : Bytes) : List Int := (List.range 5).map fun k => signedOf 16 (leAt b (48 + 2 * k) 2)
/-- The box index of a linear box index. -/
def Template.digits (t : Template) (i : Nat) : List Nat :=
  (List.range 5).map fun k => i / (t.box.take k).foldl (· * ·) 1 % max 1 (t.box.getD k 1)
/-- An element: whether it has a valid source, whether it is written, and its source and destination element offsets. -/
structure Elem where
  valid : Bool
  write : Bool
  src : Int
  dst : Int
  deriving DecidableEq, Repr
/-- The element of a linear box index, with the index word of a gather or scatter (R272). -/
def Template.elem (t : Template) (org : List Int) (i : Nat) (w : Int) : Elem :=
  let j := t.digits i
  let ks := List.range t.rank
  let x := ks.map fun k => if t.op == 1 && k == t.gdim then w else org.getD k 0 + (j.getD k 0 : Int)
  let y := fun k => if t.op == 2 && k == t.gdim then w else ((j.getD k 0 : Nat) : Int)
  let inside := ks.all fun k => decide (0 ≤ x.getD k 0) && decide (x.getD k 0 < t.sb.getD k 0)
  let x' := ks.map fun k => max 0 (min (x.getD k 0) ((t.sb.getD k 0 : Nat) - 1 : Int))
  let valid := inside || t.pmode == 2
  let src := (ks.map fun k => (if inside then x.getD k 0 else x'.getD k 0) * (t.ss.getD k 0 : Int)).sum
  let dst := (ks.map fun k => y (t.perm.getD k 0) * (t.ds.getD k 0 : Int)).sum
  { valid := valid, write := (valid || t.pmode == 1) && (t.op != 2 || decide (0 ≤ w)), src := src, dst := dst }
/-- The fill of an element: PADV, or the zero block of a blocked format (R272). -/
def Template.fillBytes (t : Template) : Bytes :=
  if t.esz == 64 then
    [0x20, 0x7F] ++ (List.replicate 3 ([0x7F, 0x00] ++ List.replicate 16 0)).flatMap id ++ List.replicate 8 0
  else (bytesOfWord t.padv).take t.esz
/-- Whether an element offset lies outside a bounded space (R274). -/
def outside (space scratch base esz : Nat) (off : Int) : Bool :=
  if space == 1 then decide (base + off * esz < 0) || decide ((scratch : Int) < base + off * esz + esz)
  else if space == 2 then decide (off < 0) || decide (16384 < (off + 1) * esz)
  else false
/-- A byte of a tile (R274). -/
def Cohort.tileByte (h : Cohort) (t o : Nat) : Byte := (bytesOfWord (h.tileElem t (o / 256) (o % 256 / 4))).getD (o % 4) 0
/-- Writes bytes of a bound tile (R274). -/
def Cohort.writeTile (h : Cohort) (t o : Nat) : Bytes → Cohort
  | [] => h
  | b :: bs =>
    let w := bytesOfWord (h.tileElem t (o / 256) (o % 256 / 4))
    let v := w32 (leNat (w.set (o % 4) b))
    Cohort.writeTile (h.updTile t fun x => { x with elems := sput 0 x.elems (o / 4) v }) t (o + 1) bs
/-- The path of a request's accesses (R203, R310). -/
def Template.path (t : Template) : MemPath := if t.op == 3 then .coll else .copy
/-- Reads a source element (R215, R272, R274). -/
def State.readElem (s : State) (c : Context) (e : Nat) (q : CopyReq) (t : Template) (off : Int) : Got Bytes × State :=
  let base := leAt q.line 8 8
  match s.cohort? q.ck with
  | none => (.ok [], s)
  | some h =>
    if outside (lineSspace q.line) h.scratchSize base t.esz off then (.trap (copyFault 8), s)
    else if lineSspace q.line == 1 then
      let o := (base + off * t.esz).toNat
      let v := s.seeScratch h t.path t.esz [(q.tid, o)]
      (.ok (v.1 q.tid o), v.2)
    else if lineSspace q.line == 2 then
      let o := (off * t.esz).toNat
      let v := s.seeBytes h t.path t.esz (.tile base) (fun o => (List.range t.esz).map fun k => h.tileByte base (o + k)) [(q.tid, o)]
      (.ok (v.1 q.tid o), v.2)
    else s.copyRead c e q (engKey e q) 6 (base + off * t.esz) t.esz
/-- Writes a destination element, of a multicast into its slot of the holding buffer (R272, R274, R276). -/
def State.writeElem (s : State) (c : Context) (e : Nat) (q : CopyReq) (t : Template) (off : Int) (data : Bytes) :
    Got Unit × State :=
  let base := leAt q.line 16 8
  match s.cohort? q.ck with
  | none => (.ok (), s)
  | some h =>
    let o := (base + off * t.esz).toNat
    if outside (lineDspace q.line) h.scratchSize base t.esz off then (.trap (copyFault 8), s)
    else if lineMcast q.line then
      (.ok (), { s with holds := s.holds.map fun x =>
        if x.2.2.eng == e && x.2.2.seq == q.seq && decide (x.2.2.ck = q.ck) then
          (x.1, x.2.1, { x.2.2 with data := ((List.range data.length).zip data).foldl (fun m p => aput m (o + p.1) p.2) x.2.2.data })
        else x })
    else if lineDspace q.line == 1 then (.ok (), s.updCohort q.ck fun h => (h.keep t.path).writeScratch o data)
    else if lineDspace q.line == 2 then
      (.ok (), s.updCohort q.ck fun h => (h.keep t.path).writeTile base (off * t.esz).toNat data)
    else s.copyWrite c e q (base + off * t.esz) data
/-- The index word of an element of a gather or scatter (R272); zero for the other operations. -/
def State.indexWord (s : State) (c : Context) (e : Nat) (q : CopyReq) (t : Template) (i : Nat) : Got Int × State :=
  if t.op == 1 || t.op == 2 then
    Got.andThen (s.copyRead c e q (idxKey e q) 9 (leAt q.line 40 8 + 4 * (t.digits i).getD t.gdim 0 : Nat) 4) fun b s =>
      (.ok (signedOf 32 (leNat b)), s)
  else (.ok 0, s)
/-- The next element of a box (R272, R281): read, then written; a fill gives way to a valid element before it. -/
def State.copyStep (s : State) (c : Context) (e : Nat) (q : CopyReq) (t : Template) : State :=
  copyGot e q (Got.andThen (s.indexWord c e q t q.idx) fun w s =>
    let x := t.elem (lineOrg q.line) q.idx w
    if !x.write || (!x.valid && q.written.contains x.dst) then (.ok none, s)
    else Got.andThen (if x.valid then s.readElem c e q t x.src else (.ok t.fillBytes, s)) fun b s =>
      Got.andThen (s.writeElem c e q t x.dst b) fun _ s =>
        (.ok (if x.valid && t.pmode == 1 then some x.dst else none), s)) fun d s =>
    (s.dropWaits e q).updReq e q fun r =>
      { r with idx := r.idx + 1, written := match d with
          | some d => if r.written.contains d then r.written else r.written ++ [d]
          | none => r.written }

/-! Collectives (R394 to R397). -/

/-- Pieces of at most a chunk's bytes of a range of the box, as (chunk index, offset, bytes). -/
def chunkCuts (k0 lo n chunk : Nat) : List (Nat × Nat × Nat) :=
  (List.range ((n + chunk - 1) / max 1 chunk)).map fun i => (k0 + i, lo + i * chunk, min chunk (n - i * chunk))
/-- Chunks of a segment of the box. -/
def CollExt.segChunks (x : CollExt) (total n m : Nat) : List (Nat × Nat × Nat) :=
  let g := total / max 1 n
  chunkCuts (m * ((g + x.chunk - 1) / max 1 x.chunk)) (m * g) g x.chunk
/-- The chunks that a member owes another, by their ranks in a ring of n members (R395, R396). -/
def CollExt.owed (x : CollExt) (total n src dst : Nat) : List (Nat × Nat × Nat) :=
  if src == dst then []
  else if x.mode == 0 then x.segChunks total n src
  else if x.mode == 1 then x.segChunks total n dst
  else if x.mode == 2 then (List.range n).flatMap (x.segChunks total n)
  else if src == x.root then chunkCuts 0 0 total x.chunk else []
/-- The chunk index that holds a byte of the box. -/
def CollExt.chunkOf (x : CollExt) (total n o : Nat) : Nat :=
  let g := total / max 1 n
  if x.mode == 3 then o / max 1 x.chunk
  else o / max 1 g * ((g + x.chunk - 1) / max 1 x.chunk) + o % max 1 g / max 1 x.chunk
/-- The rank of a member in its ring. -/
def rankOf (ring : List Nat) (v : Nat) : Nat := ring.findIdx fun m => m == v
/-- The rank that stands in for a failed rank: the next survivor in rank order (R397). -/
def standIn (ring : List Nat) (failed : List (Nat × Nat)) (v : Nat) : Option Nat :=
  let n := ring.length
  ((List.range n).map fun i => ring.getD ((rankOf ring v + 1 + i) % max 1 n) 0).find? fun m => !failed.any fun f => f.1 == m
/-- What a member sends, in order, as (receiver, chunk index, offset, bytes, own): its own chunks, then those of failed members
for which it stands in (R396, R397). -/
def CollExt.sends (x : CollExt) (c : Context) (total : Nat) (failed : List (Nat × Nat)) :
    List (Nat × Nat × Nat × Nat × Bool) :=
  let ring := x.ring c
  let n := ring.length
  let part := fun (src : Nat) (own : Bool) (k : Nat) => ring.flatMap fun v =>
    ((x.owed total n (rankOf ring src) (rankOf ring v)).filter fun p => decide (k ≤ p.1)).map fun p =>
      (v, p.1, p.2.1, p.2.2, own)
  part c.self true 0 ++ (failed.filter fun f => decide (standIn ring failed f.1 = some c.self)).flatMap fun f => part f.1 false f.2
/-- The source elements that a member sends or reduces (R395). -/
def CollExt.reads (x : CollExt) (c : Context) (t : Template) (i : Nat) : Bool :=
  let r := rankOf (x.ring c) c.self
  if x.mode == 0 then i * t.esz / max 1 (t.bytes / max 1 (x.ring c).length) == r
  else x.mode != 3 || r == x.root
/-- The first destination element of a member and their number (R395). -/
def CollExt.dests (x : CollExt) (c : Context) (t : Template) : Nat × Nat :=
  let n := max 1 (x.ring c).length
  if x.mode == 1 then (rankOf (x.ring c) c.self * (t.count / n), t.count / n) else (0, t.count)
/-- A source element of this member: what the box reads, the fill, or, where the box skips it, a value the manual does not state. -/
def State.ownElem (s : State) (c : Context) (e : Nat) (q : CopyReq) (t : Template) (i : Nat) : Got Bytes × State :=
  let x := t.elem (lineOrg q.line) i 0
  if x.valid then s.readElem c e q t x.src
  else if t.pmode == 1 then (.ok t.fillBytes, s)
  else let p := s.freeBytes t.esz
       (.ok p.1, p.2)
/-- Source elements of this member in a byte range of the box. -/
def State.ownBytes (s : State) (c : Context) (e : Nat) (q : CopyReq) (t : Template) (off n : Nat) : Got Bytes × State :=
  (List.range (n / t.esz)).foldl (fun acc k =>
    Got.andThen acc fun bs s => Got.andThen (s.ownElem c e q t (off / t.esz + k)) fun b s => (.ok (bs ++ b), s)) (.ok [], s)
/-- The bytes of an element in the chunks that have landed from a member. -/
def Pod.landed (p : Pod) (x : CollExt) (time : W64) (v o n : Nat) : Option Bytes :=
  (p.chunksIn.find? fun m => m.1 == v && m.2.chloc == x.chloc && decide (m.2.time = time) && decide (m.2.off ≤ o) &&
    decide (o + n ≤ m.2.off + m.2.data.length)).map fun m => (m.2.data.drop (o - m.2.off)).take n
/-- A reduction of two elements (R394, R395); the manual gives one only for elements of four bytes. -/
def reduceElem (rop : Nat) (x y : Bytes) : Bytes :=
  let a := w32 (leNat x)
  let b := w32 (leNat y)
  bytesOfWord (if rop == 1 then barCombine .addF a b else if rop == 2 then barCombine .addI a b
    else if rop == 3 then barCombine .minF a b else if rop == 4 then barCombine .maxF a b else addBf16x2 a b)
/-- Whether the contribution of a member to a chunk counts: it had not failed, or had completed the chunk (R397). -/
def CopyReq.counts (q : CopyReq) (v k : Nat) : Bool := q.failedPeers.all fun f => f.1 != v || decide (k < f.2)
/-- What members other than this one contribute to an element, in rank order: none for a member whose chunk has not landed. -/
def State.contribution (s : State) (c : Context) (e : Nat) (q : CopyReq) (t : Template) (x : CollExt) (i v : Nat) :
    Got Bytes × State :=
  if v == c.self then s.ownElem c e q t i
  else match c.pod.landed x (lineTime q.line) v (i * t.esz) t.esz with
    | some b => (.ok b, s)
    | none => (.ask v 0 0, s)
/-- The value of a destination element (R395, R397): none where only a failed member supplied it; it waits while a chunk is due. -/
def State.collValue (s : State) (c : Context) (e : Nat) (q : CopyReq) (t : Template) (x : CollExt) (i : Nat) :
    Got (Option Bytes) × State :=
  let ring := x.ring c
  let n := ring.length
  let k := x.chunkOf t.bytes n (i * t.esz)
  let from_ := if x.mode == 0 then (ring[i * t.esz / max 1 (t.bytes / max 1 n)]?).toList
    else if x.mode == 3 then (ring[x.root]?).toList else ring
  let r := (from_.filter fun v => q.counts v k).foldl (fun (acc : Got (List Bytes) × State) v =>
    Got.andThen acc fun bs s => Got.andThen (s.contribution c e q t x i v) fun b s => (.ok (bs ++ [b]), s)) (.ok [], s)
  Got.andThen r fun bs s => match bs with
    | [] => (.ok none, s)
    | b :: rest =>
      if x.rop == 0 || rest.isEmpty then (.ok (some b), s)
      else if t.esz == 4 then (.ok (some (rest.foldl (reduceElem x.rop) b)), s)
      else let p := s.freeBytes t.esz
           (.ok (some p.1), p.2)
/-- A member sends its next chunk: first the chunk's +1 at (CHLOC, TIME) enters a batch of the engine; once every node has applied
it the chunk departs (R396). -/
def State.collSend (s : State) (c : Context) (e : Nat) (q : CopyReq) (t : Template) (x : CollExt)
    (m : Nat × Nat × Nat × Nat × Bool) : State :=
  let tick := fun (s : State) (d : Nat) => (s.dropWaits e q).updReq e q fun r => { r with sent := r.sent + d }
  if q.failedPeers.any fun f => f.1 == m.1 then tick s (2 - q.sent % 2)
  else if q.sent % 2 == 0 then
    let ch := [chg x.chloc (lineTime q.line) 1]
    if s.keyRoom c ch then (tick s 1).form c.id (engineSrc e) (engineDie e) ch else s
  else if c.batches.any fun b => b.srcId == engineSrc e && b.vdev == c.self then s
  else
    let src := if m.2.2.2.2 then s.ownBytes c e q t m.2.2.1 m.2.2.2.1
      else let p := s.freeBytes m.2.2.2.1
           (.ok p.1, p.2)
    copyGot e q src fun b s =>
      (tick s 1).sendData c.id m.1 (.chunk { chloc := x.chloc, time := lineTime q.line, idx := m.2.1,
                                             reqtag := w32 (lineTag q.line), off := m.2.2.1, data := b })
/-- The next step of a collective: a chunk is sent, or, once all are, an element is written (R395, R396). -/
def State.collStep (s : State) (c : Context) (e : Nat) (q : CopyReq) (t : Template) (x : CollExt) : State :=
  match (x.sends c t.bytes q.failedPeers)[q.sent / 2]? with
  | some m => s.collSend c e q t x m
  | none =>
    let d := x.dests c t
    if d.2 ≤ q.idx then s
    else copyGot e q (Got.andThen (s.collValue c e q t x (d.1 + q.idx)) fun v s => match v with
        | none => (.ok (), s)
        | some b => s.writeElem c e q t (t.elem (lineOrg q.line) (d.1 + q.idx) 0).dst b) fun _ s =>
      (s.dropWaits e q).updReq e q fun r => { r with idx := r.idx + 1 }
/-- Whether a request has performed every element, and sent every chunk. -/
def CopyReq.performed (q : CopyReq) (c : Context) : Bool :=
  match q.tmpl, q.ext with
  | some t, some x => decide ((x.dests c t).2 ≤ q.idx) && decide (2 * (x.sends c t.bytes q.failedPeers).length ≤ q.sent)
  | some t, none => decide (t.count ≤ q.idx)
  | none, _ => false
/-- The step of an engine that performs a request (R272, R281, R396). -/
def State.engineStep (s : State) (e : Nat) : State :=
  match s.current e with
  | none => s
  | some q =>
    match s.context? q.ck.ctx, q.tmpl, q.ext with
    | some c, some t, some x => if decide (q.status = .active) && !q.performed c then s.collStep c e q t x else s
    | some c, some t, none => if decide (q.status = .active) && !q.performed c then s.copyStep c e q t else s
    | some _, none, _ => s
    | none, _, _ => s

/-! Take-up (R267 to R276). -/

/-- Item 1 of R267 as far as the line decides it. -/
def CopyReq.lineOk (q : CopyReq) : Bool :=
  let b := q.line
  let base := fun (sp o : Nat) => if sp == 0 then decide (leAt b o 8 < 2 ^ 56)
    else if sp == 1 then decide (leAt b o 8 < 2 ^ 32) else decide (leAt b o 8 < 512)
  decide (leAt b 2 1 < 16) && decide (leAt b 3 1 < 16) && decide (lineFlags b < 128) && zeroAt b 6 2 && zeroAt b 28 4 &&
    zeroAt b 58 2 && lineSspace b != 3 && lineDspace b != 3 && base (lineSspace b) 8 && base (lineDspace b) 16 &&
    (!lineTimed b || q.counted)
/-- The read of a descriptor-table entry by an engine (R269). -/
def State.readEntry (s : State) (c : Context) (e : Nat) (q : CopyReq) (sub h : Nat) : Got Bytes × State :=
  let va := c.desc.dtbase + w64 (64 * h)
  let r := s.readVirt c (c.engDie e) (.engine e) (engKey e q) va 64 .device
  match r.1 with
  | .ok b => (.ok b, r.2)
  | .trap t => (.trap (t.asCopy sub va), r.2)
  | .wait l => (.wait l, r.2)
  | .ask v pa n => (.ask v pa n, r.2.askFor (.engine e) (engKey e q) v false [readAcc pa n])
/-- Whether the bases of a request that lie in global memory are multiples of the element size (R267, item 1). -/
def CopyReq.aligned (q : CopyReq) (esz : Nat) : Bool :=
  (lineSspace q.line != 0 || leAt q.line 8 8 % esz == 0) && (lineDspace q.line != 0 || leAt q.line 16 8 % esz == 0)
/-- Items 2 to 6 of R267: the entry, the template and its collective extension. What item 1 says of the bases comes ahead of all that the
template and its extension fail, once its element size is known. -/
def State.readTemplate (s : State) (c : Context) (e : Nat) (q : CopyReq) : Got (Template × Option CollExt) × State :=
  let h := leAt q.line 0 2
  if c.desc.dtcount ≤ h then (.trap (copyFault 1), s)
  else Got.andThen (s.readEntry c e q 6 h) fun b s =>
    if leAt b 2 2 != c.id then (.trap (copyFault 2), s)
    else if leAt b 0 1 != 1 then (.trap (copyFault 3), s)
    else if !q.aligned ((eszOf (leAt b 4 1)).getD 1) then (.trap (copyFault 12), s)
    else match parseTemplate b with
      | none => (.trap (copyFault 4), s)
      | some t =>
        if t.op != 3 then (.ok (t, none), s)
        else if !lineTimed q.line then (.trap (copyFault 12), s)
        else if c.desc.dtcount ≤ t.xhandle then (.trap (copyFault 4), s)
        else Got.andThen (s.readEntry c e q 4 t.xhandle) fun x s =>
          if leAt x 2 2 != c.id || leAt x 0 1 != 7 then (.trap (copyFault 4), s)
          else match parseExt x t c with
            | none => (.trap (copyFault 4), s)
            | some x => (.ok (t, some x), s)
/-- What item 1 of R267 leaves to the extension: the depth of CHLOC (R396). -/
def CopyReq.chlocOk (c : Context) (l : Option Launch) (x : Option CollExt) : Bool :=
  match x, l with
  | none, _ => true
  | some x, some l => c.graph.depth x.chloc == c.graph.depth l.hdr.donech
  | some _, none => false
/-- Item 8 of R267: the conditions of a multicast (R276). -/
def CopyReq.mcastOk (q : CopyReq) (l : Option Launch) (t : Template) : Bool :=
  !lineMcast q.line ||
  (lineDspace q.line == 1 && decide (t.bytes ≤ 65536) && leAt q.line 5 1 != 0 && (match l with
    | some l => (List.range 8).all fun k => !(leAt q.line 5 1).testBit k ||
        decide (leAt q.line 24 4 + k < l.hdr.gx * l.hdr.gy * l.hdr.gz)
    | none => false))
/-- The elements of a box that take part for this member, each with what its index word makes of it. -/
def CopyReq.elems (q : CopyReq) (t : Template) (ws : List Int) : List Elem :=
  (List.range t.count).map fun i => t.elem (lineOrg q.line) i (ws.getD ((t.digits i).getD t.gdim 0) 0)
/-- The span of a list of element offsets, in bytes from a base: lowest, and one past the highest (R273). -/
def spanOf (base esz : Nat) : List Int → Option (Int × Int)
  | [] => none
  | o :: rest => some (base + (rest.foldl min o) * esz, base + (rest.foldl max o) * esz + esz)
/-- Whether a member of a collective reads, and writes, an element of the box (R395); a plain copy does both. -/
def reaches (c : Context) (t : Template) (x : Option CollExt) (i : Nat) : Bool × Bool :=
  match x with
  | some x => (x.reads c t i, decide ((x.dests c t).1 ≤ i) && decide (i < (x.dests c t).1 + (x.dests c t).2))
  | none => (true, true)
/-- Whether the spans of a permuting copy overlap (R273). -/
def CopyReq.overlaps (q : CopyReq) (c : Context) (t : Template) (x : Option CollExt) (ws : List Int) : Bool :=
  let all := (List.range t.count).zip (q.elems t ws)
  let reads := all.filter fun p => p.2.valid && p.2.write && (reaches c t x p.1).1
  let writes := all.filter fun p => (x.isSome || p.2.write) && (reaches c t x p.1).2
  let sp := lineSspace q.line
  let base := fun (o : Nat) => if sp == 2 then 0 else leAt q.line o 8
  t.perm != List.range 5 && !lineMcast q.line && sp == lineDspace q.line &&
  (sp != 2 || leAt q.line 8 8 == leAt q.line 16 8) &&
  (match spanOf (base 8) t.esz (reads.map fun p => p.2.src), spanOf (base 16) t.esz (writes.map fun p => p.2.dst) with
    | some a, some b => decide (a.1 < b.2) && decide (b.1 < a.2)
    | none, _ => false
    | some _, none => false)
/-- The index words of a permuting gather or scatter, which decide its spans (R273). -/
def State.indexWords (s : State) (c : Context) (e : Nat) (q : CopyReq) (t : Template) : Got (List Int) × State :=
  if t.perm == List.range 5 || !(t.op == 1 || t.op == 2) then (.ok [], s)
  else
    let step := (t.box.take t.gdim).foldl (· * ·) 1
    (List.range (t.box.getD t.gdim 1)).foldl (fun acc k =>
      Got.andThen acc fun ws s => Got.andThen (s.indexWord c e q t (k * step)) fun w s => (.ok (ws ++ [w]), s)) (.ok [], s)
/-- Item 10 of R267: whether an element that the line and the template decide lies outside its space (R274): of a gather that skips what
is out of bounds, the index words decide which elements are written. -/
def CopyReq.beyond (q : CopyReq) (c : Context) (t : Template) (x : Option CollExt) (scratch : Nat) : Bool :=
  (List.range t.count).any fun i =>
    let el := t.elem (lineOrg q.line) i 0
    let at' := reaches c t x i
    let wr := at'.2 && (x.isSome || el.write) && t.op != 2 && !(t.op == 1 && t.pmode == 0)
    (at'.1 && el.valid && t.op != 1 && outside (lineSspace q.line) scratch (leAt q.line 8 8) t.esz el.src) ||
    (wr && outside (lineDspace q.line) scratch (leAt q.line 16 8) t.esz el.dst)
/-- The take-up checks, in the order of R267. -/
def State.takeUpChecks (s : State) (c : Context) (e : Nat) (q : CopyReq) : Got (Template × Option CollExt) × State :=
  let l := s.launch? q.ck.ctx q.ck.launch
  let scratch := match s.cohort? q.ck with
    | some h => h.scratchSize
    | none => 0
  if !q.lineOk then (.trap (copyFault 12), s)
  else Got.andThen (s.readTemplate c e q) fun p s =>
    if !CopyReq.chlocOk c l p.2 then (.trap (copyFault 12), s)
    else if (p.1.op == 1 || p.1.op == 2) && leAt q.line 40 8 % 4 != 0 then (.trap (copyFault 9), s)
    else if !q.mcastOk l p.1 then (.trap (copyFault 10), s)
    else Got.andThen (s.indexWords c e q p.1) fun ws s =>
      if q.overlaps c p.1 p.2 ws then (.trap (copyFault 5), s)
      else if q.beyond c p.1 p.2 scratch then (.trap (copyFault 8), s)
      else (.ok p, s)
/-- The receivers of a multicast that have not completed yet (R276). -/
def State.receivers (s : State) (q : CopyReq) : List Nat :=
  ((List.range 8).filter fun k => (leAt q.line 5 1).testBit k).map (leAt q.line 24 4 + ·) |>.filter fun n =>
    (s.cohort? { q.ck with coh := n }).isSome ||
    (match s.launch? q.ck.ctx q.ck.launch with
      | some l => decide (l.nextCoh ≤ n)
      | none => false)
/-- The record of an overflow that a request's bytes or arrival at barrier n bring about (R278, R336). -/
def State.overflowRec (s : State) (e : Nat) (q : CopyReq) (n : Nat) : TrapRec :=
  s.reqRec e { q with idx := match q.tmpl with | some t => t.count | none => q.idx }
    { rank := 7, cause := .barrierOverflow } (n * 2 ^ 16)
/-- A multicast takes a free slot of the holding buffer of its core's cluster, if there is one (R276). -/
def State.takeSlot (s : State) (c : Context) (e : Nat) (q : CopyReq) (t : Template) : Option State :=
  let cl := s.physCluster (c.phys q.core)
  match (List.range 32).find? fun k => !s.holds.any fun h => h.1 == cl && h.2.1 == k with
  | none => none
  | some k =>
    let dnb := leAt q.line 3 1 % 16
    let h : HoldSlot := { eng := e, seq := q.seq, ck := q.ck, order := 0, data := [], receivers := s.receivers q, dnb := dnb,
                          bytes := t.bytes, parked := false, overflow := s.overflowRec e { q with tmpl := some t } dnb }
    some { s with holds := s.holds ++ [(cl, k, h)] }
/-- A request takes hold of its tiles in ascending order, up to the first that another copy holds (R275). -/
def State.takeTiles (s : State) (q : CopyReq) : List Nat → List Nat
  | [] => []
  | n :: ns => if q.held.contains n || (s.tileHolder q.ck n).isNone then n :: s.takeTiles q ns else []
/-- A checked request begins (R275, R276): its tiles are bound and not owned, it takes hold of them, and a multicast has a slot. -/
def State.beginCopy (s : State) (c : Context) (e : Nat) (q : CopyReq) (t : Template) : State :=
  let core := c.phys (s.vcoreOf q.ck)
  let tiles := (sortNat (lineTiles q.line)).eraseDups
  let bound := if lineDspace q.line == 2 then s.bindTile core q.ck (leAt q.line 16 8) else some s
  let go := fun (s : State) => s.updReq e q fun r => { r with status := .active }
  match bound with
  | none => s.copyFail e q (copyFault 11) 0
  | some s1 =>
    if tiles.any fun n => !((s.core core).eng.owners q.ck n).isEmpty then s.copyFail e q (copyFault 7) 0
    else
      let held := s1.takeTiles q tiles
      let s2 := s1.updReq e q fun r => { r with held := held }
      if held.length < tiles.length then s2
      else if lineMcast q.line then
        match s2.takeSlot c e q t with
        | some s3 => go s3
        | none => s2.updReq e q fun r => { r with status := .waitSlot }
      else go s2
/-- COPY_TAKE_UP (R265, R267): an engine takes up its next request. A fenced member of its ring counts as failed from chunk 0;
a broadcast whose ROOT is fenced fails (R397). -/
def execCopyTakeUp (s : State) : Out :=
  match s.op with
  | .nat e =>
    match s.current e with
    | none => .next s
    | some q =>
      match s.context? q.ck.ctx with
      | none => .next s
      | some c =>
        if !(decide (q.status = .queued) || decide (q.status = .waitSlot)) then .next s
        else match q.tmpl with
          | some t => .next (s.beginCopy c e q t)
          | none => .next (copyGot e q (s.takeUpChecks c e q) fun p s =>
              let ring := match p.2 with
                | some x => x.ring c
                | none => []
              let failed := ring.filter fun v => (sget 0 c.pod.devmap v).getLsbD 30
              let rootGone := match p.2 with
                | some x => x.mode == 3 && (match ring[x.root]? with | some v => failed.contains v | none => false)
                | none => false
              let q' := { q with tmpl := some p.1, ext := p.2, credit := creditOf p.1 p.2 c,
                                 failedPeers := failed.map fun v => (v, 0),
                                 due := ring.map fun v => (v, s.clock) }
              if rootGone then s.copyFail e q' (copyFault 14) 0
              else ((s.dropWaits e q).updReq e q fun _ => q').beginCopy c e q' p.1)
  | _ => .next s

/-! The end of a request (R277, R278, R288, R301). -/

/-- The test of a phase, and what follows in the next one (R312, R314). -/
def State.testAfter (s : State) (ck : CohKey) (n : Nat) : State :=
  let s1 := s.testPhase ck n
  if (s1.bar ck n).k != (s.bar ck n).k then s1.settleDeferred ck n else s1
/-- Whether a barrier that has all its arrivals has more bytes than were declared (R278). -/
def Barrier.overflown (b : Barrier) : Bool := b.arr == b.expa && b.expa != 0 && decide (b.pend < 0)
/-- A copy's arrival at its barrier; none where it overflows (R278). -/
def Barrier.arriveCopy (b : Barrier) : Option Barrier :=
  if b.expa == 0 || decide (b.expa < b.arr + 1) then none else some { b with arr := b.arr + 1 }
/-- A request is complete: its count key is released with an arrival for launch counters, and it leaves the queue, or stays for
the stop record (R281, R288, R301). -/
def State.completeCopy (s : State) (c : Context) (e : Nat) (q : CopyReq) : State :=
  let s1 := s.endReq e q
  let s2 := match q.counted, s.launch? q.ck.ctx q.ck.launch with
    | true, some l => s1.updContext c.id fun c => c.arrival l.hdr.donech (lineTime q.line)
    | true, none => s1
    | false, _ => s1
  let s3 := match q.ext with
    | some x => s2.updContext c.id fun c => { c with pod := { c.pod with chunksIn := c.pod.chunksIn.filter fun m =>
        !(m.2.chloc == x.chloc && decide (m.2.time = lineTime q.line)) } }
    | none => s2
  let s4 := s3.updReq e q fun r => { r with status := .complete }
  let running := match s4.context? c.id with
    | some c => c.st == CtxSt.running
    | none => false
  let s5 := if running then s4.updEngine e fun g => { g with queue := g.queue.filter fun r =>
      !(r.ck.ctx == q.ck.ctx && r.seq == q.seq) } else s4
  s5.recompute c.id
/-- The arrival of a request at SNB, if ARRIVE is 1; none where it overflows (R277, R278). -/
def State.copyArrive (s : State) (q : CopyReq) : Option State :=
  let n := lineSnb q.line
  if !lineArrive q.line then some s
  else match (s.bar q.ck n).arriveCopy with
    | none => none
    | some b => some ((s.updBar q.ck n fun _ => b).testAfter q.ck n)
/-- The last beat of a copy (R277, R278, R312): its bytes are credited to SNB and then its arrival counts, each with its test; an
overflow that it brings about fails it, and nothing is credited (R280). -/
def State.lastBeat (s : State) (c : Context) (e : Nat) (q : CopyReq) : State :=
  let n := lineSnb q.line
  let spilt := s.copyFail e q { rank := 7, cause := .barrierOverflow } (n * 2 ^ 16)
  let s1 := s.updBar q.ck n fun b =>
    { b with pend := b.pend - q.credit, lastCredit := some (s.overflowRec e q n) }
  if (s1.bar q.ck n).overflown then spilt
  else
    let s2 := s1.testAfter q.ck n
    let arrives := if lineArrive q.line then (s2.bar q.ck n).arriveCopy else some (s2.bar q.ck n)
    match arrives with
    | none => spilt
    | some b => if lineArrive q.line && b.overflown then spilt
      else match s2.copyArrive q with
        | some s3 => s3.completeCopy c e q
        | none => spilt
/-- The request that an engine has performed whole. -/
def State.performedOn (s : State) (e : Nat) (mcast : Bool) : Option (Context × CopyReq) :=
  match s.current e with
  | none => none
  | some q => match s.context? q.ck.ctx with
    | some c => if decide (q.status = .active) && q.performed c && lineMcast q.line == mcast then some (c, q) else none
    | none => none
/-- COPY_LAST_BEAT (R277): the last beat of a copy that is no multicast. -/
def execCopyLastBeat (s : State) : Out :=
  match s.op with
  | .nat e => match s.performedOn e false with
    | some p => .next (s.lastBeat p.1 e p.2)
    | none => .next s
  | _ => .next s
/-- MULTICAST_PARKED (R276): the box is parked; SNB takes the arrival and no bytes. -/
def execMulticastParked (s : State) : Out :=
  match s.op with
  | .nat e => match s.performedOn e true with
    | none => .next s
    | some (c, q) =>
      match s.copyArrive q with
      | none => .next (s.copyFail e q { rank := 7, cause := .barrierOverflow } (lineSnb q.line * 2 ^ 16))
      | some s1 =>
        let park := fun (h : HoldSlot) => { h with parked := true, order := s1.nextId }
        let s2 : State := { s1 with nextId := s1.nextId + 1, holds := (s1.holds.map fun h =>
          if h.2.2.eng == e && h.2.2.seq == q.seq && decide (h.2.2.ck = q.ck) then (h.1, h.2.1, park h.2.2) else h).filter fun h =>
              !(h.2.2.parked && h.2.2.receivers.isEmpty) }
        .next (s2.completeCopy c e q)
  | _ => .next s
/-- MULTICAST_DRAIN (R276): a receiver drains a parked slot, in parking order for its barrier, while that barrier still expects
bytes; the slot is freed after its last receiver. -/
def execMulticastDrain (s : State) : Out :=
  match s.op with
  | .nat3 cl slot coh =>
    match s.holds.find? fun h => h.1 == cl && h.2.1 == slot with
    | none => .next s
    | some (_, _, h) =>
      let ck := { h.ck with coh := coh }
      let first := s.holds.all fun x => !(x.2.2.parked && x.2.2.ck.ctx == ck.ctx && x.2.2.ck.launch == ck.launch &&
        x.2.2.dnb == h.dnb && x.2.2.receivers.contains coh && decide (x.2.2.order < h.order))
      let runs := match s.context? ck.ctx with
        | some c => c.live (.core (s.vcoreOf ck))
        | none => false
      if h.parked && h.receivers.contains coh && first && runs && s.onCore ck && decide (0 < (s.bar ck h.dnb).pend) then
        let s1 := s.updCohort ck fun x => h.data.foldl (fun x p => x.writeScratch p.1 [p.2]) (x.keep .copy)
        let s2 := s1.updBar ck h.dnb fun b => { b with pend := b.pend - h.bytes, lastCredit := some h.overflow }
        let s3 : State := { s2 with holds := (s2.holds.map fun x =>
          if x.1 == cl && x.2.1 == slot then
            (x.1, x.2.1, { x.2.2 with receivers := x.2.2.receivers.filter fun r => r != coh }) else x).filter fun x =>
                !(x.2.2.parked && x.2.2.receivers.isEmpty) }
        .next (s3.testAfter ck h.dnb)
      else .next s
  | _ => .next s

end Sys2Proof.Machine
end

