-- ==== Sys2Proof/Machine/Slice.lean ====
section
/-! DEFINITION. The L2 slices and what waits for them: requests performed at their single point of service (R184), refused
requests that are sent again (R217), table walks (R197), and remote requests without an answer (R385). -/

namespace Sys2Proof.Machine

/-! L2_REQUEST (R184). -/

/-- The requests of a core that slices may accept next: for each slice the first it sent there (R184), where no pin refuses it (R217), and of
a DET launch where its turn has come (R380). -/
def State.acceptable (s : State) (core : Nat) : List Req :=
  (firstPerSlice [] (s.reqs.filter fun q => q.ofCore core && !s.refused (.core core) (q.pa / 64))).filter fun q =>
    match s.detLaunch q.key.ck with
    | none => true
    | some l => s.mayMerge l (s.vcoreOf q.key.ck) q
/-- A slice takes a request of a core: the merge points that it passed go on to the next turn (R380). -/
def State.takeRequest (s : State) (core : Nat) (q : Req) : State :=
  let v := s.vcoreOf q.key.ck
  let s1 := match s.detLaunch q.key.ck with
    | none => s
    | some l => s.updLaunch l.ctx l.id fun l => (mergePts v q.pa).foldl (fun l m => l.taken v m) l
  s1.serve q core
/-- L2_REQUEST (R184): a slice accepts and performs the next request of a core or of a copy engine. Requests of one core to one
slice are performed in the order it sent them; between slices the order is free, but for that of a DET launch's schedule (R380). -/
def execL2Request (s : State) : Out :=
  match s.op with
  | .src (.core c) =>
    let ready := s.acceptable c
    let f := s.useFree
    match ready[Config.freeNat f.1 % max 1 ready.length]? with
    | some q => .next (f.2.takeRequest c q)
    | none => .next s
  | .src (.engine e) => .next (s.engineStep e)
  | _ => .next s

/-! RETRY_RESEND (R217). -/

/-- The entry that waits under a name. -/
def State.waiting (s : State) (k : ThKey) : Option Iss :=
  s.cores.findSome? fun c => (List.range 4).findSome? fun j =>
    match (c.2.slot j).run with
    | none => none
    | some r =>
      let i : Iss := { core := c.1, slot := j, run := r }
      if r.members.any fun t => decide (i.thKey t = k) then some i else none
/-- Whether a word is a store or an atomic of global memory (R229 to R239). -/
def wordWrites (w : W32) : Bool :=
  let m := majorOf w
  m == 0x29 || m == 0x2D || m == 0x31 || ((m == 0x2F || m == 0x30) && w.getLsbD 8)
/-- Whether the instruction that an entry waits in writes memory, which its trap record says (R335). -/
def State.waitsToWrite (s : State) (i : Iss) : Bool :=
  match (s.context? i.ck.ctx).bind fun c => s.peekWord i.core c i.run.pc.toNat with
  | some w => wordWrites w
  | none => false
/-- NARROW_SCOPE_STALL at a line (R217). -/
def Trap.stall (line : Nat) (wr : Bool) : Trap := { rank := 7, cause := .narrowScopeStall, addr := w64 (64 * line), write := wr }
/-- The record of a stall that no thread and no request reports: a cohort whose completion or save writes back (R126, R350). -/
def State.cohortStall (s : State) (ck : CohKey) (line : Nat) : State :=
  s.requestTrap ck.ctx
    { cause := Cause.narrowScopeStall.code, sub := 0, sup := false, write := true, malformed := false, cow := false,
      poison := false, req := false, launch := ck.launch, coh := ck.coh, tid := 0, gid := 0, pc := 0, addr := w64 (64 * line),
      info1 := 0, info2 := 0, ptptime := s.ptp, ltime := 0, clock := s.clock, kind := 0, engine := 0, seq := 0 }
/-- The 2^20th refusal in a row (R217): the thread traps at its instruction, the request fails, or the cohort's context stops. -/
def State.refusedOut (s : State) (q : Req) : State :=
  let line := q.pa / 64
  let s1 := s.setReqs (s.reqs.filter fun r => r.id != q.id)
  match q.src with
  | .engine e =>
    if 32 ≤ e then
      match s1.current e with
      | some r => if q.key.ck = r.ck then s1.copyFail e r (Trap.stall line q.key.addr) 0 else s1
      | none => s1
    else s1.cohortStall q.key.ck line
  | .core _ =>
    match s1.waiting q.key with
    | some i => s1.takeTrap i q.key.tid (Trap.stall line (s1.waitsToWrite i))
    | none => if q.key = cohortKey q.key.ck then s1.cohortStall q.key.ck line else s1
/-- Whether another device has refused a request with a retry response, and the line it named (R217, R384). -/
def Req.retried (q : Req) : Option Nat :=
  match q.resp with
  | some (.retry line) => some line
  | some (.data _) | some (.error _ _) | none => none
/-- A request to another device is sent again (R217). -/
def State.resendTo (s : State) (q : Req) : State :=
  let s1 := s.setReqs (updWhere (fun r => r.id == q.id) (fun r =>
    { r with refusals := r.refusals + 1, sentAt := s.clock, resp := none }) s.reqs)
  match q.op, q.vdev with
  | .remote b, some v => s1.sendData q.key.ck.ctx v b
  | .remote _, none => s1
  | .fillGen _ _, _ | .fillRo _ _, _ | .atom _ _ _ _ _, _ | .write _, _ | .probe, _ => s1
/-- Whether the requester re-sends a request once 64 clocks have passed since its refusal (R217). -/
def Req.resends (q : Req) : Bool := decide (q.op = .probe) || q.retried.isSome
/-- RETRY_RESEND (R217): 64 clocks after a refusal a requester sends again; a line that is still pinned refuses it once more. What a core
writes back on its own is sent again without end: DESIGN CHOICE (log entry 91). -/
def execRetryResend (s : State) : Out :=
  match s.op with
  | .nat id =>
    match s.reqs.find? fun r => r.id == id && r.resends with
    | none => .next s
    | some q =>
      if s.clock < q.refusedAt + 64 then .next s
      else match q.retried with
        | some line =>
          if decide (2 ^ 20 ≤ q.refusals + 1) && decide (q.key.tid < 16384) then .next (s.refusedOut { q with pa := 64 * line })
          else .next (s.resendTo q)
        | none =>
          if !s.refused q.src (q.pa / 64) then .next (s.setReqs (s.reqs.filter fun r => r.id != id))
          else if 2 ^ 20 ≤ q.refusals + 1 then .next (s.refusedOut q)
          else .next (s.setReqs (updWhere (fun r => r.id == id)
            (fun r => { r with refusals := r.refusals + 1, refusedAt := s.clock }) s.reqs))
  | _ => .next s

/-! TABLE_WALK (R197). -/

/-- Whether a walk is one of the 128 that a die's walkers carry out at once, in arrival order (R197). -/
def State.walking (s : State) (w : Walk) : Bool :=
  ((s.walks.filter fun x => x.die == w.die && !x.failed).take 128).any fun x => x.id == w.id
/-- TABLE_WALK (R197 to R200): a walker fills the translation structures of every core that waits for the walk; where it finds none, their
accesses meet its fault. -/
def execTableWalk (s : State) : Out :=
  match s.op with
  | .nat id =>
    match s.walks.find? fun w => w.id == id with
    | none => .next s
    | some w =>
      let gone : State := { s with walks := s.walks.filter fun x => x.id != id }
      let fails : State := { s with walks := updWhere (fun x => x.id == id) (fun x => { x with failed := true }) s.walks }
      if !s.walking w then .next s
      else match s.context? w.ctx with
        | none => .next gone
        | some c =>
          match s.walk c (.core (w.waiters.headD 136)) w.va.toNat with
          | .leaf pte size => .next (w.waiters.foldl (fun s n => s.fillTlb c.id (.core n) w.die w.va.toNat pte size) gone)
          | .fault _ => .next fails
          | .poison => .next fails
          | .pinned _ => .next s
  | _ => .next s

/-! Remote requests (R385). -/

/-- RTO of a context, in clocks (R5, R383). -/
def Context.rto (c : Context) : Nat := (c.pod.podtmo.extractLsb' 16 16).toNat * 1800
/-- What a core has written back to another device is lost: the context stops as at a read of a poisoned sector (R343, R385). -/
def State.lostWrite (s : State) (q : Req) (malformed : Bool) : State :=
  (s.setReqs (s.reqs.filter fun r => r.id != q.id)).requestTrap q.key.ck.ctx
    { cause := Cause.pageFault.code, sub := 0, sup := false, write := true, malformed := malformed, cow := false, poison := !malformed,
      req := false, launch := 0, coh := 0, tid := 0, gid := 0, pc := 0, addr := 0, info1 := 0, info2 := 0, ptptime := s.ptp, ltime := 0,
      clock := s.clock, kind := 3, engine := 0, seq := 0 }
/-- REMOTE_RESPONSE_TIMEOUT (R385): a request without a response within RTO ends as a read of a poisoned sector; for what a core wrote back,
for which no instruction waits, the context stops. -/
def execRemoteResponseTimeout (s : State) : Out :=
  match s.op with
  | .nat id =>
    match s.reqs.find? fun r => r.id == id && r.vdev.isSome && r.resp.isNone with
    | none => .next s
    | some q =>
      match s.context? q.key.ck.ctx with
      | none => .next s
      | some c =>
        if s.clock < q.sentAt + c.rto then .next s
        else if 16384 ≤ q.key.tid then .next (s.lostWrite q false)
        else .next (s.setReqs (updWhere (fun r => r.id == id) (fun r => { r with resp := some (.error 0 .poison) }) s.reqs))
  | _ => .next s

end Sys2Proof.Machine
end

