-- ==== Sys2Proof/Machine/Host.lean ====
section
/-! DEFINITION. Time from outside: the host channel (R302, R401) and the frame trigger units (R303). -/

namespace Sys2Proof.Machine

/-- The context that DBGSEL names (R414). -/
def State.sel (s : State) : Option Context := s.context? (s.mgmt.dbgsel.extractLsb' 0 16).toNat
/-- An event of an agent that the nodes' tables hold up stays at the head of its inputs (R294). -/
def State.holdInput (s : State) (i : Instr) : State := { s with inputs := (i, s.op) :: s.inputs }

/-! The host channel (R302, R401). -/

/-- HOSTPT (R302): a write of the host progress time of the DBGSEL context moves the channel's capability, or is refused with MSI-X
vector 1. -/
def execHostpt (s : State) : Out :=
  match s.op with
  | .word u =>
    match s.sel with
    | none => .next s
    | some c =>
      let loc := c.desc.hostch
      if c.hostClosed || !timeOk (c.graph.depth loc) u || !timeLe c.hostpt u then .next (s.send (.msix 1))
      else if u = c.hostpt then .next s
      else
        let ch := [chg loc u 1, chg loc c.hostpt (-1)]
        if s.keyRoom c ch then
          .next (((s.updContext c.id fun c => { c with hostpt := u }).form c.id hostSrc 0 ch).recompute c.id)
        else .next (s.holdInput .hostpt)
  | _ => .next s
/-- HOST_CLOSE (R302): the close bit ends the channel's capability for the life of the DBGSEL context. -/
def execHostClose (s : State) : Out :=
  match s.sel with
  | none => .next s
  | some c =>
    if c.hostClosed then .next s
    else .next (((s.updContext c.id fun c => { c with hostClosed := true }).form c.id hostSrc 0
      [chg c.desc.hostch c.hostpt (-1)]).recompute c.id)
/-- Writes bytes of the host-record ring. -/
def State.writeRing (s : State) (off : Nat) (data : Bytes) : State :=
  { s with ring := ((List.range data.length).zip data).foldl (fun m p => sput 0 m (off + p.1) p.2) s.ring }
/-- Bytes of the host-record ring. -/
def State.readRing (s : State) (off n : Nat) : Bytes := (List.range n).map fun k => sget 0 s.ring (off + k)
/-- HOST_DOORBELL (R401): a doorbell write hands the slot named by bits [12:0] to the device; the host may have written the slot's
bytes just before. -/
def execHostDoorbell (s : State) : Out :=
  match s.op with
  | .word v => .next { s with bells := s.bells ++ [v.toNat % 8192] }
  | .natBytes v data =>
    let s1 := s.writeRing (128 * (v % 8192)) (data.take 128)
    .next { s1 with bells := s1.bells ++ [v % 8192] }
  | _ => .next s
/-- The device takes the slot at the head of the doorbells with a status (R401). -/
def State.takeBell (s : State) (slot status : Nat) : State :=
  { s.writeRing (128 * slot + 2) [BitVec.ofNat 8 status] with bells := s.bells.drop 1 }
/-- A host record enters the record store (R293, R302). -/
def hostRecord (c : Context) (t : W64) (payload : Bytes) (batch : Option (Nat × Nat)) : Record :=
  { id := c.nextRecord, slot := 0, loc := c.desc.hostch, time := t, payload := payload, source := .host, counted := true,
    batch := batch, delivered := false }
/-- A running context whose holding queue has a record that the store can take now: its count is at every node (R337). -/
def Context.canUnhold (c : Context) : Bool :=
  decide (c.st = .running) && !c.hostHold.isEmpty && decide (c.records.length < c.desc.rscount) &&
    !c.batches.any fun b => b.srcId == hostSrc && b.vdev == c.self
/-- A record that the host interface held through a halt enters the store and is delivered (R337). -/
def State.unhold (s : State) (c : Context) : State :=
  match c.hostHold with
  | [] => s
  | (t, p) :: rest =>
    (((s.updContext c.id fun c => { c with hostHold := rest }).addRecord c.id (hostRecord c t p none)).deliver c.id
      fun r => r.id == c.nextRecord).recompute c.id
/-- The slot at the head of the doorbells is taken, refused, or left until the store and the nodes have room (R302, R337, R401). -/
def State.takeSlotRecord (s : State) (slot : Nat) : State :=
  let b := s.readRing (128 * slot) 128
  let t := w64 (leAt b 8 8)
  let payload := b.drop 64
  match s.context? (leAt b 0 2) with
  | none => s.takeBell slot 3
  | some c =>
    let ch := [chg c.desc.hostch t 1]
    if c.hostClosed || !timeOk (c.graph.depth c.desc.hostch) t || !timeLe c.hostpt t then
      (s.takeBell slot 2).send (.msix 1)
    else if c.st ≠ .running then
      if 256 ≤ c.hostHold.length then (s.takeBell slot 2).send (.msix 1)
      else if !s.keyRoom c ch then s
      else ((s.takeBell slot 1).updContext c.id fun c => { c with hostHold := c.hostHold ++ [(t, payload)] }).form c.id
        hostSrc 0 ch
    else if !c.hostHold.isEmpty || decide (c.desc.rscount ≤ c.records.length) || !s.keyRoom c ch then s
    else
      (((s.takeBell slot 1).addRecord c.id (hostRecord c t payload (some (c.nextBatchId hostSrc)))).form c.id hostSrc 0 ch).recompute c.id
/-- HOST_RECORD (R302): the next host record is taken: one held through a halt, or the slot at the head of the doorbells. -/
def execHostRecord (s : State) : Out :=
  match s.contexts.find? Context.canUnhold, s.bells with
  | some c, _ => .next (s.unhold c)
  | none, slot :: _ => .next (s.takeSlotRecord slot)
  | none, [] => .next s

/-! Frame trigger units (R303). -/

/-- A frame trigger unit. -/
def State.unit (s : State) (k : Nat) : FrameUnit := aget FrameUnit.fresh s.units k
/-- Replaces a frame trigger unit; a status bit that sets raises MSI-X vector 2 (R401). -/
def State.putUnit (s : State) (k : Nat) (u : FrameUnit) : State :=
  let new := u.stat &&& ~~~(s.unit k).stat &&& 0x3E#32
  let s1 : State := { s with units := aput s.units k u }
  if new = 0 then s1 else s1.send (.msix 2)
/-- CTX of a unit. -/
def FrameUnit.ctx (u : FrameUnit) : Nat := (u.ctl.extractLsb' 0 16).toNat
/-- LOC of a unit. -/
def FrameUnit.loc (u : FrameUnit) : Nat := (u.ctl.extractLsb' 16 10).toNat
/-- FRAME of a unit. -/
def FrameUnit.no (u : FrameUnit) : Nat := (u.frame.extractLsb' 0 16).toNat
/-- EN of a unit. -/
def FrameUnit.en (u : FrameUnit) : Bool := u.ctl.getLsbD 31
/-- The time t(f). -/
def frameTime (f : Nat) : W64 := mkTime [f]
/-- The changes that release the capability of a unit, if it holds one. -/
def FrameUnit.release (u : FrameUnit) : List CountChange :=
  if u.stat.getLsbD 0 then [chg u.loc (frameTime u.capNo) (-1)] else []
/-- FRAME_TRIGGER_ENABLE (R303): a write of EN = 1 takes the unit's capability at (LOC, t(FRAME)), or is refused. A unit that is
enabled already first gives back what it holds. -/
def execFrameTriggerEnable (s : State) : Out :=
  match s.op with
  | .natWord k v =>
    if 16 ≤ k then .next s
    else
      let u := s.unit k
      let ctl := v.extractLsb' 0 32 &&& 0x83FFFFFF#32
      let u1 := { u with ctl := ctl &&& 0x7FFFFFFF#32, stat := u.stat &&& ~~~1#32 }
      let s1 := s.form u.ctx (triggerSrc k) 0 u.release
      let period := u.period.toNat
      match s.context? u1.ctx with
      | none => .next (s1.putUnit k { u1 with stat := u1.stat ||| 0x10#32 })
      | some c =>
        if period < 1000 || decide (1000000000 < period) || decide (c.graph.nloc ≤ u1.loc) || c.graph.depth u1.loc == 0 then
          .next ((s1.putUnit k { u1 with stat := u1.stat ||| 0x10#32 }).recompute u.ctx)
        else
          let ch := [chg u1.loc (frameTime u1.no) 1]
          if !s.keyRoom c ch then .next (s.holdInput .frameTriggerEnable)
          else .next (((s1.form c.id (triggerSrc k) 0 ch).putUnit k
            { u1 with ctl := ctl, stat := u1.stat ||| 1#32, f0 := u1.no, lateUntil := 0, capNo := u1.no }).recompute c.id)
  | _ => .next s
/-- FRAME_TRIGGER_DISABLE (R303): a write of EN = 0 releases the capability at once. -/
def execFrameTriggerDisable (s : State) : Out :=
  match s.op with
  | .natWord k v =>
    if 16 ≤ k then .next s
    else
      let u := s.unit k
      .next (((s.form u.ctx (triggerSrc k) 0 u.release).putUnit k
        { u with ctl := v.extractLsb' 0 32 &&& 0x03FFFFFF#32, stat := u.stat &&& ~~~1#32 }).recompute u.ctx)
  | _ => .next s
/-- The scheduled instant of a unit's next frame (R303). -/
def FrameUnit.instant (u : FrameUnit) : Int := u.start.toNat + ((u.no : Int) - u.f0) * u.period.toNat
/-- Whether a unit emits its next frame now: it is enabled, its instant has come, its context runs, and there is room for the record
and its count keys. -/
def State.unitDue (s : State) (k : Nat) : Option Context :=
  let u := s.unit k
  match s.context? u.ctx with
  | none => none
  | some c =>
    if u.en && u.stat.getLsbD 0 && decide (c.st = .running) && decide (u.instant ≤ s.time.ns) &&
        decide (c.records.length < c.desc.rscount) &&
        s.keyRoom c ([chg u.loc (frameTime u.no) 1] ++ if u.no == 0xFFFF then [] else [chg u.loc (frameTime (u.no + 1)) 1]) then some c
    else none
/-- FRAME_TRIGGER_FIRE (R303): the record of a frame, the capability at the next, and the status bits. The capability given back is the one
held, which a write of FRAME since then leaves where it was (log entry 44). -/
def execFrameTriggerFire (s : State) : Out :=
  match s.op with
  | .nat k =>
    match s.unitDue k with
    | none => .next s
    | some c =>
      let u := s.unit k
      let f := u.no
      let late := decide (u.instant < u.lateUntil)
      let last := f == 0xFFFF
      let payload := natLe 2 f ++ natLe 1 k ++ natLe 1 ((if s.time.locked then 1 else 0) + (if late then 2 else 0)) ++ natLe 4 0 ++
        natLe 8 (wrap64 u.instant).toNat ++ natLe 8 s.time.ns ++ List.replicate 40 0
      let ch := [chg u.loc (frameTime f) 1] ++ (if last then [] else [chg u.loc (frameTime (f + 1)) 1]) ++
        [chg u.loc (frameTime u.capNo) (-1)]
      let s1 := s.addRecord c.id
        { id := c.nextRecord, slot := 0, loc := u.loc, time := frameTime f, payload := payload, source := .unit k, counted := true,
          batch := some (c.nextBatchId (triggerSrc k)), delivered := false }
      let stat := u.stat ||| (if s.time.locked then 0 else 8) ||| (if late then 2 else 0)
      let u1 : FrameUnit := if last then
          { u with ctl := u.ctl &&& 0x7FFFFFFF#32, stat := (stat ||| 4) &&& ~~~1#32 }
        else { u with frame := w32 (f + 1), stat := stat, capNo := f + 1 }
      .next (((s1.form c.id (triggerSrc k) 0 ch).putUnit k u1).recompute c.id)
  | _ => .next s

end Sys2Proof.Machine
end

