-- ==== Sys2Proof/Machine/Stop.lean ====
section
/-! DEFINITION. The stop of a context: the halt line at its engines and their stop records (R337, R340, R341), the stop area (R335,
R338, R339), the notices, the pod cause table (R387, R390), and storage errors (R343, R347). -/

namespace Sys2Proof.Machine

/-! Stop records (R340). -/

/-- The virtual dies of a context. -/
def dieCount : Nat := 4
/-- The units that serve a context and write a record at every stop (R339). -/
def Context.unitsOf (c : Context) : List StopUnit :=
  (sortNat (c.cores.map (·.1))).map .core ++ (List.range 32).map .engine ++ (List.range dieCount).map .flue
/-- WAIT and the barrier, location or tile that a member waits on (R340). -/
def waitCode (c : Context) (k : ThKey) : Option Wait → Nat × Nat
  | none => (0, 0)
  | some (.bar n) => (1, n)
  | some (.arrive n) => (1, n)
  | some (.nbar n _) => (2, n)
  | some (.fwait ts) => (3, match ts.find? fun p => p.1 == k.tid with | some p => p.2.1 | none => 0)
  | some (.recv _ _ _) => (4, match c.recvs.find? fun w => decide (w.key = k) with | some w => w.loc | none => 0)
  | some (.accwait ts) => (5, ts.headD 0)
/-- An entry of a core's stop record; byte 15 is set when the stop is complete. -/
def coreEntry (t : Thread) (status wait pc on : Nat) : Bytes :=
  natLe 4 t.key.ck.launch ++ natLe 4 t.key.ck.coh ++ natLe 2 t.key.tid ++ natLe 2 t.gid ++ natLe 1 status ++ natLe 1 wait ++
    natLe 1 (if t.key.addr then 1 else 0) ++ natLe 1 0xFF ++ natLe 8 pc ++ natLe 8 on
/-- The run in a slot that holds a member. -/
def State.runOf (s : State) (k : ThKey) : Option Run :=
  s.cores.findSome? fun c => c.2.slots.findSome? fun x => match x.run with
    | some r => if decide (r.gk.ck = k.ck) && r.addr == k.addr && r.members.contains k.tid then some r else none
    | none => none
/-- The frontier entry that holds a member. -/
def State.entryOf (s : State) (k : ThKey) : Option Entry :=
  s.groups.findSome? fun g => if g.key.ck = k.ck then
    g.frontier.find? fun en => en.addr == k.addr && en.members.contains k.tid else none
/-- STATUS of an entry of a frontier (R340); whether it is at the first cause is settled when the stop is complete. -/
def Entry.status (en : Entry) : Nat :=
  match en.stat with
  | .trapped => 3
  | .breakpoint => 6
  | .plain => if en.wait.isSome then 4 else 1
/-- The entry of one thread or stream (R340). -/
def State.threadEntry (s : State) (c : Context) (t : Thread) (saved : Bool) : Bytes :=
  if t.exited then coreEntry t 0 0 0 0
  else match t.join with
    | some j => coreEntry t (if saved then 8 else 5) 0 j.pc.toNat 0
    | none =>
      match s.entryOf t.key, s.runOf t.key with
      | some en, _ =>
        let w := if en.stat = .plain then waitCode c t.key en.wait else (0, 0)
        let st := if en.status == 1 then kget (1, 0, 0) c.stepLanes t.key else (en.status, w.1, w.2)
        coreEntry t (if saved then 8 else st.1) st.2.1 en.pc.toNat st.2.2
      | none, some r =>
        (match r.waits.find? fun w => w.1 == t.key.tid with
          | some w => coreEntry t (if saved then 8 else 4) 6 r.pc.toNat w.2
          | none => coreEntry t (if saved then 8 else 1) 0 r.pc.toNat 0)
      | none, none => coreEntry t (if saved then 8 else 1) 0 0 0
/-- The order of entries within a core's record. -/
def Thread.before (x y : Thread) : Bool :=
  let k := fun (t : Thread) => [t.key.ck.launch, t.key.ck.coh, t.key.tid, if t.key.addr then 1 else 0]
  decide (k x < k y)
/-- The cohorts of a context that are, or were when PREEMPT saved them, on a virtual core. -/
def State.cohortsAt (s : State) (ctx v : Nat) : List Cohort :=
  s.cohorts.filter fun h => h.key.ctx == ctx && (match h.st with
    | .resident x => x == v
    | .killed x => x == v
    | .saved x => x == v
    | .waiting => false)
/-- The entries of a core's stop record. -/
def State.coreEntries (s : State) (c : Context) (v : Nat) : List Bytes :=
  (s.cohortsAt c.id v).flatMap fun h =>
    let saved := match h.st with
      | .saved _ => true
      | .resident _ | .killed _ | .waiting => false
    (sortBy Thread.before (s.threads.filter fun t => decide (t.key.ck = h.key))).map fun t => s.threadEntry c t saved
/-- STATUS, CAUSE and SUB of a request (R340). -/
def CopyStatus.bytes : CopyStatus → Bytes
  | .complete => natLe 3 0
  | .failed c n => natLe 1 1 ++ natLe 1 c ++ natLe 1 n
  | .queued | .active => natLe 3 2
  | .waitSlot => natLe 3 3
  | .cancelled => natLe 3 4
/-- The entries of an engine's stop record, in acceptance order. -/
def State.engineEntries (s : State) (ctx e : Nat) : List Bytes :=
  ((s.engine (engAt ctx e)).queue.filter fun q => q.ck.ctx == ctx).map fun q =>
    natLe 4 (lineTag q.line) ++ natLe 4 q.seq ++ q.status.bytes ++ natLe 1 0 ++ natLe 4 (s.boxIndex q) ++ natLe 4 q.ck.launch ++
      natLe 4 q.ck.coh ++ natLe 2 q.tid ++ natLe 6 0
/-- The entries of a Flue node's stop record: held batches, then armed launch counters. -/
def Context.flueEntries (c : Context) (d : Nat) : List Bytes :=
  ((c.batches.filter fun b => !b.applied.contains d).map fun b =>
    natLe 2 1 ++ natLe 2 b.srcId ++ natLe 4 b.seq ++ natLe 2 b.vdev ++ natLe 22 0) ++
  (sortBy (fun (x y : Counter) => decide (x.idx < y.idx)) (c.counters.filter fun k => k.die == d)).map fun k =>
    natLe 2 2 ++ natLe 2 k.idx ++ natLe 2 k.ccount ++ natLe 2 0 ++ natLe 8 k.ctime.toNat ++
      natLe 2 (k.loc + (if k.cnt then 2 ^ 14 else 0) + if k.frn then 2 ^ 15 else 0) ++ natLe 14 0
/-- A unit writes its stop record (R340). -/
def State.recordStop (s : State) (ctx : Nat) (u : StopUnit) (entries : List Bytes) : State :=
  s.updContext ctx fun c =>
    { c with stopped := c.stopped ++ [u],
             stopRecs := c.stopRecs ++ [{ unit := u, clock := s.clock, ptp := s.ptp, entries := entries }] }

/-! The halt line at a unit (R337). -/

/-- Whether an entry of a queue that a stream waits on, as (member, queue), can still not be taken, or pushed: a stream pops the queues of
the other direction (R187, R188). Where one instruction pops an entry that is there and one that is not, it has tested that since the last
event. -/
def State.queueHolds (s : State) (r : Run) (w : Nat × Nat) : Bool :=
  let k : ThKey := { ck := r.gk.ck, tid := w.1, addr := r.addr }
  let l := (s.pairQueues k).getD w.2 []
  if decide (w.2 < 4) == r.addr then decide (16 ≤ l.length) && !s.otherExited k
  else (l.isEmpty && !s.otherExited k) || (decide (l.length < 2) && decide (s.moved < r.tested))
/-- Whether a member of a run waits for something under its own name: a request, or what another device answers. -/
def State.asksFor (s : State) (r : Run) (p : Req → Bool) : Bool :=
  s.reqs.any fun q => p q && r.members.any fun t => decide (q.key = { ck := r.gk.ck, tid := t, addr := r.addr }) ||
    q.merged.any fun m => decide (m.1 = { ck := r.gk.ck, tid := t, addr := r.addr })
/-- Whether a run waits at an instruction of the copy, barrier and time family for room that only units the halt line has stopped could
make (R281, R294, R304). -/
def State.unitHolds (s : State) (c : Context) (core : Nat) (r : Run) : Bool :=
  (match s.peekWord core c r.pc.toNat with
    | some w => decide (0x36 ≤ majorOf w)
    | none => false) &&
  (c.unitsOf.all fun u => match u with
    | .core _ => true
    | .engine e => c.stopped.contains (.engine e)
    | .flue d => c.stopped.contains (.flue d)) &&
  !s.asksFor r (fun _ => true) && !s.walks.any fun w => w.waiters.contains core
/-- Whether a run waits for what does not come while its context stands still: an entry of a queue (R340), the answer of another device, or
room in a unit that has stopped. It then stops at the instruction that it waits in, which has done nothing (R228, R341); every other run
is finished first (R102, R337). That the last two stop a run as a queue does is DEDUCED (log entry 22). -/
def State.runHeld (s : State) (c : Context) (core : Nat) (r : Run) : Bool :=
  r.stalledSince.isSome && ((r.waits.any (s.queueHolds r)) || (s.asksFor r fun q => q.vdev.isSome && q.resp.isNone) ||
    s.unitHolds c core r)
/-- Whether a run of a context in a core's slot is still to be finished. -/
def State.coreRuns (s : State) (c : Context) (core : Nat) (p : CohKey → Bool) : Bool :=
  (s.core core).slots.any fun x => match x.run with
    | some r => p r.gk.ck && !s.runHeld c core r
    | none => false
/-- Whether a matrix engine has work that it accepted by a clock (R175). -/
def MatrixEngine.busyBy (e : MatrixEngine) (clock : Nat) : Bool :=
  (e.pending.any fun q => decide (q.issue ≤ clock)) || (e.gathers ++ e.closed).any fun g => decide (g.opened ≤ clock)
/-- Whether requests and results of a context's cohorts on a core are under way, or matrix work: theirs, or what the engine had accepted
when the halt took effect (R175). -/
def State.coreBusy (s : State) (ctx core clock : Nat) : Bool :=
  let mine := (s.cohortsOn core).filter fun h => h.key.ctx == ctx
  (s.core core).eng.busyBy clock || mine.any fun h =>
    (s.reqs.any fun q => q.queued && (decide (q.key.ck = h.key) || q.merged.any fun p => decide (p.1.ck = h.key))) ||
    (s.rets.any fun r => r.dests.any fun d => decide (d.cohort = h.key)) || (s.core core).eng.busyFor h.key
/-- Every open gather of a core closes (R175). -/
def State.closeGathers (s : State) (core : Nat) : State := (s.core core).eng.gathers.foldl (fun s g => s.closeGather core g) s
/-- A run that waits in a dependence stall leaves its slot; its entry stands at the waiting instruction (R340). -/
def State.unrun (s : State) (core slot : Nat) (p : CohKey → Bool) : State :=
  match ((s.core core).slot slot).run with
  | none => s
  | some r =>
    if p r.gk.ck then
      let i : Iss := { core := core, slot := slot, run := r }
      (s.clearRun i).updGroup r.gk fun g =>
        { g with frontier := placeEntry { (readyEntry r.addr r.pc (s.prio r.gk.ck r.pc) r.members s.clock) with
                                            noMatch := r.noMatch } g.frontier }
    else s
/-- The stalled runs of a context leave a core's slots. -/
def State.unrunAll (s : State) (core : Nat) (p : CohKey → Bool) : State :=
  (List.range 4).foldl (fun s j => s.unrun core j p) s
/-- The clock in which the first condition of a stop arose. -/
def Context.haltClock (c : Context) (clock : Nat) : Nat := (c.traps.map fun r => r.clock).foldl min clock
/-- The lanes of a run that waits on queues: STATUS 4, WAIT 6 and the queue (R340). -/
def Run.queueLanes (r : Run) : List (ThKey × Nat × Nat × Nat) :=
  r.waits.map fun w => ({ ck := r.gk.ck, tid := w.1, addr := r.addr }, 4, 6, w.2)
/-- The lanes of a context's runs on a core that wait on queues. -/
def State.queueLanes (s : State) (ctx core : Nat) : List (ThKey × Nat × Nat × Nat) :=
  (s.core core).slots.flatMap fun x => match x.run with
    | some r => if r.gk.ck.ctx == ctx then r.queueLanes else []
    | none => []
/-- A core stops at the halt line once its runs have ended and its units have completed what they hold. -/
def State.haltCore (s : State) (c : Context) (v : Nat) : State :=
  let core := c.phys v
  let s1 := s.closeGathers core
  if s1.coreRuns c core (fun k => k.ctx == c.id) || s1.coreBusy c.id core (c.haltClock s.clock) || c.pre.any fun p => p.1 == v then s1
  else ((s1.recordStop c.id (.core v) (s1.coreEntries c v)).unrunAll core fun k => k.ctx == c.id).updContext c.id fun c =>
    { c with stepLanes := c.stepLanes ++ s1.queueLanes c.id core }
/-- Whether an engine stands within a 64-byte write beat that its next element still belongs to and that it can go on with now (R281). -/
def State.midBeat (s : State) (e : Nat) : Bool :=
  match s.current e with
  | none => false
  | some q =>
    match s.context? q.ck.ctx, q.tmpl with
    | some c, some t =>
      let at' := s.boxIndex q
      let elem := fun (i : Nat) => t.elem (lineOrg q.line) i 0
      let beat := fun (i : Nat) => ((leAt q.line 16 8 : Nat) + (elem i).dst * t.esz) / 64
      decide (q.status = .active) && !q.performed c && decide (0 < q.idx) && t.op != 2 && (elem (at' - 1)).write && (elem at').write &&
        decide (beat (at' - 1) = beat at') && (match (s.engineStep e).current e with
          | some r => r.seq != q.seq || r.idx != q.idx
          | none => true)
    | some _, none => false
    | none, _ => false
/-- What the stop record of an engine or a Flue node tells now (R281, R304). -/
def State.unitEntries (s : State) (c : Context) (u : StopUnit) (old : List Bytes) : List Bytes :=
  match u with
  | .core _ => old
  | .engine e => s.engineEntries c.id e
  | .flue d => c.flueEntries d
/-- HALT_LINE_ARRIVAL (R337, R340): the halt line reaches a unit of a context, which stops within its skid and writes its stop
record: an engine once it has finished its write beat (R281). -/
def execHaltLineArrival (s : State) : Out :=
  match s.op with
  | .stop ctx u =>
    match s.context? ctx with
    | none => .next s
    | some c =>
      if c.st ≠ .halting || c.stopped.contains u || !c.unitsOf.contains u then .next s
      else match u with
        | .core v => .next (s.haltCore c v)
        | .engine e => .next (if s.midBeat (engAt ctx e) then s.engineStep (engAt ctx e) else s.recordStop ctx u (s.engineEntries ctx e))
        | .flue d => .next (s.recordStop ctx u (c.flueEntries d))
  | _ => .next s

/-! The stop area (R335, R338, R339). -/

/-- The order of the causes of a stop (R338); the record that ended a step comes first (R360). -/
def TrapRec.before (x y : TrapRec) : Bool :=
  let k := fun (r : TrapRec) => [if r.kind == 9 then 0 else 1, r.clock, r.kind] ++ (if r.kind == 1 then [r.engine, r.seq] else [r.launch, r.coh, r.tid])
  decide (k x < k y)
/-- The causes of a stop in their order: the first cause, then the secondary ones. -/
def Context.causes (c : Context) : List TrapRec := sortBy TrapRec.before c.traps
/-- The bytes of a trap record (R335). -/
def TrapRec.bytes (r : TrapRec) (first : Bool) : Bytes :=
  let b := fun (x : Bool) (k : Nat) => if x then 2 ^ k else 0
  natLe 1 r.cause ++ natLe 1 r.sub ++
    natLe 2 (b first 0 + b r.sup 1 + b r.write 2 + b r.malformed 3 + b r.cow 4 + b r.poison 5 + b r.req 6) ++
    natLe 4 r.launch ++ natLe 4 r.coh ++ natLe 2 r.tid ++ natLe 2 r.gid ++ natLe 8 r.pc.toNat ++ natLe 8 r.addr.toNat ++
    natLe 8 r.info1.toNat ++ natLe 8 r.info2.toNat ++ natLe 8 r.ptptime.toNat ++ natLe 8 r.ltime.toNat
/-- The trap record that an entry of a core's record belongs to, and whether its thread is the reporting member (R340). -/
def State.causeOf (s : State) (cs : List TrapRec) (k : ThKey) (gid : Nat) : Option (Nat × Bool) :=
  match s.entryOf k with
  | none => none
  | some en =>
    let i := cs.findIdx fun r => !r.req && r.launch == k.ck.launch && r.coh == k.ck.coh && r.gid == gid && decide (r.pc = en.pc) &&
      en.members.contains r.tid
    match cs[i]? with
    | some r => some (i, r.tid == k.tid)
    | none => none
/-- An entry of a core's record with its final STATUS and trap record index (R340). -/
def State.finishEntry (s : State) (ctx : Nat) (cs : List TrapRec) (b : Bytes) : Bytes :=
  let st := leAt b 12 1
  let k : ThKey := { ck := { ctx := ctx, launch := leAt b 0 4, coh := leAt b 4 4 }, tid := leAt b 8 2, addr := leAt b 14 1 % 2 == 1 }
  if st != 0 && st != 8 then
    match s.causeOf cs k (leAt b 10 2) with
    | some (i, me) =>
      (b.set 12 (BitVec.ofNat 8 (if st == 3 && i == 0 then 2 else st))).set 15
        (if me then BitVec.ofNat 8 (min i 0xFF) else 0xFF)
    | none => b
  else b
/-- KIND and the unit number of a unit. -/
def unitCode : StopUnit → Nat × Nat
  | .core v => (1, v)
  | .engine e => (2, e)
  | .flue d => (3, d)
/-- The bytes of a stop record (R340). -/
def State.stopBytes (s : State) (ctx : Nat) (cs : List TrapRec) (r : StopRec) : Bytes :=
  natLe 2 (unitCode r.unit).1 ++ natLe 2 (unitCode r.unit).2 ++ natLe 4 r.entries.length ++ natLe 8 r.clock ++ natLe 8 r.ptp.toNat ++ natLe 8 0 ++
    r.entries.flatMap fun b => match r.unit with
      | .core _ => s.finishEntry ctx cs b
      | .engine _ => b
      | .flue _ => b
/-- The stop records in ascending KIND and unit number. -/
def Context.sortedRecs (c : Context) : List StopRec :=
  sortBy (fun (x y : StopRec) => decide ([(unitCode x.unit).1, (unitCode x.unit).2] < [(unitCode y.unit).1, (unitCode y.unit).2])) c.stopRecs
/-- Writes pieces one after another from an offset of the stop area: how many were written, and the first trap of one that was dropped. -/
def State.writeRecs (s : State) (c : Context) : Nat → List Bytes → Got (Nat × Option Trap) × State
  | _, [] => (.ok (0, none), s)
  | off, b :: rest =>
    let w := s.writeVirt c (c.desc.stopbase + w64 off) b
    let n : Got (Nat × Option Trap) := match w.1 with
      | .ok _ => .ok (1, none)
      | .trap t => .ok (0, some t)
      | .wait l => .wait l
      | .ask v pa n => .ask v pa n
    Got.andThen (n, w.2) fun k s => Got.andThen (s.writeRecs c (off + b.length) rest) fun m s =>
      (.ok (k.1 + m.1, k.2 <|> m.2), s)
/-- ERR and SUB of CTXSTAT for a context (R348). -/
def State.setErr (s : State) (ctx err sub : Nat) : State :=
  { s with mgmt := { s.mgmt with errs := (s.mgmt.errs.filter fun e => e.1 != ctx) ++ [(ctx, err, sub)] } }
/-- The header of a stop area (R339), with the clock and the PTP time of completion. -/
def stopHeader (at' : Nat × W64) (ntraps nrecs off : Nat) : Bytes :=
  natLe 4 ntraps ++ natLe 4 nrecs ++ natLe 8 off ++ natLe 8 at'.1 ++ natLe 8 at'.2.toNat ++ List.replicate 224 0
/-- A write that failed translation sets ERR with SUB 6 (R339). -/
def State.stopTrap (s : State) (c : Context) : Option Trap → State
  | some t => s.setErr c.id t.cause.code 6
  | none => s
/-- Writes the stop area (R339): all records, or the first cause alone where they do not fit; a write that fails drops its record. It waits
where a line is pinned or another device holds a page (R217, R384). -/
def State.writeStop (s : State) (c : Context) (at' : Nat × W64) : Got Unit × State :=
  let cs := c.causes
  let recs := c.sortedRecs.map (s.stopBytes c.id cs)
  let traps := cs.zipWith (fun r k => r.bytes (k == 0)) (List.range cs.length)
  let off := 256 + 64 * traps.length
  let header := fun (s : State) (n m off : Nat) => s.writeRecs c 0 [stopHeader at' n m off]
  if c.desc.stopsize < off + (recs.map List.length).sum then
    Got.andThen (s.writeRecs c 256 (traps.take 1)) fun a s =>
      Got.andThen (header s a.1 0 (256 + 64 * a.1)) fun _ s => (.ok (), s.setErr c.id Cause.protection.code 3)
  else
    Got.andThen (s.writeRecs c 256 traps) fun a s => Got.andThen (s.writeRecs c off recs) fun b s =>
      Got.andThen (header s a.1 b.1 off) fun h s => (.ok (), s.stopTrap c (a.2 <|> b.2 <|> h.2))
/-- The notices that have been posted to a running context are delivered (R339, R354); in a stop no record is (R304). -/
def State.deliverNotices (s : State) (ctx : Nat) : State :=
  match s.context? ctx with
  | none => s
  | some c => if c.st = .running then (s.deliver ctx fun r => decide (r.source = .device)).recompute ctx else s
/-- Posts a notice to the control context of a partition (R339, R354); a stop of the control context posts none. -/
def State.notice (s : State) (c : Context) (payload : Bytes) : State :=
  let p := s.mgmt.parts.getD c.desc.part []
  let ctl := leAt p 40 2
  match s.context? ctl with
  | none => s
  | some k =>
    if ctl == 0 || ctl == c.id then s
    else
      let r : Record := { id := k.nextRecord, slot := 0, loc := leAt p 42 2, time := 0, payload := payload, source := .device,
                          counted := false, batch := none, delivered := false }
      (s.addRecord ctl r).deliverNotices ctl

/-! The pod cause table (R387, R390). -/

/-- The entries of the cause table, by ascending PTP time and virtual device. -/
def Pod.sortedCauses (p : Pod) : List (Nat × CauseEntry) :=
  sortBy (fun (x y : Nat × CauseEntry) => decide ([x.2.ptptime.toNat, x.1] < [y.2.ptptime.toNat, y.1])) p.causes
/-- Whether an entry of the table only tells of another's halt. -/
def isPeerHalt (e : CauseEntry) : Bool := e.cause == Cause.peerHalt.code
/-- The bytes of an entry (R390). -/
def causeBytes (epoch : Nat) (first : Bool) (v : Nat) (e : CauseEntry) : Bytes :=
  natLe 2 v ++ natLe 1 e.cause ++ natLe 1 e.sub ++ natLe 2 ((if first then 1 else 0) + if isPeerHalt e then 2 else 0) ++ natLe 2 0 ++
    natLe 4 e.launch ++ natLe 4 e.coh ++ natLe 2 e.tid ++ natLe 6 0 ++ natLe 8 e.pc.toNat ++ natLe 8 e.ptptime.toNat ++
    natLe 8 e.ltime.toNat ++ natLe 4 epoch ++ natLe 12 0
/-- The root enters a member's first cause and rewrites the table (R390); it waits where the table's page does. -/
def State.enterCause (s : State) (ctx v : Nat) (e : CauseEntry) : Got Unit × State :=
  let s1 := s.updContext ctx fun c =>
    { c with pod := { c.pod with causes := c.pod.causes.filter (fun x => x.1 != v) ++ [(v, e)] } }
  match s1.context? ctx with
  | none => (.ok (), s1)
  | some c =>
    let l := c.pod.sortedCauses
    let first : Option Nat := (l.find? fun x => !isPeerHalt x.2).map (·.1)
    let w := s1.writeVirt c c.pod.pctbase (l.flatMap fun x => causeBytes c.pod.epoch (first == some x.1) x.1 x.2)
    match w.1 with
    | .trap _ => (.ok (), w.2)
    | .ok _ | .wait _ | .ask _ _ _ => w
/-- ROOT of a context (R383). -/
def Context.root (c : Context) : Nat := (c.pod.podcfg.extractLsb' 12 10).toNat
/-- The first cause of a stop as a CAUSE message carries it (R390). -/
def TrapRec.entry (r : TrapRec) : CauseEntry :=
  { cause := r.cause, sub := r.sub, launch := r.launch, coh := r.coh, tid := r.tid, pc := r.pc, ptptime := r.ptptime, ltime := r.ltime }
/-- The first cause of a stop goes into the cause table where the device itself is ROOT (R387, R390). -/
def State.rootStop (s : State) (c : Context) : Got Unit × State :=
  match decide (c.pod.damper = .freezing) && c.root == c.self, c.causes with
  | true, r :: _ => s.enterCause c.id c.self r.entry
  | true, [] => (.ok (), s)
  | false, _ => (.ok (), s)
/-- A device whose local stop is complete is FROZEN, and tells ROOT its first cause (R387). -/
def State.damperStop (s : State) (ctx : Nat) : State :=
  match s.context? ctx with
  | none => s
  | some c =>
    if c.pod.damper = .freezing then
      let f : Context := { c with pod := { c.pod with damper := .frozen } }
      match c.root == c.self, c.causes with
      | false, r :: _ => s.putSent (f.ctlAll [c.root] (.cause r.entry))
      | true, _ => s.updContext ctx fun _ => f
      | false, [] => s.updContext ctx fun _ => f
    else s
/-- The stop records of engines and Flue nodes tell what these hold when the stop is complete: the skid of a core may still have handed
them work (R281, R304). -/
def State.refreshUnits (s : State) (ctx : Nat) : State :=
  s.updContext ctx fun c => { c with stopRecs := c.stopRecs.map fun r => { r with entries := s.unitEntries c r.unit r.entries } }
/-- STOP_COMPLETE (R339): every unit has written its stop record: the stop area is written, STATE becomes STOPPED, the host is
signalled, and a notice goes to the control context. -/
def execStopComplete (s : State) : Out :=
  match s.op with
  | .nat ctx =>
    match (s.refreshUnits ctx).context? ctx with
    | none => .next s
    | some c =>
      if c.st ≠ .halting || !c.unitsOf.all c.stopped.contains then .next s
      else
        let w := Got.andThen ((s.refreshUnits ctx).writeStop c (s.clock, s.ptp)) fun _ t =>
          Got.andThen (t.rootStop c) fun _ t => (.ok (), t.deviceDone c)
        match w.1 with
        | .ok _ | .trap _ =>
          let s0 := w.2.updContext ctx fun c => { c with st := if s.mgmt.saving = some ctx then .saving else .stopped,
                                                         stopAt := some (s.clock, s.ptp), stopTraps := c.traps.length }
          let s1 := if s.mgmt.haltCmd = some ctx then s0.setMgmt { s0.mgmt with busy := false, haltCmd := none } else s0
          let payload := natLe 2 ctx ++ (match c.causes.head? with
            | some r => natLe 1 r.cause ++ natLe 1 r.sub
            | none => natLe 2 0) ++ natLe 4 0 ++ natLe 8 s.ptp.toNat ++ List.replicate 48 0
          .next (((s1.send (.msix 0)).notice c payload).damperStop ctx)
        | .wait _ | .ask _ _ _ => .next (w.2.deviceWait c w.1)
  | _ => .next s

/-! Storage errors (R343, R347). -/

/-- Counts an error of a core (R343, R414). -/
def State.countErr (s : State) (core : Nat) (corrected : Bool) : State :=
  s.updCore core fun c => if corrected then { c with ecccor := c.ecccor + 1 } else { c with eccunc := c.eccunc + 1 }
/-- Where a thread stands. -/
def State.pcOf (s : State) (k : ThKey) : W64 :=
  match s.entryOf k, s.runOf k with
  | some en, _ => en.pc
  | none, some r => r.pc
  | none, none => match (s.thread? k).bind (·.join) with
    | some j => j.pc
    | none => 0
/-- The record of a trap of a thread that is in no run (R335). -/
def State.errRec (s : State) (k : ThKey) (x : Trap) : TrapRec :=
  let t := s.thread? k
  { cause := x.cause.code, sub := x.sub, sup := match t with | some t => t.sup | none => false, write := x.write,
    malformed := x.malformed, cow := x.cow, poison := x.poison, req := false, launch := k.ck.launch, coh := k.ck.coh, tid := k.tid,
    gid := match t with | some t => t.gid | none => 0, pc := s.pcOf k, addr := x.addr, info1 := x.info1, info2 := x.info2,
    ptptime := s.ptp, ltime := match t with | some t => t.time | none => 0, clock := s.clock, kind := 0, engine := 0, seq := 0 }
/-- A storage error stops a thread at its instruction (R343, R347): the one its run is at, or the one that its ready entry is to execute;
where the thread waits or has exited, only the record tells of it. -/
def State.stopThread (s : State) (k : ThKey) (x : Trap) : State :=
  match s.waiting k with
  | some i => s.takeTrap i k.tid x
  | none =>
    let r := s.errRec k x
    match s.entryOf k with
    | none => s.requestTrap k.ck.ctx r
    | some en =>
      if en.wait.isSome || decide (en.stat ≠ .plain) then s.requestTrap k.ck.ctx r
      else
        let here := fun (e : Entry) => e.addr == k.addr && e.members.contains k.tid
        let s1 := s.setGroups (updWhere (fun g => decide (g.key.ck = k.ck)) (fun g =>
          { g with frontier := updWhere here (fun e => { e with stat := .trapped }) g.frontier }) s.groups)
        let s2 := s1.setThreads (updWhere
          (fun u => decide (u.key.ck = k.ck) && u.key.addr == k.addr && en.members.contains u.key.tid)
          (fun u => { u with trap := BitVec.ofNat 8 x.cause.code }) s1.threads)
        s2.requestTrap k.ck.ctx r
/-- An uncorrectable word of a register file, the accumulator store or a queue stops the context at the thread that reads it (R343); the word
holds a value the manual does not state. -/
def State.regError (s : State) (k : ThKey) (unit : Nat) (spoil : W64 → State → State) : State :=
  let f := s.useFree
  (spoil (Config.freeWord f.1) f.2).stopThread k { rank := 6, cause := .pageFault, poison := true, info1 := w64 unit }
/-- The core of a cohort. -/
def State.coreFor (s : State) (ck : CohKey) : Nat := (s.coreOf ck).getD 0
/-- Takes a line out of a core's L1. -/
def State.dropLine (s : State) (core line : Nat) (p : L1Line → Bool) : State :=
  s.updCore core fun c => { c with l1 := c.l1.filter fun l => !(l.line == line && p l) }
/-- An uncorrectable dirty word goes to its slice as poisoned (R343). -/
def State.poisonLine (s : State) (core line : Nat) : State :=
  ((s.core core).l1.filter fun l => l.line == line && l.isDirty && decide (l.vdev = none)).foldl (fun s l =>
    let bad := (List.range 2).filter fun k => ((l.dirty.drop (32 * k)).take 32).any id
    let s1 := s.writePhys (64 * line) l.masked
    { s1 with poison := s1.poison ++ ((bad.map (2 * line + ·)).filter fun x => !s1.poison.contains x) })
    (s.dropLine core line L1Line.isDirty)
/-- An entry of a translation structure that a core uses is discarded, and fetched again where it is needed (R343); which one is not stated. -/
def State.spoilTlb (s : State) (core : Nat) : State :=
  let mine := s.tlb.filter fun e => e.lvl.serves (.core core) (physDie core)
  let f := s.useFree
  match mine[Config.freeNat f.1 % max 1 mine.length]? with
  | some e => { f.2 with tlb := f.2.tlb.erase e }
  | none => s
/-- An entry of a core's table cache is discarded (R343). -/
def State.spoilTable (s : State) (core : Nat) : State :=
  let l := (s.core core).seqCache
  let f := s.useFree
  match l[Config.freeNat f.1 % max 1 l.length]? with
  | some e => f.2.updCore core fun c => { c with seqCache := c.seqCache.erase e }
  | none => s
/-- SOFT_ERROR (R343): a storage error is corrected in place, or spoils its word, line, sector or entry. -/
def execSoftError (s : State) : Out :=
  match s.op with
  | .err site corrected =>
    match site with
    | .general ctx launch coh tid addr reg =>
      let k : ThKey := { ck := { ctx := ctx, launch := launch, coh := coh }, tid := tid, addr := addr }
      let s1 := s.countErr (s.coreFor k.ck) corrected
      if corrected then .next s1
      else .next (s1.regError k 0 fun v s => s.updThread k fun t => t.writeReg reg (lo32 v))
    | .spectral ctx launch coh tid reg =>
      let k : ThKey := { ck := { ctx := ctx, launch := launch, coh := coh }, tid := tid, addr := false }
      let s1 := s.countErr (s.coreFor k.ck) corrected
      if corrected then .next s1
      else .next (s1.regError k 1 fun v s => s.updThread k fun t => t.writeW reg (packet (lo32 v) (hi32 v) (lo32 v) (hi32 v)))
    | .tile ctx launch coh tid tile idx =>
      let k : ThKey := { ck := { ctx := ctx, launch := launch, coh := coh }, tid := tid, addr := false }
      let s1 := s.countErr (s.coreFor k.ck) corrected
      if corrected then .next s1
      else .next (s1.regError k 2 fun v s => s.updCohort k.ck fun h =>
        h.updTile tile fun x => { x with elems := sput 0 x.elems (idx % 4096) (lo32 v) })
    | .queue ctx launch coh tid addr q =>
      let k : ThKey := { ck := { ctx := ctx, launch := launch, coh := coh }, tid := tid, addr := addr }
      let s1 := s.countErr (s.coreFor k.ck) corrected
      if corrected then .next s1
      else .next (s1.regError k 3 fun v s => s.updQueues k fun qs =>
        qs.set q (match qs.getD q [] with
          | .full _ :: rest => .full (lo32 v) :: rest
          | .reserved id :: rest => .reserved id :: rest
          | [] => []))
    | .scratch ctx launch coh _ => .next (s.countErr (s.coreFor { ctx := ctx, launch := launch, coh := coh }) corrected)
    | .l1 core line dirty =>
      let s1 := s.countErr core corrected
      if dirty then .next (if corrected then s1 else s1.poisonLine core line)
      else .next (s1.dropLine core line fun l => !l.isDirty)
    | .sector pa =>
      if corrected || s.poison.contains (pa / 32) then .next s
      else .next { s with poison := s.poison ++ [pa / 32] }
    | .tlb core => .next ((s.countErr core corrected).spoilTlb core)
    | .table core => .next ((s.countErr core corrected).spoilTable core)
  | _ => .next s

/-- Whether a request reads or writes the scratch of its issuer (R347). -/
def CopyReq.usesScratch (q : CopyReq) : Bool :=
  lineSspace q.line == 1 || (lineDspace q.line == 1 && !lineMcast q.line) ||
  (lineMcast q.line && decide (leAt q.line 24 4 ≤ q.ck.coh) && (leAt q.line 5 1).testBit (q.ck.coh - leAt q.line 24 4) &&
    decide (q.ck.coh < leAt q.line 24 4 + 8))
/-- A request is cancelled (R347): it credits nothing, arrives nowhere, and releases its count. -/
def State.cancelReq (s : State) (e : Nat) (q : CopyReq) : State :=
  let s1 := (s.endReq e q).updReq e q fun r => { r with status := .cancelled }
  { s1 with holds := s1.holds.filter fun h => !(h.2.2.eng == e && h.2.2.seq == q.seq && decide (h.2.2.ck = q.ck) && !h.2.2.parked) }
/-- A cohort is killed (R347): no further run of it begins, and its requests on its own scratch are cancelled. -/
def State.killCohort (s : State) (h : Cohort) : State :=
  let s1 := s.updCohort h.key fun x => { x with st := .killed h.vcore }
  ((s1.engines.flatMap fun e => (e.2.queue.filter fun q => decide (q.ck = h.key) && q.open && q.usesScratch).map fun q =>
    (e.1, q)).foldl (fun s p => s.cancelReq p.1 p.2) s1).recompute h.key.ctx
/-- Whether a killed cohort has ended its runs and its accepted work (R347). -/
def State.killDone (s : State) (ck : CohKey) (core : Nat) : Bool :=
  !s.cohortBusy ck && (match s.context? ck.ctx with
    | some c => !s.coreRuns c core fun k => decide (k = ck)
    | none => true)
/-- A killed cohort waits to be placed again from its entry points, with the capability table it held (R347). -/
def State.relaunch (s : State) (h : Cohort) (core : Nat) : State :=
  let ck := h.key
  let s1 := s.unrunAll core fun k => decide (k = ck)
  let s2 := ({ s1 with reqs := s1.reqs.filter fun r => decide (r.key.ck ≠ ck) } : State).updContext ck.ctx fun c =>
    { c with recvs := c.recvs.filter fun w => decide (w.key.ck ≠ ck) }
  let s3 := s2.freeCohort ck core
  s3.setCohorts (s3.cohorts ++ [{ h with st := .waiting, relaunches := h.relaunches + 1, scratch := [], bars := [], tiles := [], older := [],
                                         queues := [], slotWaiting := [] }])
/-- The context stops for an uncorrectable word of a cohort's scratch, which is reported against its reader: a thread, or the request that
an engine performs (R335, R347). -/
def State.scratchStop (s : State) (k : ThKey) (off : Nat) (engine : Option Nat) : State :=
  let x : Trap := { rank := 7, cause := .scratchUncorrectable, addr := w64 off }
  match engine.map (engAt k.ck.ctx) with
  | none => s.stopThread k x
  | some e => match s.current e with
    | some q => s.requestTrap k.ck.ctx (s.reqRec e q x 0)
    | none => s.stopThread k x
/-- SCRATCH_UNCORRECTABLE (R347): a reader finds an uncorrectable word in a cohort's scratch: the cohort is killed; it is launched
again when its launch is IDEMPOTENT and it has been relaunched less than three times, once its work has ended (the event then
stays among the inputs until it has); otherwise the context stops. -/
def execScratchUncorrectable (s : State) : Out :=
  match s.op with
  | .scratchErr ctx launch coh off tid addr engine =>
    let ck : CohKey := { ctx := ctx, launch := launch, coh := coh }
    match s.cohort? ck, s.launch? ctx launch with
    | some h, some l =>
      match h.st with
      | .resident _ =>
        let s1 := s.countErr (s.coreFor ck) false
        if l.hdr.idem && decide (h.relaunches < 3) then .next ((s1.killCohort h).holdInput .scratchUncorrectable)
        else .next ((s1.scratchStop { ck := ck, tid := tid, addr := addr } off engine).killCohort h)
      | .killed _ =>
        if l.hdr.idem && decide (h.relaunches < 3) then
          if s.killDone ck (s.coreFor ck) then .next (s.relaunch h (s.coreFor ck)) else .next (s.holdInput .scratchUncorrectable)
        else .next s
      | .waiting => .next s
      | .saved _ => .next s
    | some _, none => .next s
    | none, _ => .next s
  | _ => .next s

end Sys2Proof.Machine
end

