-- ==== Sys2Proof/Machine/Context.lean ====
section
/-! DEFINITION. Contexts: the descriptor and the graph image (R285, R287, R344, R345), the commands (R348, R349), resume (R342),
pre-emption and the save area (R350 to R353), the invalidation of translations (R201), and the partition table (R354). -/

namespace Sys2Proof.Machine

/-! The descriptor (R344). -/

/-- The fields of a descriptor. -/
def descOf (b : Bytes) : Desc :=
  { ctxid := leAt b 2 2, part := leAt b 4 1, en := BitVec.ofNat 5 (leAt b 5 1), ptroot := leAt b 8 8, privbase := w64 (leAt b 16 8),
    privshift := leAt b 24 1, privcohs := leAt b 28 4, apbase := w64 (leAt b 32 8), dtbase := w64 (leAt b 40 8),
    dtcount := leAt b 48 4, rscount := leAt b 52 4, rsbase := w64 (leAt b 56 8), graphbase := w64 (leAt b 64 8),
    hostch := leAt b 72 2, seqn := leAt b 74 2, isctl := w32 (leAt b 76 4), seqbase := w64 (leAt b 80 8),
    syscall := w64 (leAt b 88 8), stopbase := w64 (leAt b 96 8), stopsize := leAt b 104 4, savebase := w64 (leAt b 112 8),
    savesize := leAt b 120 8, inithdr := w64 (leAt b 128 8) }
/-- Whether a value lies in a range. -/
def within (x lo hi : Nat) : Bool := decide (lo ≤ x) && decide (x ≤ hi)
/-- Whether a descriptor's own fields keep R344, for a CREATE of a context (R345, ILLEGAL_ENCODING 1). -/
def descOk (b : Bytes) (ctx : Nat) : Bool :=
  leAt b 0 2 == 1 && leAt b 2 2 == ctx && ctx != 0 && decide (leAt b 4 1 < 8) && decide (leAt b 5 1 < 32) && zeroAt b 6 2 &&
    leAt b 8 8 % 65536 == 0 && leAt b 16 8 % 65536 == 0 && within (leAt b 24 1) 8 20 && zeroAt b 25 3 &&
    within (leAt b 28 4) 1 65536 && leAt b 32 8 % 131072 == 0 && leAt b 40 8 % 64 == 0 && within (leAt b 48 4) 1 65536 &&
    within (leAt b 52 4) 1 65536 && leAt b 56 8 % 128 == 0 && within (leAt b 74 2) 1 1024 && leAt b 88 8 % 8 == 0 &&
    leAt b 96 8 % 4096 == 0 && leAt b 104 4 % 4096 == 0 && decide (65536 ≤ leAt b 104 4) && zeroAt b 108 4 &&
    leAt b 112 8 % 65536 == 0 && zeroAt b 136 120

/-! The graph image (R285, R287). -/

/-- The steps of a summary entry; none where a step follows an empty one or has no meaning. -/
def parseSum : Bytes → Option (List SumStep)
  | [] => some []
  | b :: rest =>
    let one := fun (x : SumStep) => (parseSum rest).map fun l => x :: l
    if b = 1 then one .enter
    else if b = 2 then one .inc
    else if b = 3 then one .leave
    else if b = 0 then (if rest.all (fun x => x == 0) then some [] else none)
    else none
/-- What a summary adds to the depth of a time (R287). -/
def sumRise (l : List SumStep) : Int := (l.map fun x => match x with | .enter => (1 : Int) | .inc => 0 | .leave => -1).sum
/-- The bytes of a graph image after its header, by its header. -/
def graphSize (h : Bytes) : Nat := 4 * (leAt h 0 2 + leAt h 2 2 + leAt h 4 2)
/-- The graph of an image; none where it breaks R285 or R287. -/
def parseGraph (b : Bytes) : Option Graph :=
  let nloc := leAt b 0 2
  let nsum := leAt b 2 2
  let nedge := leAt b 4 2
  let word := fun k => leAt b (16 + 4 * k) 4
  let depths := (List.range nloc).map word
  let edges := (List.range nedge).map fun k => word (nloc + nsum + k)
  let edge := fun (w : Nat) => ({ src := w % 1024, dst := w / 1024 % 1024, sum := w / 2 ^ 20 % 256 } : Edge)
  match (List.range nsum).mapM fun k => parseSum ((b.drop (16 + 4 * (nloc + k))).take 4) with
  | none => none
  | some sums =>
    let ok := fun (w : Nat) =>
      let e := edge w
      decide (w < 2 ^ 28) && decide (e.src < nloc) && decide (e.dst < nloc) && decide (e.sum < nsum) &&
        decide ((depths.getD e.dst 0 : Int) = depths.getD e.src 0 + sumRise (sums.getD e.sum []))
    if within nloc 1 1024 && decide (nsum ≤ 256) && decide (nedge ≤ 4096) && zeroAt b 6 10 && depths.all (fun d => decide (d ≤ 4)) &&
        edges.all ok then
      some { depths := depths, sums := sums, edges := edges.map edge, image := b }
    else none

/-! Remap tables (R352, R354). -/

/-- The physical cores of a context's partition, in the order of the core masks (R354, R412). -/
def State.partCores (s : State) (c : Context) : List Nat := (s.partNamed (s.mgmt.parts.getD c.desc.part [])).eraseDups
/-- The physical engines behind the virtual ones of a context (R352, R354): an engine of the partition stands for itself, and the engines of
the partition stand in turn for the others; that is DESIGN CHOICE (log entry 89). -/
def State.partEngines (s : State) (c : Context) : List (Nat × Nat) :=
  let mask := leAt (s.mgmt.parts.getD c.desc.part []) 32 4
  let here := (List.range 32).filter fun e => mask.testBit e
  (List.range 32).map fun e => (e, if here.isEmpty || here.contains e then e else here.getD (e % here.length) e)
/-- The lowest virtual core of a die that no list names. -/
def freeVcore (die : Nat) (used : List Nat) : Option Nat := ((List.range 32).map (32 * die + ·)).find? fun v => !used.contains v
/-- Physical cores take virtual cores of their die, as long as there are some. -/
def assignCores : List Nat → List (Nat × Nat) → List (Nat × Nat)
  | [], l => l
  | p :: ps, l =>
    match freeVcore (physDie p) (l.map (·.1)) with
    | some v => assignCores ps (l ++ [(v, p)])
    | none => assignCores ps l
/-- The virtual cores that cohorts of a context are on, or that PREEMPT vacates. -/
def State.inUse (s : State) (c : Context) (v : Nat) : Bool :=
  (c.pre.any fun p => p.1 == v) || s.cohorts.any fun h => h.key.ctx == c.id && (match h.st with
    | .resident x => x == v
    | .killed x => x == v
    | .saved _ => false
    | .waiting => false)
/-- The remap table of a context by its partition: entries in use stay, others follow the table; cores that PREEMPT vacated return
only by a write of the table (R350, R352). -/
def State.remapCores (s : State) (c : Context) (written : Bool) : Context :=
  let keep := c.cores.filter fun p => s.inPartition c p.2 || s.inUse c p.1
  let new := (s.partCores c).filter fun p =>
    !(keep.any fun x => x.2 == p) && (written || !c.vacant.any fun x => x.2 == p)
  let cores := assignCores new keep
  { c with cores := cores, vacant := c.vacant.filter fun x => !cores.any fun y => y.1 == x.1, engs := s.partEngines c }
/-- The ISCTL of a context goes into every core it occupies (R137, R345). -/
def State.loadCores (s : State) (c : Context) : State :=
  c.cores.foldl (fun s p => s.loadIsctl p.2 c.desc.isctl) s
/-- The translations of a context go (R345). -/
def State.dropTlb (s : State) (ctx : Nat) : State := { s with tlb := s.tlb.filter fun e => e.ctx != ctx }

/-! CREATE (R345). -/

/-- A context that a descriptor names, before it has cores, nodes or a graph. -/
def Context.fresh (d : Desc) (g : Graph) : Context :=
  { id := d.ctxid, desc := d, st := .creating, nextLaunch := 1, launchOrder := 0, graph := g, nodes := [], batches := [],
    batchSeq := [], records := [], nextRecord := 0, recvs := [], counters := [], hostpt := 0, hostClosed := false, traps := [],
    stopped := [], stopRecs := [], stopAt := none, cores := [], pre := [], vacant := [], preBusy := false, savedDir := [],
    stepping := none, stepLanes := [], dbg := Debug.fresh, pod := Pod.fresh, hostHold := [], image := [], savedHolds := [] }
/-- The outcome of the checks of CREATE: the context and its initial header, ERR and SUB, or a line to wait for. -/
inductive Created
  | ok (c : Context) (h : Header)
  | err (e sub : Nat)
  | wait
/-- A read of a structure that fails is PAGE_FAULT 0 (R345); a context that is not yet in a job has no page on another device. -/
def Created.ofRead {α : Type} (r : Got α × State) (go : α → State → Created × State) : Created × State :=
  match r.1 with
  | .ok a => go a r.2
  | .trap _ => (.err Cause.pageFault.code 0, r.2)
  | .ask _ _ _ => (.err Cause.pageFault.code 0, r.2)
  | .wait _ => (.wait, r.2)
/-- The counts that creation brings about: the host channel's capability, and the initial launch's (R289). -/
def firstCounts (d : Desc) (h : Header) : List CountChange :=
  [chg d.hostch 0 1] ++ if h.hasCap then [chg h.donech h.intime 1] else []
/-- The checks of INITHDR's header and of the partition's room (R345, items 5 and 6). -/
def State.checkInit (s : State) (c : Context) : Created × State :=
  let d := c.desc
  let bad : Created := .err Cause.illegalEncoding.code 3
  if d.inithdr.toNat % 256 != 0 then (bad, s)
  else Created.ofRead (s.readHeader c 0 deviceSrc (deviceKey d.ctxid) d.inithdr .device) fun b s =>
    match parseHeader b.1 b.2 with
    | none => (bad, s)
    | some h =>
      if (h.hasCap && (decide (c.graph.nloc ≤ h.donech) || h.tdepth != c.graph.depth h.donech)) || !timeOk h.tdepth h.intime then
        (bad, s)
      else
        let f := s.remapCores c true
        if !(f.cores.any fun p => s.roomOn p.2 h 0) || !s.keyRoom c (firstCounts d h) then
          (.err Cause.protection.code 2, s)
        else (.ok f h, s)
/-- The checks of CREATE in their order (R345). -/
def State.checkCreate (s : State) (ctx : Nat) (b : Bytes) : Created × State :=
  let d := descOf b
  let none' : Graph := { depths := [], sums := [], edges := [], image := [] }
  let c := Context.fresh d none'
  if s.mgmt.ctxarg.toNat % 256 != 0 || !descOk b ctx then (.err Cause.illegalEncoding.code 1, s)
  else if d.seqbase.toNat % 256 != 0 then (.err Cause.copyFault.code 13, s)
  else if (s.context? d.ctxid).isSome then (.err Cause.protection.code 1, s)
  else Created.ofRead (s.readSup c d.graphbase 16) fun hd s =>
    Created.ofRead (s.readSup c (d.graphbase + 16) (graphSize hd)) fun rest s =>
      match parseGraph (hd ++ rest) with
      | none => (.err Cause.illegalEncoding.code 2, s)
      | some g => if g.nloc ≤ d.hostch then (.err Cause.illegalEncoding.code 2, s) else s.checkInit (Context.fresh d g)
/-- A created context (R289, R345): its cores, the four Flue nodes with its first counts, the initial launch, bound to HOSTCH. -/
def State.install (s : State) (c : Context) (h : Header) : State :=
  let node := (firstCounts c.desc h).foldl (fun n x => n.change 0 x) (FlueNode.fresh c.graph.nloc)
  let node' := { node with f := c.graph.frontier node.own, i := c.graph.inputs (fun _ => []) (c.graph.frontier node.own) }
  let c1 := { c with nodes := List.replicate dieCount node' }
  let s1 := (s.setContexts (s.contexts ++ [c1])).dropTlb c.id
  (s1.loadCores c1).createLaunch c.id h true .host
/-- Names the context of a command (R348). -/
def State.nameCtx (s : State) (ctx : Nat) : State := s.setMgmt { s.mgmt with ctxNamed := ctx }
/-- A command is refused (R349): ERR becomes PROTECTION with SUB 4, and nothing else changes. -/
def State.refuseCmd (s : State) (ctx : Nat) : State := (s.nameCtx ctx).setErr ctx Cause.protection.code 4
/-- A command is accepted (R348): ERR and SUB clear. -/
def State.acceptCmd (s : State) (ctx : Nat) (busy : Bool) : State :=
  s.setMgmt { s.mgmt with ctxNamed := ctx, errs := s.mgmt.errs.filter fun e => e.1 != ctx, busy := busy }
/-- BUSY of CTXSTAT: a command or a step is in progress (R348, R370). -/
def State.cmdBusy (s : State) : Bool := s.mgmt.busy || s.contexts.any fun c => c.stepping.isSome
/-- A command of an existing context, accepted in some states while no command is in progress (R349). -/
def State.command (s : State) (ctx : Nat) (states : List CtxSt) (go : Context → State) : State :=
  match s.context? ctx with
  | none => s.refuseCmd ctx
  | some c => if s.cmdBusy || !states.contains c.st then s.refuseCmd ctx else go c
/-- CREATE (R345, R348): the descriptor at CTXARG is read and checked, and the context comes to be in CREATING. -/
def execCreate (s : State) : Out :=
  match s.op with
  | .nat ctx =>
    let pa := s.mgmt.ctxarg.toNat
    if s.cmdBusy || (s.context? ctx).isSome then .next (s.refuseCmd ctx)
    else if s.capacity < pa + 256 then .fault .badPhysicalAddress
    else if (linesOf pa 256).any (s.refused deviceSrc) then .next (s.holdInput .create)
    else
      let done := fun (s : State) (code : Nat) =>
        let t := s.acceptCmd ctx true
        t.setMgmt { t.mgmt with creating := some (ctx, code) }
      if s.poisoned pa 256 then .next (done s (256 * Cause.pageFault.code))
      else match s.checkCreate ctx (s.readPhys pa 256) with
        | (.wait, _) => .next (s.holdInput .create)
        | (.err e sub, s1) => .next (done s1 (256 * e + sub))
        | (.ok c h, s1) => .next (done (s1.install c h) 0)
  | _ => .next s
/-- CREATE_COMPLETE (R345, R349): CTXSTAT leaves CREATING for RUNNING, or for NONE with ERR. -/
def execCreateComplete (s : State) : Out :=
  match s.op, s.mgmt.creating with
  | .nat ctx, some (id, code) =>
    if id != ctx then .next s
    else
      let s1 := s.setMgmt { s.mgmt with creating := none, busy := false }
      if code == 0 then .next ((s1.updContext ctx fun c => { c with st := .running }).recompute ctx)
      else .next (s1.setErr ctx (code / 256) (code % 256))
  | _, _ => .next s

/-! RESUME (R342). -/

/-- The clocks that have passed since a unit of a context stopped. -/
def Context.stoppedFor (c : Context) (u : StopUnit) (clock : Nat) : Nat :=
  match c.stopRecs.find? fun r => decide (r.unit = u) with
  | some r => clock - r.clock
  | none => 0
/-- An entry as it goes on after a stop (R334, R359): past an instruction that traps after it is done, or at it; a breakpoint does not
match again at once; the clocks of the stop do not count. -/
def State.resumeEntry (s : State) (ck : CohKey) (dt : Nat) (en : Entry) : Entry :=
  let pc := if decide (en.stat = .trapped) && en.skip then nextPc en.pc else en.pc
  { en with pc := pc, prio := s.prio ck pc, readySince := min s.clock (en.readySince + dt), stat := .plain, skip := false,
            noMatch := en.noMatch || decide (en.stat = .breakpoint) }
/-- The clocks a cohort stood still: none while it is saved, for its waits are then kept as counts. -/
def State.stillFor (s : State) (c : Context) (h : Cohort) : Nat :=
  match h.st with
  | .resident v => c.stoppedFor (.core v) s.clock
  | .killed v => c.stoppedFor (.core v) s.clock
  | .saved _ => 0
  | .waiting => 0
/-- The groups and pending threads of a cohort go on. -/
def State.resumeCohort (s : State) (c : Context) (h : Cohort) : State :=
  let dt := s.stillFor c h
  let mine := fun (k : CohKey) => decide (k = h.key)
  { s with
    groups := updWhere (fun g => mine g.key.ck) (fun g =>
      { g with frontier := (g.frontier.map (s.resumeEntry h.key dt)).foldl (fun fr en => placeEntry en fr) [], since := g.since + dt })
      s.groups,
    threads := updWhere (fun t => mine t.key.ck) (fun t =>
      { t with join := t.join.map fun j => { j with since := j.since + dt } }) s.threads }
/-- Requests whose fate the stop record has told leave their engines (R281). -/
def State.dropTold (s : State) (ctx : Nat) : State :=
  s.setEngines (s.engines.map fun e => (e.1, { e.2 with queue := e.2.queue.filter fun q => q.ck.ctx != ctx || q.open }))
/-- Frame trigger units mark the frames whose instants passed during the stop as late (R303, R342). -/
def State.markLate (s : State) (ctx : Nat) : State :=
  { s with units := s.units.map fun u => if u.2.ctx == ctx then (u.1, { u.2 with lateUntil := s.time.ns }) else u }
/-- A stopped context whose stop header is clear runs again (R342): every engine in one clock. -/
def State.resume (s : State) (c : Context) : State :=
  let s1 := (s.cohorts.filter fun h => h.key.ctx == c.id).foldl (fun s h => s.resumeCohort c h) s
  let on := fun (c : Context) =>
    { s1.remapCores c false with st := .running, traps := [], stopped := [], stopRecs := [], stepping := none, stepLanes := [] }
  let s2 := match s1.context? c.id with
    | some c => s1.remapTo (on c)
    | none => s1
  ((((s2.dropTold c.id).markLate c.id).recompute c.id).assignAll c.id).deliverNotices c.id
/-- RESUME (R342, R349): a stopped context runs again, once its stop header is clear; a header that cannot be written stays. -/
def execResume (s : State) : Out :=
  match s.op with
  | .nat ctx => match s.context? ctx with
    | none => .next (s.refuseCmd ctx)
    | some c =>
      let w := s.writeVirt c c.desc.stopbase (List.replicate 256 0)
      if s.cmdBusy || c.st ≠ .stopped then .next (s.refuseCmd ctx)
      else match w.1 with
        | .ok _ | .trap _ => .next (((w.2.deviceDone c).acceptCmd ctx false).resume c)
        | .wait _ | .ask _ _ _ => .next ((w.2.deviceWait c w.1).holdInput .resume)
  | _ => .next s

/-! The save area (R353). -/

/-- The offset at which the next image begins. -/
def Context.nextImage (c : Context) : Nat := (c.image.map fun p => p.1.toNat + p.2.length).foldl max 0x20000
/-- Takes the requests of a cohort that wait for a holding-buffer slot out of their engines (R282). -/
def State.takeSlotWaiting (s : State) (ck : CohKey) : State :=
  let mine := fun (q : CopyReq) => decide (q.ck = ck) && decide (q.status = .waitSlot)
  let got := s.engines.flatMap fun e => (e.2.queue.filter mine).map fun q => (e.1, q)
  (s.setEngines (s.engines.map fun e => (e.1, { e.2 with queue := e.2.queue.filter fun q => !mine q }))).updCohort ck fun h =>
    { h with slotWaiting := h.slotWaiting ++ got }
/-- Writes byte ranges of the save area: whether they could be written; it waits where a page does (R217, R384). -/
def State.writeSave (s : State) (c : Context) (l : List (W64 × Bytes)) : Got Bool × State :=
  let w := s.writeList c l
  match w.1 with
  | .ok _ => (.ok true, w.2.deviceDone c)
  | .trap _ => (.ok false, w.2.deviceDone c)
  | .wait l => (.wait l, w.2.deviceWait c w.1)
  | .ask v pa n => (.ask v pa n, w.2)
/-- A cohort whose image is in the save area leaves its core (R350): its clocks waited, and its groups' scores, are those of now, or of its
core's stop (R138, R149). What another device is still to answer is kept, so that nothing is asked twice (R228). -/
def State.leaveCore (s : State) (c : Context) (ck : CohKey) (v : Nat) : State :=
  let ctl := (s.core (c.phys v)).isctl
  let s1 := (s.scoreGroups ck fun g => g.decayTo ctl s.clock).updCohort ck fun x => { x with st := .saved v }
  let s2 := s1.reAge ck (s.waitClock c v)
  s2.setReqs (s2.reqs.filter fun r => decide (r.key.ck ≠ ck) || r.vdev.isSome)
/-- A cohort's image is written and the cohort leaves its core; it answers false where there is no room, or where the area cannot be written
(R353). -/
def State.saveCohort (s : State) (c : Context) (h : Cohort) (v : Nat) : Got Bool × State :=
  let s0 := s.takeSlotWaiting h.key
  match s0.context? c.id, s0.cohort? h.key with
  | some k, some h =>
    let b := s0.imageOf h
    let off := k.nextImage
    match k.freeDir with
    | none => (.ok false, s)
    | some slot =>
      if k.desc.savesize < off + b.1.length then (.ok false, s)
      else
        Got.andThen (b.2.writeSave k [(k.desc.savebase + w64 off, b.1), (k.desc.savebase + w64 (16 * slot), dirEntry h.key 1 off)])
          fun done s =>
            if done then (.ok true, (s.leaveCore c h.key v).updContext c.id fun c =>
              { c with savedDir := c.savedDir ++ [(h.key, slot, off)], image := c.image ++ [(w64 off, b.1)] })
            else (.ok false, s)
  | none, _ => (.ok false, s)
  | some _, none => (.ok true, s)
/-- The resident cohorts on a virtual core. -/
def State.residentsAt (s : State) (ctx v : Nat) : List Cohort :=
  s.cohorts.filter fun h => h.key.ctx == ctx && decide (h.st = .resident v)
/-- Saves several things in turn, up to the first that finds no room or waits. -/
def saveEach {α : Type} (l : List α) (f : α → State → Got Bool × State) (s : State) : Got Bool × State :=
  l.foldl (fun acc x => Got.andThen acc fun ok s => if ok then f x s else (.ok false, s)) (.ok true, s)
/-- A core writes back its dirty bytes, ends its pins and invalidates its L1, and saves the cohorts on it, once what it wrote back to other
devices is acknowledged (R350, R384). -/
def State.saveCore (s : State) (c : Context) (v : Nat) : Got Bool × State :=
  let core := c.phys v
  let s1 := s.unrunAll core fun k => k.ctx == c.id
  let s2 := (s1.writeBackAll c.id core).updCore core fun k => { k with l1 := [] }
  if s2.reqs.any fun r => decide (r.key = backKey c.id core) && r.vdev.isSome then (.wait none, s2)
  else Got.andThen (saveEach (s2.residentsAt c.id v) (fun h s => s.saveCohort c h v) s2) fun ok s => (.ok ok, s.idleSlots core)
/-- The key under which a core waits for a pinned line on behalf of a context. -/
def coreKey (ctx v : Nat) : ThKey := { ck := { ctx := ctx, launch := 0, coh := 0 }, tid := 8320 + v, addr := false }

/-! PREEMPT (R350). -/

/-- PREEMPT (R350): the k highest virtual cores of the context begin to drain. -/
def execPreempt (s : State) : Out :=
  match s.op with
  | .nat2 ctx k =>
    .next (s.command ctx [.running, .stopped] fun c =>
      let vs := (sortNat (c.cores.map (·.1))).reverse.take k
      (s.acceptCmd ctx !vs.isEmpty).updContext ctx fun c =>
        { c with pre := vs.map fun v => (v, .drain), preBusy := !vs.isEmpty })
  | _ => .next s
/-- Whether a cohort that is to be saved still has requests that are neither done nor waiting for a slot (R282). -/
def State.requestsOpen (s : State) (ck : CohKey) : Bool :=
  s.engines.any fun e => e.2.queue.any fun q => decide (q.ck = ck) && q.open && decide (q.status ≠ .waitSlot)
/-- Whether every thread of a cohort has exited. -/
def State.allExited (s : State) (ck : CohKey) : Bool := s.threads.all fun t => decide (t.key.ck ≠ ck) || t.exited
/-- Whether a killed cohort is to be placed again (R347). -/
def State.toRelaunch (s : State) (ctx v : Nat) : Bool :=
  s.cohorts.any fun h => h.key.ctx == ctx && decide (h.st = .killed v) && decide (h.relaunches < 3) &&
    (match s.launch? ctx h.key.launch with | some l => l.hdr.idem | none => false)
/-- Whether a draining core has finished its work (R350). -/
def State.drained (s : State) (c : Context) (v : Nat) : Bool :=
  let core := c.phys v
  let hs := s.residentsAt c.id v
  !(s.coreRuns c core fun k => k.ctx == c.id) && !s.coreBusy c.id core s.clock && !(hs.any fun h => s.requestsOpen h.key) &&
    !(c.live (.core v) && hs.any fun h => s.allExited h.key) && !s.toRelaunch c.id v
/-- A command of a context has ended with a failure: ERR says why. -/
def State.failCmd (s : State) (ctx sub : Nat) : State :=
  (s.setMgmt { s.mgmt with busy := false }).setErr ctx Cause.protection.code sub
/-- The trap record of a cause that no thread and no request raises (R336, R338). -/
def State.deviceRec (s : State) (cause : Cause) (sub info : Nat) (kind : Nat) : TrapRec :=
  { cause := cause.code, sub := sub, sup := false, write := false, malformed := false, cow := false, poison := false, req := false,
    launch := 0, coh := 0, tid := 0, gid := 0, pc := 0, addr := 0, info1 := w64 info, info2 := 0, ptptime := s.ptp, ltime := 0,
    clock := s.clock, kind := kind, engine := 0, seq := 0 }
/-- A core leaves the list of those that PREEMPT vacates; the command ends with the last. -/
def State.leavePre (s : State) (ctx v : Nat) : State :=
  let s1 := s.updContext ctx fun c => { c with pre := c.pre.filter fun p => p.1 != v }
  match s1.context? ctx with
  | none => s1
  | some c => if c.pre.isEmpty && c.preBusy then
      (s1.updContext ctx fun c => { c with preBusy := false }).setMgmt { s1.mgmt with busy := false } else s1
/-- A save that finds no room fails, and the context stops with PROTECTION SUB 3 (R353). -/
def State.failSave (s : State) (ctx v : Nat) : State :=
  ((s.leavePre ctx v).setErr ctx Cause.protection.code 3).requestTrap ctx (s.deviceRec .protection 3 0 3)
/-- PREEMPT_DRAINED (R350): a draining core whose work has finished writes back, and saves its cohorts. -/
def execPreemptDrained (s : State) : Out :=
  match s.op with
  | .nat2 ctx v =>
    match s.context? ctx with
    | none => .next s
    | some c =>
      if !c.draining v then .next s
      else
        let s1 := s.closeGathers (c.phys v)
        if !s1.drained c v then .next s1
        else match s1.blockedLine (c.phys v) with
          | some l => .next (s1.probeFor (.core (c.phys v)) (coreKey ctx v) l)
          | none =>
            let r := (s1.dropProbes (coreKey ctx v)).saveCore c v
            match r.1 with
            | .ok true => .next (r.2.updContext ctx fun c => { c with pre := c.pre.map fun p => if p.1 == v then (v, .save) else p })
            | .ok false | .trap _ => .next (r.2.failSave ctx v)
            | .wait _ | .ask _ _ _ => .next r.2
  | _ => .next s
/-- PREEMPT_SAVED (R350): a core whose images are written is VACANT; in a halt its record shows its cohorts with STATUS 8. -/
def execPreemptSaved (s : State) : Out :=
  match s.op with
  | .nat2 ctx v =>
    match s.context? ctx with
    | none => .next s
    | some c =>
      if !(c.pre.any fun p => p.1 == v && decide (p.2 = .save)) then .next s
      else
        let s1 := if decide (c.st = .halting) && !c.stopped.contains (.core v) then
            s.recordStop ctx (.core v) (s.coreEntries c v) else s
        .next ((s1.updContext ctx fun c =>
          { c with cores := c.cores.filter fun p => p.1 != v, vacant := c.vacant ++ [(v, c.phys v)] }).leavePre ctx v)
  | _ => .next s

/-! SWITCHOUT and SWITCHIN (R349, R353). -/

/-- SWITCHOUT (R349): a running context halts first; a stopped one is SAVING. -/
def execSwitchout (s : State) : Out :=
  match s.op with
  | .nat ctx =>
    .next (s.command ctx [.running, .stopped] fun c =>
      let s1 := s.acceptCmd ctx true
      let s2 := s1.setMgmt { s1.mgmt with saving := some ctx }
      if c.st = .running then s2.raiseHalt ctx else s2.updContext ctx fun c => { c with st := .saving })
  | _ => .next s
/-- The offset of the part of the save area that belongs to the context as a whole (R353). -/
def partOff : Nat := 0x10000
/-- The part that SWITCHOUT writes: the seal with CTXID, the part's length and its digest, whose key never leaves the device, then units
that SWITCHIN alone reads (R353). The bytes of the digest and of the units are not stated, and the places in the seal are the model's:
DESIGN CHOICE (log entry 82). -/
def State.partBytes (s : State) (c : Context) : Bytes × State :=
  let b := s.freeBytes 224
  (natLe 4 c.id ++ natLe 4 256 ++ natLe 24 0 ++ b.1, b.2)
/-- Writes the seal and the part of a context. -/
def State.writePart (s : State) (c : Context) : Got Bool × State :=
  let b := s.partBytes c
  if c.desc.savesize < partOff + 256 then (.ok false, s)
  else Got.andThen (b.2.writeSave c [(c.desc.savebase + w64 partOff, b.1)]) fun done s =>
    (.ok done, if done then s.updContext c.id fun c => { c with image := c.image ++ [(w64 partOff, b.1)] } else s)
/-- The holding-buffer slots of a context go into its save area (R349). -/
def State.saveHolds (s : State) (c : Context) : State :=
  let mine := fun (h : Nat × Nat × HoldSlot) => h.2.2.ck.ctx == c.id
  let vOf := fun (cl : Nat) => match (sortNat ((c.cores.filter fun p => s.physCluster p.2 == cl).map (·.1))).head? with
    | some v => v
    | none => 0
  let saved := (s.holds.filter mine).map fun h => (vOf h.1, h.2.2)
  ({ s with holds := s.holds.filter fun h => !mine h } : State).updContext c.id fun c => { c with savedHolds := saved }
/-- Traps of a context that is being saved are secondary causes of its stop: the stop area is written again with them (R349). -/
def State.rewriteStop (s : State) (ctx : Nat) : Got Unit × State :=
  match s.context? ctx with
  | none => (.ok (), s)
  | some c =>
    if c.traps.length ≤ c.stopTraps then (.ok (), s)
    else Got.andThen (s.writeStop c (c.stopAt.getD (s.clock, s.ptp))) fun _ s =>
      (.ok (), (s.updContext ctx fun c => { c with stopTraps := c.traps.length }).deviceDone c)
/-- Every cohort, the context's part and its holding-buffer slots are saved; it answers false where there is no room. -/
def State.saveAll (s : State) (c : Context) : Got Bool × State :=
  let r := saveEach (sortNat (c.cores.map (·.1))) (fun v s => s.saveCore c v) s
  Got.andThen r fun ok s =>
    if ok then Got.andThen (s.rewriteStop c.id) fun _ s => Got.andThen (s.writePart c) fun ok s => (.ok ok, if ok then s.saveHolds c else s)
    else (.ok false, s)
/-- A pinned line that keeps a core of a context from writing back. -/
def State.blockedCore (s : State) (c : Context) : Option (Nat × Nat) :=
  c.cores.findSome? fun p => (s.blockedLine p.2).map fun l => (p.1, l)
/-- SWITCHOUT_COMPLETE (R349, R353): the whole context is in its save area, and its cores are free. -/
def execSwitchoutComplete (s : State) : Out :=
  match s.op with
  | .nat ctx =>
    match s.context? ctx with
    | none => .next s
    | some c =>
      if c.st ≠ .saving then .next s
      else match s.blockedCore c with
        | some (v, l) => .next (s.probeFor (.core (c.phys v)) (coreKey ctx v) l)
        | none =>
          let s1 := c.cores.foldl (fun s p => s.dropProbes (coreKey ctx p.1)) s
          let r := s1.saveAll c
          match r.1 with
          | .ok false | .trap _ =>
            let s2 := r.2.updContext ctx fun c => { c with st := .stopped }
            .next ((s2.setMgmt { s2.mgmt with saving := none }).failCmd ctx 3)
          | .ok true =>
            let s3 := r.2.updContext ctx fun c => { c with st := .saved, cores := [], vacant := [] }
            .next (s3.setMgmt { s3.mgmt with saving := none, busy := false })
          | .wait _ | .ask _ _ _ => .next (r.2.deviceWait c (match r.1 with
              | .wait l => .wait l
              | .ok _ | .trap _ | .ask _ _ _ => .ok ()))
  | _ => .next s
/-- The holding-buffer slots of a context return to the clusters of its cores, or to any cluster that has a free one. -/
def State.restoreHolds (s : State) (c : Context) : State :=
  let s1 := c.savedHolds.foldl (fun (s : State) p =>
    let free := fun (cl : Nat) => ((List.range 32).find? fun k => !s.holds.any fun h => h.1 == cl && h.2.1 == k).map fun k => (cl, k)
    match (s.physCluster (c.phys p.1) :: List.range 16).findSome? free with
    | some x => { s with holds := s.holds ++ [(x.1, x.2, p.2)] }
    | none => s) s
  s1.updContext c.id fun c => { c with savedHolds := [] }
/-- What the device takes back from an offset of the save area: nothing where it cannot be read, which is then as it was saved: DESIGN CHOICE
(log entry 82). -/
def State.takeSaved (s : State) (c : Context) (off : Nat) : Got (Option Bytes) × State :=
  let r := s.readSaved c off
  match r.1 with
  | .ok b => (.ok (some b), r.2)
  | .trap _ => (.ok none, r.2)
  | .wait l => (.wait l, r.2.deviceAwait c r.1)
  | .ask v pa n => (.ask v pa n, r.2.deviceAwait c r.1)
/-- ERR and SUB with which a SWITCHIN ends, if it refuses what is saved (R353): a part that is not the one it wrote, which its seal then does not
match; or a cohort image in which a changed field lies outside its range. -/
def State.checkSaved (s : State) (c : Context) : Got (Option (Nat × Nat)) × State :=
  let wrote := fun (off : Nat) => match c.image.find? fun p => decide (p.1 = w64 off) with
    | some p => p.2
    | none => []
  Got.andThen (s.takeSaved c partOff) fun b s =>
    if b ≠ some (wrote partOff) then (.ok (some (Cause.protection.code, 5)), s)
    else (c.savedDir.filter fun e => e.2.2 != 0).foldl (fun acc e => Got.andThen acc fun bad s =>
      if bad.isSome then (.ok bad, s)
      else Got.andThen (s.takeSaved c e.2.2) fun b s => match b, s.cohort? e.1 with
        | some b, some h => (.ok (if b ≠ wrote e.2.2 && s.imageBad h b then some (Cause.illegalEncoding.code, 4) else none), s)
        | some _, none => (.ok none, s)
        | none, _ => (.ok none, s)) (.ok none, s)
/-- A context whose seal and images are checked is RESTORING (R349, R353): its remap table, its cores' ISCTL and its holding-buffer slots are in
place, every unit still stopped; where they are refused, only its state says so. -/
def State.beginRestore (s : State) (c : Context) (err : Option (Nat × Nat)) : State :=
  let s1 := s.setMgmt { s.mgmt with restoring := some (c.id, err) }
  match err with
  | some _ => s1.updContext c.id fun c => { c with st := .restoring }
  | none =>
    let c1 := s1.remapCores { c with st := .restoring, traps := [], stopTraps := 0,
                                     image := c.image.filter fun p => decide (p.1 ≠ w64 partOff) } true
    let us := c1.unitsOf
    let c2 := { c1 with stopped := us, stopRecs := us.map fun u => { unit := u, clock := s.clock, ptp := s.ptp, entries := [] } }
    ((s1.remapTo c2).dropTlb c.id).restoreHolds c2
/-- SWITCHIN (R349, R353): the seal and the images are checked before anything is restored. -/
def execSwitchin (s : State) : Out :=
  match s.op with
  | .nat ctx => match s.context? ctx with
    | none => .next (s.refuseCmd ctx)
    | some c =>
      if s.cmdBusy || c.st ≠ .saved then .next (s.refuseCmd ctx)
      else
        let r := s.checkSaved c
        match r.1, (r.2.deviceDone c).context? ctx with
        | .ok err, some c => .next (((r.2.deviceDone c).acceptCmd ctx true).beginRestore c err)
        | .ok _, none => .next r.2
        | .trap _, _ => .next r.2
        | .wait _, _ => .next (r.2.holdInput .switchin)
        | .ask _ _ _, _ => .next (r.2.holdInput .switchin)
  | _ => .next s
/-- SWITCHIN_COMPLETE (R349): no saved cohort can be placed any more: the context arrives in STOPPED with a stop header of zero
records; or it stays SAVED with ERR. -/
def execSwitchinComplete (s : State) : Out :=
  match s.op, s.mgmt.restoring with
  | .nat ctx, some (id, err) =>
    match s.context? ctx with
    | none => .next s
    | some c =>
      if id != ctx then .next s
      else
        let ended := fun (s : State) (st : CtxSt) =>
          (s.setMgmt { s.mgmt with restoring := none, busy := false }).updContext ctx fun c => { c with st := st }
        match err with
        | some (e, sub) => .next ((ended s .saved).setErr ctx e sub)
        | none =>
          if (s.partCores c).any fun p => (s.placeOn c p).isSome then .next s
          else
            let w := s.writeVirt c c.desc.stopbase (stopHeader (s.clock, s.ptp) 0 0 256)
            match w.1 with
            | .ok _ => .next (ended (w.2.deviceDone c) .stopped)
            | .trap t => .next ((ended (w.2.deviceDone c) .stopped).setErr ctx t.cause.code 6)
            | .wait _ | .ask _ _ _ => .next (w.2.deviceWait c w.1)
  | _, _ => .next s

/-! DESTROY and HALT (R349). -/

/-- A frame trigger unit of a destroyed context is disabled and reports GONE (R303). -/
def State.goneUnits (s : State) (ctx : Nat) : State :=
  (s.units.filter fun u => u.2.ctx == ctx && (u.2.en || u.2.stat.getLsbD 0)).foldl (fun s u =>
    s.putUnit u.1 { u.2 with ctl := u.2.ctl &&& 0x7FFFFFFF#32, stat := (u.2.stat &&& ~~~1#32) ||| 0x20#32 }) s
/-- Everything a context holds is freed (R349). -/
def State.destroy (s : State) (c : Context) : State :=
  let other := fun (k : CohKey) => k.ctx != c.id
  let clear := fun (x : Core) =>
    { x.disown (fun g => g.ck.ctx == c.id) with
        fetchBuf := x.fetchBuf.filter fun e => e.1 != c.id, seqCache := x.seqCache.filter fun e => e.1 != c.id,
        started := x.started.filter fun e => e.1 != c.id }
  let s1 : State :=
    { s with contexts := s.contexts.filter fun x => x.id != c.id,
             threads := s.threads.filter fun t => other t.key.ck, groups := s.groups.filter fun g => other g.key.ck,
             cohorts := s.cohorts.filter fun h => other h.key, launches := s.launches.filter fun l => l.ctx != c.id,
             cores := s.cores.map fun x => (x.1, clear x.2),
             engines := s.engines.filter fun e => e.1 / 32 != c.id,
             holds := s.holds.filter fun h => other h.2.2.ck, shadow := s.shadow.filter fun x => x.2.ctx != c.id,
             pins := s.pins.filter fun p => other p.ck, walks := s.walks.filter fun w => w.ctx != c.id,
             reqs := s.reqs.filter fun r => other r.key.ck,
             rets := s.rets.filter fun r => r.dests.all fun d => other d.cohort }
  c.cores.foldl (fun s p => s.idleSlots p.2) (s1.goneUnits c.id)
/-- DESTROY (R349): a stopped or saved context is gone. -/
def execDestroy (s : State) : Out :=
  match s.op with
  | .nat ctx => .next (s.command ctx [.stopped, .saved] fun c => (s.acceptCmd ctx false).destroy c)
  | _ => .next s
/-- CTX_HALT (R337, R349): the HALT command raises the halt line, with first cause SOFTWARE and INFO1 0xFE; it ends with the stop. -/
def execCtxHalt (s : State) : Out :=
  match s.op with
  | .nat ctx =>
    .next (s.command ctx [.running] fun _ =>
      let s1 := s.acceptCmd ctx true
      (s1.setMgmt { s1.mgmt with haltCmd := some ctx }).requestTrap ctx (s.deviceRec .software 0 0xFE 2))
  | _ => .next s

/-! Invalidation of translations (R201, R414). -/

/-- TLBINV (R201): a write of the register; BUSY starts an invalidation, and a write while one runs is ignored. -/
def execTlbinv (s : State) : Out :=
  match s.op with
  | .word v =>
    if s.mgmt.tlbinv.getLsbD 31 then .next s
    else .next (s.setMgmt { s.mgmt with tlbinv := v.extractLsb' 0 32 &&& 0x803FFFFF#32 })
  | _ => .next s
/-- Whether a cached translation covers a byte of the range of TLBINV. -/
def State.inInval (s : State) (e : TlbEntry) : Bool :=
  let r := s.mgmt.tlbinv
  let n := 2 ^ (r.extractLsb' 16 6).toNat
  let lo := s.mgmt.tlbinva.toNat % 2 ^ 56 / n * n
  e.ctx == (r.extractLsb' 0 16).toNat && decide (e.vbase < lo + n) && decide (lo < e.vbase + e.size)
/-- TLBINV_COMPLETE (R201): no structure holds an old entry of the range, and no L1 an RO line of it. -/
def execTlbinvComplete (s : State) : Out :=
  if s.mgmt.tlbinv.getLsbD 31 then
    let s1 : State := { s with tlb := s.tlb.filter fun e => !s.inInval e }
    let s2 := s1.cores.foldl (fun s c => s.dropRo c.1) s1
    .next (s2.setMgmt { s2.mgmt with tlbinv := s2.mgmt.tlbinv &&& 0x7FFFFFFF#32 })
  else .next s

/-! The partition table (R354). -/

/-- Whether a reserved bit of an entry is set. -/
def partReserved (b : Bytes) : Bool :=
  ((List.range 4).any fun d => decide (2 ^ 34 ≤ leAt b (8 * d) 8)) || !zeroAt b 38 2 || decide (2 ≤ leAt b 44 1) || !zeroAt b 45 19
/-- Whether a physical core is fused bad and no spare of its die replaces it (R412). -/
def Fuses.dead (f : Fuses) (core : Nat) : Bool := (f.standIn core).isNone
/-- Whether two masks share a bit. -/
def shareBit (a b : Nat) : Bool := a &&& b != 0
/-- Whether a write of a partition entry is refused (R354). -/
def State.partRefused (s : State) (i : Nat) (b : Bytes) : Bool :=
  let others := ((List.range 8).filter fun k => k != i).map fun k => s.mgmt.parts.getD k []
  let used := others.filter fun p => leAt p 44 1 % 2 == 1
  partReserved b ||
  (used.any fun p => shareBit (leAt p 32 4) (leAt b 32 4) ||
    (List.range 4).any fun d => shareBit (leAt p (8 * d) 8) (leAt b (8 * d) 8)) ||
  decide (512 < (used.map fun p => leAt p 36 2).sum + (if leAt b 44 1 % 2 == 1 then leAt b 36 2 else 0)) ||
  (List.range 136).any fun c => (leAt b (8 * (c / 34)) 8).testBit (c % 34) && s.fuses.dead c
/-- An accepted entry takes effect: the contexts of the partition have their remap tables rewritten (R352, R355). -/
def State.putPart (s : State) (i : Nat) (b : Bytes) : State :=
  let s1 := s.setMgmt { s.mgmt with parts := s.mgmt.parts.set i b }
  (s1.contexts.filter fun c => c.desc.part == i && decide (c.st ≠ .saved)).foldl (fun s c => s.remapTo (s.remapCores c true)) s1
/-- PARTITION_ENTRY_WRITE (R354): an entry is written whole, or refused and kept. -/
def execPartitionEntryWrite (s : State) : Out :=
  match s.op with
  | .natBytes i data =>
    let b := (data ++ List.replicate 64 0).take 64
    if 8 ≤ i then .next s
    else if s.partRefused i b then .next (s.setMgmt { s.mgmt with pstat := true })
    else .next (s.putPart i b)
  | _ => .next s

end Sys2Proof.Machine
end

