-- ==== Sys2Proof/Machine/Debug.lean ====
section
/-! DEFINITION. Single steps (R359 to R361, R391), causal trials (R365), stall sampling (R362 to R364, R372, R373), reuse-distance
counting (R366), and the replay base (R367). -/

namespace Sys2Proof.Machine

/-! Single steps (R360). -/

/-- The cohort that DBGTGT names. -/
def Context.target (c : Context) : CohKey :=
  { ctx := c.id, launch := (lo32 c.dbg.dbgtgt).toNat, coh := (hi32 c.dbg.dbgtgt).toNat }
/-- The virtual core, group and entry of the thread that DBGTGT and DBGCMD name, where R360 allows a step of it. -/
def State.stepEntry (s : State) (c : Context) (v : W64) : Option (Nat × GrpKey × Entry) :=
  let k : ThKey := { ck := c.target, tid := (v.extractLsb' 0 16).toNat, addr := v.getLsbD 16 }
  if c.st ≠ .stopped || !c.dbg.dbgctl.getLsbD 31 || c.stepping.isSome then none
  else match s.cohort? k.ck, s.thread? k, s.entryOf k with
    | some h, some t, some en =>
      (match h.st with
        | .resident x =>
          if t.exited || t.join.isSome || en.wait.isSome then none
          else some (x, { ck := k.ck, gid := t.gid }, en)
        | .killed _ => none
        | .saved _ => none
        | .waiting => none)
    | none, _, _ => none
    | some _, none, _ => none
    | some _, some _, none => none
/-- The stepped entry leaves its frontier and issues, past the instruction that stopped it or at it (R334, R359, R360); at an enabled
breakpoint it stops instead (R357). -/
def State.beginStep (s : State) (c : Context) (v : W64) (core slot : Nat) (gk : GrpKey) (en : Entry) (single : Bool) : State :=
  let en' := s.resumeEntry gk.ck 0 en
  let s1 := s.updContext c.id fun c =>
    { c with traps := c.traps.map fun r => if r.kind == 9 then { r with kind := 0 } else r,
             stepLanes := c.stepLanes.filter fun p => !(decide (p.1.ck = gk.ck) && p.1.addr == en.addr && en.members.contains p.1.tid),
             stepping := some { gk := gk, addr := en.addr, tid := (v.extractLsb' 0 16).toNat, members := en.members,
                                traps := c.traps.length } }
  let t := s1.takeEntry core slot gk en single
  let run := { t.1.run with pc := en'.pc, startPc := en'.pc, noMatch := en'.noMatch }
  let i : Iss := { t.1 with run := run }
  let s2 := t.2.updSlot core slot fun x => { x with run := some run }
  let hits := if en'.noMatch then [] else c.dbg.breakpoints en'.pc
  if hits.isEmpty then s2 else s2.breakAt i hits
/-- A write of DBGCMD: a step, or a refusal (R360). While the thread's slot is held by another context, the command waits. -/
def State.stepCmd (s : State) (v : W64) (op : Nat) (i : Instr) : State :=
  match s.sel with
  | none => s
  | some c =>
    match (if op == 1 || op == 2 then s.stepEntry c v else none) with
    | none => s.updContext c.id fun c => { c with dbg := { c.dbg with dbgstat := c.dbg.dbgstat ||| 0x80000000#32 } }
    | some (x, gk, en) =>
      let core := c.phys x
      let slot := slotOf gk.gid en.addr
      if ((s.core core).slot slot).run.isSome then s.holdInput i
      else s.beginStep c v core slot gk en (op == 1)
/-- OP of DBGCMD. -/
def stepOp (v : W64) : Nat := (v.extractLsb' 28 4).toNat
/-- STEPI (R360): one instruction of a stopped thread's entry. -/
def execStepi (s : State) : Out :=
  match s.op with
  | .word v => .next (s.stepCmd v 1 .stepi)
  | _ => .next s
/-- STEPR (R360): one run of a stopped thread's entry. -/
def execStepr (s : State) : Out :=
  match s.op with
  | .word v => .next (s.stepCmd v 2 .stepr)
  | _ => .next s
/-- The slot that holds the run of a step. -/
def State.stepRun (s : State) (st : Stepping) : Option (Nat × Nat × Run) :=
  s.cores.findSome? fun c => (List.range 4).findSome? fun j => match (c.2.slot j).run with
    | some r => if decide (r.gk.ck = st.gk.ck) && r.addr == st.addr && r.members == st.members then some (c.1, j, r) else none
    | none => none
/-- Whether the run of a step waits for what only a resume can bring: an answer of another device while the job is frozen (R391), or a
queue that the other, frozen stream fills or drains. -/
def State.stepBlocked (s : State) (c : Context) (r : Run) : Bool :=
  match r.stalledSince with
  | none => false
  | some since =>
    let frozen := decide (c.pod.damper ≠ .none ∧ c.pod.damper ≠ .run)
    (frozen && (s.unacked c.id || s.reqs.any fun q =>
      decide (q.key.ck = r.gk.ck) && r.members.contains q.key.tid && q.vdev.isSome && q.resp.isNone)) ||
    (!r.waits.isEmpty && decide (since + 65536 ≤ s.clock) && !s.memBusy r.gk.ck)
/-- The STEP record of a step that no trap ended (R335, R360). -/
def State.stepRec (s : State) (st : Stepping) : TrapRec :=
  let k : ThKey := { ck := st.gk.ck, tid := st.tid, addr := st.addr }
  let t := s.thread? k
  { s.deviceRec .step 0 0 9 with
    sup := match t with | some t => t.sup | none => false, launch := k.ck.launch, coh := k.ck.coh, tid := k.tid,
    gid := match t with | some t => t.gid | none => 0,
    pc := match t with
      | some t => if t.exited then pc56 (Config.freeWord s.free) else s.pcOf k
      | none => pc56 (Config.freeWord s.free),
    ltime := match t with | some t => t.time | none => 0 }
/-- STATUS, WAIT and what is waited on of the lanes of a stepped entry (R360): 7, or 4 where the instruction waits: on the queue that its lane,
or another of the entry, waits on. A lane that waits in a frontier entry shows its wait there. -/
def Stepping.laneStatus (st : Stepping) (wait : Option (List (Nat × Nat))) : List (ThKey × Nat × Nat × Nat) :=
  st.members.map fun t => ({ ck := st.gk.ck, tid := t, addr := st.addr }, match wait with
    | none => (7, 0, 0)
    | some [] => (4, 0, 0)
    | some (w :: ws) => (4, 6, (((w :: ws).find? fun x => x.1 == t).getD w).2))
/-- The stop records of a context after a step (R360). -/
def State.refreshStop (s : State) (ctx : Nat) : Got Unit × State :=
  match s.context? ctx with
  | none => (.ok (), s)
  | some c =>
    let entries := fun (u : StopUnit) => match u with
      | .core v => s.coreEntries c v
      | .engine e => s.engineEntries ctx e
      | .flue d => c.flueEntries d
    let c1 := { c with stopRecs := c.stopRecs.map fun r => { r with entries := entries r.unit } }
    (s.updContext ctx fun _ => c1).writeStop c1 (s.clock, s.ptp)
/-- A step ends with its own trap record or a STEP record as the first cause of the updated stop (R360); while the stop area waits for a line
or another device, the step has not ended. -/
def State.finishStep (s : State) (c : Context) (st : Stepping) (wait : Option (List (Nat × Nat))) : State :=
  let own := fun (r : TrapRec) => !r.req && r.kind == 0 && r.launch == st.gk.ck.launch && r.coh == st.gk.ck.coh &&
    st.members.contains r.tid
  let old := c.traps.take st.traps
  let new := c.traps.drop st.traps
  let s1 := s.updContext c.id fun c => { c with stepping := none }
  let s2 := if new.any own then
      s1.updContext c.id fun c => { c with traps := old ++ new.map fun r => if own r then { r with kind := 9 } else r }
    else
      ({ s1 with free := s1.free + 1 } : State).updContext c.id fun c =>
        { c with traps := c.traps ++ [s1.stepRec st], stepLanes := c.stepLanes ++ st.laneStatus wait }
  let w := s2.refreshStop c.id
  match w.1 with
  | .ok _ | .trap _ => w.2.deviceDone c
  | .wait _ | .ask _ _ _ =>
    let t := w.2.deviceWait c w.1
    let pod := fun (x : Context) => match t.context? c.id with
      | some y => { x with pod := y.pod }
      | none => x
    { s.updContext c.id pod with reqs := t.reqs, nextId := t.nextId, outputs := t.outputs }
/-- STEP_END (R360, R361): the entry has issued, and what the core accepted of it is complete. -/
def execStepEnd (s : State) : Out :=
  match s.op with
  | .nat ctx =>
    match s.context? ctx with
    | none => .next s
    | some c =>
      match c.stepping with
      | none => .next s
      | some st =>
        match s.stepRun st with
        | some (core, j, r) =>
          if s.stepBlocked c r then .next ((s.unrun core j fun k => decide (k = st.gk.ck)).finishStep c st (some r.waits)) else .next s
        | none =>
          if s.memBusy st.gk.ck || s.cores.any (fun x => x.2.eng.busyFor st.gk.ck) then .next s
          else
            .next (s.finishStep c st none)
  | _ => .next s

/-! Causal trials (R365). -/

/-- CAUSAL_TRIAL_START (R365): a write of RUN = 1 clears the counters and starts a trial. -/
def execCausalTrialStart (s : State) : Out :=
  match s.op, s.sel with
  | .word v, some c =>
    let w := v.extractLsb' 0 32
    if w.getLsbD 31 then
      .next (s.updContext c.id fun c => { c with dbg :=
        { c.dbg with cxctl := w &&& 0x8000FFFF#32, cxcount := 0, cxin := 0, cxout := 0, cxStart := s.clock } })
    else .next s
  | _, _ => .next s
/-- CAUSAL_TRIAL_END (R365): the trial ends after CXLEN clocks. -/
def execCausalTrialEnd (s : State) : Out :=
  match s.op with
  | .nat ctx =>
    match s.context? ctx with
    | none => .next s
    | some c =>
      if c.dbg.trial && decide (c.dbg.cxStart + c.dbg.cxlen.toNat ≤ s.clock) then
        .next (s.updContext ctx fun c => { c with dbg := { c.dbg with cxctl := c.dbg.cxctl &&& 0x7FFFFFFF#32 } })
      else .next s
  | _ => .next s

/-! Stall sampling (R362 to R364). -/

/-- The period of a sampling word. -/
def smpPeriod (ctl : W32) : Nat := max 16 (ctl.extractLsb' 0 16).toNat
/-- The sample clock after a clock: the next multiple of the period after the clock in which EN became 1. -/
def Core.sampleAfter (c : Core) (clock : Nat) : Nat :=
  let p := smpPeriod c.smpctl
  c.smpStart + ((clock - c.smpStart) / p + 1) * p
/-- The group a slot samples next (R362, R372). -/
def State.sampleOf (s : State) (core slot : Nat) : Option Bound :=
  let bs := s.boundTo core slot
  match ((s.core core).slot slot).sampled with
  | none => bs.head?
  | some (res, gk) =>
    match bs.find? fun b => decide (res < b.res) || (b.res == res && decide (gk.gid < b.g.key.gid)) with
    | some b => some b
    | none => bs.head?
/-- Whether a register of a member waits for what a load, a texture fetch or a ray test reads (R134, R364). -/
def State.waitsLoad (s : State) (k : ThKey) (isW : Bool) (reg : Nat) : Bool :=
  let reads : RetKind → Bool
    | .load | .texture | .ray => true
    | .qsamp | .packet => false
  (s.rets.any fun r => reads r.kind && r.dests.any fun d => match d with
    | .g k' n _ => !isW && decide (k' = k) && n == reg
    | .w k' n _ => isW && decide (k' = k) && n == reg
    | .q _ _ _ _ _ => false) ||
  s.reqs.any fun q => ((q.key, q.dest) :: q.merged).any fun p => decide (p.1 = k) && (match p.2 with
    | .regs rs => !isW && rs.contains (some reg)
    | .wreg n => isW && n == reg
    | .none | .queue _ _ => false)
/-- Whether a register of a member waits for any result. -/
def State.waitsAny (s : State) (k : ThKey) (isW : Bool) (reg : Nat) : Bool :=
  if isW then (s.pendingW k).contains reg else (s.pendingG k).contains reg || (s.heldFrags k).contains reg
/-- The code of a dependence stall (R364): 3 where the instruction waits on a queue or for a load, else 4 where it waits for a register; 0 once
all of these have come. An instruction that waits for none of them, but for a request, a translation or room in a unit, has code 3: DESIGN
CHOICE (log entry 92). -/
def State.stallCode (s : State) (r : Run) : Nat :=
  let key := fun (t : Nat) => ({ ck := r.gk.ck, tid := t, addr := r.addr } : ThKey)
  if !r.waits.isEmpty || r.needs.isEmpty || r.needs.any (fun n => s.waitsLoad (key n.1) n.2.1 n.2.2) then 3
  else if r.needs.any fun n => s.waitsAny (key n.1) n.2.1 n.2.2 then 4
  else 0
/-- The code of a group whose entries are all blocked (R364). -/
def blockedCode : Option Wait → Nat
  | some (.bar _) => 5
  | some (.arrive _) => 5
  | some (.nbar _ _) => 5
  | some (.fwait _) => 6
  | some (.recv _ _ _) => 6
  | some (.accwait _) => 7
  | none => 1
/-- REASON, PC and the lowest thread of a group that a slot samples (R363, R364). -/
def State.sampleReason (s : State) (core slot : Nat) (b : Bound) : Nat × W64 × Nat :=
  let held := match ((s.core core).slot slot).run with
    | some r => if decide (r.gk = b.g.key) && r.addr == b.addr then some r else none
    | none => none
  let fr := b.g.frontier.filter fun en => en.addr == b.addr
  let offer := b.g.offer b.addr b.det s.clock
  let lowest := fun (l : List Nat) => (sortNat l).headD 0
  let at_ : Nat → Option Entry → Nat × W64 × Nat := fun code en => match en with
    | some en => (code, en.pc, lowest en.members)
    | none => (code, 0, lowest b.g.members)
  let halted : Bool := match s.context? b.g.key.ck.ctx with
    | some c => decide (c.st ≠ .running)
    | none => true
  match held with
  | some r =>
    if r.stalledSince.isNone then
      (if s.mgmt.thr || decide (s.clock < ((s.core core).slot slot).idleUntil) then (if halted then 9 else 1) else 0, r.pc, lowest r.members)
    else if halted then (9, r.pc, lowest r.members)
    else (s.stallCode r, r.pc, lowest r.members)
  | none =>
    match offer with
    | some en =>
      if halted then at_ 9 (some en)
      else if !b.det && !s.mayIssue core b en then at_ 2 (some en)
      else at_ 1 (some en)
    | none => at_ (if halted then 9 else blockedCode (fr.head?.bind (·.wait))) fr.head?
/-- The record of one slot's sample, and the slot (R363, R373). -/
def State.sampleSlot (s : State) (core slot clock : Nat) : Bytes × State :=
  match s.sampleOf core slot with
  | none => (natLe 2 0 ++ natLe 1 10 ++ natLe 1 slot ++ List.replicate 20 0 ++ natLe 8 clock, s)
  | some b =>
    let r := s.sampleReason core slot b
    let k := b.g.key
    (natLe 2 k.ck.ctx ++ natLe 1 r.1 ++ natLe 1 slot ++ natLe 4 k.ck.launch ++ natLe 4 k.ck.coh ++ natLe 2 r.2.2 ++ natLe 2 k.gid ++
      natLe 8 r.2.1.toNat ++ natLe 8 clock,
     s.updSlot core slot fun x => { x with sampled := some (b.res, k) })
/-- A sample record goes to the buffer, or is dropped (R362); an address at or above the capacity takes no byte. -/
def State.putSample (s : State) (core : Nat) (b : Bytes) : State :=
  let c := s.core core
  if c.smpptr.toNat < c.smpsize.toNat then
    let pa := c.smpbase.toNat / 32 * 32 % 2 ^ 56 + 32 * c.smpptr.toNat
    let s1 := if pa + 32 ≤ s.capacity then s.writePhys pa (b.map some) else s
    s1.updCore core fun c => { c with smpptr := c.smpptr + 1 }
  else s.updCore core fun c => { c with smpdrop := satInc c.smpdrop }
/-- Whether a core's next sample is due. -/
def State.sampleDue (s : State) (core : Nat) : Bool :=
  (s.core core).smpctl.getLsbD 31 && decide ((s.core core).smpNext ≤ s.clock)
/-- A core takes the sample that is due: every slot samples a group, in slot order (R362). -/
def State.takeSample (s : State) (core : Nat) : State :=
  let t := (s.core core).smpNext
  let s1 := (List.range 4).foldl (fun s j => let r := s.sampleSlot core j t; r.2.putSample core r.1) s
  s1.updCore core fun c => { c with smpNext := t + smpPeriod c.smpctl }
/-- STALL_SAMPLE (R362). -/
def execStallSample (s : State) : Out :=
  match s.op with
  | .nat core => if s.sampleDue core then .next (s.takeSample core) else .next s
  | _ => .next s
/-- The samples of a core whose clocks have come are taken. -/
def State.takeSamples (s : State) (core : Nat) : Nat → State
  | 0 => s
  | n + 1 => if s.sampleDue core then (s.takeSample core).takeSamples core n else s
/-- SMPCTL_WRITE (R362, R372): the samples whose clocks have come are taken first; sampling starts with its rotation afresh, or stops. -/
def execSmpctlWrite (s : State) : Out :=
  match s.op with
  | .natWord core v =>
    let w := v.extractLsb' 0 32 &&& 0x8000FFFF#32
    let c := s.core core
    .next ((s.takeSamples core ((s.clock - c.smpNext) / smpPeriod c.smpctl + 1)).updCore core fun c =>
      let c1 : Core := { c with smpctl := w }
      if w.getLsbD 31 && !c.smpctl.getLsbD 31 then
        let c2 : Core := { c1 with smpStart := s.clock, slots := c1.slots.map fun x => { x with sampled := none } }
        { c2 with smpNext := c2.sampleAfter s.clock }
      else { c1 with smpNext := c1.sampleAfter (max s.clock (c1.smpNext - 1)) })
  | _ => .next s

/-! Reuse distance and replay (R366, R367). -/

/-- RDCTL_WRITE (R366): EN = 0 empties the tag registers. -/
def execRdctlWrite (s : State) : Out :=
  match s.op with
  | .natWord core v =>
    let w := v.extractLsb' 0 32 &&& 0x800FFFFF#32
    .next (s.updCore core fun c => { c with rdctl := w, rdtags := if w.getLsbD 31 then c.rdtags else [] })
  | _ => .next s
/-- RPLBASE_WRITE (R367): a write clears RPLPTR and the launch ordinal. -/
def execRplbaseWrite (s : State) : Out :=
  match s.op, s.sel with
  | .word v, some c => .next (s.updContext c.id fun c => { c with dbg := { c.dbg with rplbase := v, rplptr := 0, rplOrd := 0 } })
  | _, _ => .next s

end Sys2Proof.Machine
end

