-- ==== Sys2Proof/Machine/Sha.lean ====
section
/-! DEFINITION. SHA-256, and the verification of an RSASSA-PSS signature with SHA-256 and a salt of 32 bytes (R383, R398, R412,
R413). The byte strings are those of the standards: most significant byte first. -/

namespace Sys2Proof.Machine

/-- A byte string as a number, most significant byte first. -/
def beNat (b : Bytes) : Nat := b.foldl (fun n x => 256 * n + x.toNat) 0
/-- A number as `n` bytes, most significant first. -/
def natBe (n x : Nat) : Bytes := (natLe n x).reverse
/-- The greatest number below `r + 2 ^ bits` whose `k`-th power is at most `n`, found bit by bit from `r`. -/
def rootFrom (k n : Nat) : Nat → Nat → Nat
  | 0, r => r
  | bits + 1, r => rootFrom k n bits (if (r + 2 ^ bits) ^ k ≤ n then r + 2 ^ bits else r)
/-- The first 32 bits of the fractional part of the `k`-th root of a number below 343: where SHA-256 takes its constants from. -/
def rootFraction (k p : Nat) : W32 := w32 (rootFrom k (p * 2 ^ (32 * k)) 37 0)
/-- The 64 primes below 312. -/
def shaPrimes : List Nat :=
  ((List.range 312).drop 2).filter fun n => [2, 3, 5, 7, 11, 13, 17].all fun d => n == d || n % d != 0
/-- The eight working variables. -/
structure ShaVars where
  (a b c d e f g h : W32)
  deriving DecidableEq, Repr
/-- Three rotations of a word, joined. -/
def turn3 (x : W32) (i j k : Nat) : W32 := x.rotateRight i ^^^ x.rotateRight j ^^^ x.rotateRight k
/-- Two rotations of a word and a shift, joined. -/
def turn2 (x : W32) (i j k : Nat) : W32 := x.rotateRight i ^^^ x.rotateRight j ^^^ x >>> k
/-- One round: the variables, and the sixteen schedule words from this round's on. -/
def ShaVars.round : ShaVars × List W32 → W32 → ShaVars × List W32
  | (v, win), k =>
    let pick := v.g ^^^ (v.e &&& (v.f ^^^ v.g))
    let most := (v.a &&& v.b) ||| (v.c &&& (v.a ||| v.b))
    let x := v.h + turn3 v.e 6 11 25 + pick + k + win.getD 0 0
    let next := win.getD 0 0 + turn2 (win.getD 1 0) 7 18 3 + win.getD 9 0 + turn2 (win.getD 14 0) 17 19 10
    (⟨x + turn3 v.a 2 13 22 + most, v.a, v.b, v.c, v.d + x, v.e, v.f, v.g⟩, win.drop 1 ++ [next])
/-- The words of a byte string, each most significant byte first. -/
def beWords : Nat → Bytes → List W32
  | 0, _ => []
  | n + 1, b => w32 (beNat (b.take 4)) :: beWords n (b.drop 4)
/-- The hash value after `n` blocks of 64 bytes, first to last. -/
def ShaVars.blocks (ks : List W32) : Nat → ShaVars → Bytes → ShaVars
  | 0, v, _ => v
  | n + 1, v, b =>
    let r := (ks.foldl ShaVars.round (v, beWords 16 b)).1
    ShaVars.blocks ks n
      ⟨v.a + r.a, v.b + r.b, v.c + r.c, v.d + r.d, v.e + r.e, v.f + r.f, v.g + r.g, v.h + r.h⟩ (b.drop 64)
/-- SHA-256. -/
def sha256 (msg : Bytes) : Bytes :=
  let fill := List.replicate (63 - (msg.length + 8) % 64) 0#8
  let padded := msg ++ 0x80#8 :: fill ++ natBe 8 (8 * msg.length)
  let h0 : ShaVars :=
    match (shaPrimes.take 8).map (rootFraction 2) with
    | [a, b, c, d, e, f, g, h] => ⟨a, b, c, d, e, f, g, h⟩
    | _ => ⟨0, 0, 0, 0, 0, 0, 0, 0⟩
  let v := h0.blocks (shaPrimes.map (rootFraction 3)) (padded.length / 64) padded
  [v.a, v.b, v.c, v.d, v.e, v.f, v.g, v.h].flatMap fun w => natBe 4 w.toNat

/-- A power modulo n, by the bits of the exponent, most significant first. -/
def powMod (n x : Nat) : List Bool → Nat → Nat
  | [], acc => acc
  | b :: bs, acc => powMod n x bs (if b then acc * acc % n * x % n else acc * acc % n)
/-- The public exponent 65,537. -/
def rsaExponent : List Bool := [true] ++ List.replicate 15 false ++ [true]
/-- MGF1 with SHA-256. -/
def mgf1 (seed : Bytes) (len : Nat) : Bytes :=
  ((List.range ((len + 31) / 32)).flatMap fun k => sha256 (seed ++ natBe 4 k)).take len
/-- Whether an encoded message of 384 bytes, with its highest bit clear, encodes a message: EMSA-PSS with a salt of 32 bytes. -/
def pssOk (em msg : Bytes) : Bool :=
  let db := (em.take 351).zipWith (· ^^^ ·) (mgf1 ((em.drop 351).take 32) 351)
  let db' := db.set 0 (db.getD 0 0 &&& 0x7F#8)
  let salt := db'.drop 319
  em.length == 384 && em.getD 383 0 == 0xBC && !(em.getD 0 0).getLsbD 7 && (db'.take 318).all (fun x => x == 0) &&
    db'.getD 318 0 == 1 && sha256 (List.replicate 8 0 ++ sha256 msg ++ salt) == (em.drop 351).take 32
/-- RSASSA-PSS verification with a modulus of 3,072 bits (R412). -/
def rsaPssOk (modulus sig msg : Bytes) : Bool :=
  let n := beNat modulus
  decide (beNat sig < n) && pssOk (natBe 384 (powMod n (beNat sig) rsaExponent 1)) msg

end Sys2Proof.Machine
end

