-- ==== Sys2Proof/Machine/Pod.lean ====
section
/-! DEFINITION. A context's place in a pod: joining and leaving (R383), control messages (R382, R387, R390, R392, R393), the pod
resume (R392), data messages and remote accesses at their owner (R384 to R386, R389), chunks and failed members of a collective (R396,
R397), and replica digests (R398). -/

namespace Sys2Proof.Machine

/-- Updates the pod part of a context. -/
def State.updPod (s : State) (ctx : Nat) (f : Pod → Pod) : State := s.updContext ctx fun c => { c with pod := f c.pod }
/-- A pod event is signalled to the host (R401). -/
def State.podEvent (s : State) : State := s.send (.msix 3)
/-- Sends a control message to each of a list of members. -/
def State.ctl (s : State) (ctx : Nat) (dsts : List Nat) (b : CtlBody) : State :=
  match s.context? ctx with
  | none => s
  | some c => s.putSent (c.ctlAll dsts b)
/-- The members of the job other than this one that are not fenced. -/
def Context.others (c : Context) : List Nat := c.liveMembers.filter fun m => m != c.self

/-! PODCMD JOIN and LEAVE (R383). -/

/-- A PODCMD is refused. -/
def State.refusePod (s : State) (ctx : Nat) : State := s.updPod ctx fun p => { p with refused := true }
/-- An input that must wait for others stands behind them. -/
def State.laterInput (s : State) (i : Instr) : State := { s with inputs := s.inputs ++ [(i, s.op)] }
/-- A context enters its job: RUN, EPOCH 0 (R387). -/
def State.enterJob (s : State) (ctx : Nat) : State :=
  s.updPod ctx fun p => { p with damper := .run, joinPending := false, epoch := 0 }
/-- The counts of a job are pod-wide (R393, R402): a device that joins takes over the counts the other members hold. -/
def Context.adopt (c : Context) (l : List FlueBatch) : Context :=
  { c with nodes := c.nodes.map fun n =>
      (l.filter fun b => b.vdev != c.self).foldl (fun n b => n.applyChanges b.vdev b.srcId b.seq (b.incs ++ b.decs)) n }
/-- The counts a joining device holds, as one batch of its host interface that its own nodes have applied already. -/
def Context.ownBatch (c : Context) : FlueBatch :=
  let ch := (c.node 0).ownCounts c.self
  { srcId := hostSrc, seq := aget 0 c.batchSeq hostSrc, vdev := c.self, incs := ch.filter fun x => decide (0 < x.delta),
    decs := ch.filter fun x => decide (x.delta < 0) }
/-- A device that has joined tells the other members the counts it holds (R393). -/
def State.announce (s : State) (ctx : Nat) : State :=
  match s.context? ctx with
  | none => s
  | some c =>
    let b := c.ownBatch
    (s.ctl ctx c.others (.flue b)).updContext ctx fun c =>
      { c with batchSeq := aput c.batchSeq hostSrc ((b.seq + 1) % 2 ^ 32),
               nodes := c.nodes.map fun n => n.applyChanges c.self hostSrc b.seq [] }
/-- POD_JOIN (R383): JOIN is refused, or waits for the root to confirm; the root itself needs no confirmation. A context that is in
its job already stays as it is. -/
def execPodJoin (s : State) : Out :=
  match s.sel with
  | none => .next s
  | some c =>
    if !(decide (c.st = .running) || decide (c.st = .stopped)) || c.jobid == 0 || !(sget 0 c.pod.devmap c.self).getLsbD 31 then
      .next (s.refusePod c.id)
    else if c.pod.damper ≠ .none then .next s
    else if c.root == c.self then .next (s.enterJob c.id)
    else .next (s.updPod c.id fun p => { p with joinPending := true })
/-- JOIN_CONFIRMATION (R383): the root confirms the joining device, with the digest of the graph image that it announced and the counts
of the job; the JOIN is refused when the context's own digest differs. Batches of the device that a node has still to apply come
first. -/
def execJoinConfirmation (s : State) : Out :=
  match s.op with
  | .join ctx digest counts =>
    match s.context? ctx with
    | none => .next s
    | some c =>
      if !c.pod.joinPending then .next s
      else if sha256 c.graph.image ≠ digest then
        .next ((s.refusePod ctx).updPod ctx fun p => { p with joinPending := false })
      else if !c.batches.isEmpty then .next (s.laterInput .joinConfirmation)
      else .next ((((s.enterJob ctx).announce ctx).updContext ctx fun c => c.adopt counts).recompute ctx)
  | _ => .next s
/-- The batches of a device that still wait for a member wait for it no longer: it has failed, or is fenced, or the device has left the job. -/
def State.batchesWithout (s : State) (ctx v : Nat) : State :=
  match s.context? ctx with
  | none => s
  | some c => (c.batches.filter fun b => b.peers.contains v).foldl (fun s b => s.appliedAway ctx v b) s
/-- POD_LEAVE (R383): the context is out of its job, and the counts of the other members no longer concern it. -/
def execPodLeave (s : State) : Out :=
  match s.sel with
  | none => .next s
  | some c =>
    let s1 := s.updPod c.id fun p =>
      { p with damper := .none, joinPending := false, resending := false, stage := .idle, held := [], causes := [] }
    let gone := ((c.nodes.flatMap fun n => n.bySrc.map (·.1)).eraseDups).filter fun v => v != c.self
    let s2 := s1.updContext c.id fun c =>
      { c with nodes := c.nodes.map fun n =>
                 let m := gone.foldl FlueNode.retire n
                 { m with next := m.next.filter fun x => x.1.1 == c.self },
               batches := c.batches.filter fun b => b.vdev == c.self }
    .next ((((c.batches.flatMap fun b => b.peers).eraseDups).foldl (fun s v => s.batchesWithout c.id v) s2).recompute c.id)

/-! Control messages (R382). -/

/-- The context of a job on this device: its member that has joined. -/
def State.jobContext (s : State) (jobid : Nat) : Option Context :=
  s.contexts.find? fun c => decide (c.pod.damper ≠ .none) && c.jobid == jobid
/-- Whether a device's traffic is taken: it is a member and not fenced (R381, R397). -/
def Context.takesFrom (c : Context) (v : Nat) : Bool :=
  (sget 0 c.pod.devmap v).getLsbD 31 && !(sget 0 c.pod.devmap v).getLsbD 30
/-- How far a 32-bit sequence number stands behind another that is expected: in the upper half of its range it has been passed. -/
def seqAhead (want got : Nat) : Nat := (got + 2 ^ 32 - want) % 2 ^ 32
/-- Takes a control message: one of a foreign job is discarded and counted; those of a source are applied in CSEQ order, a later one
waiting for those before it, and a split one once its LAST part has arrived (R382). The inputs that wait stand for the 16 slots of a source's
inbox, which nothing can read (log entry 93). -/
def State.takeCtl (s : State) (i : Instr) (m : CtlMsg) (go : Context → State → State) : State :=
  match s.jobContext m.jobid with
  | none => s.setMgmt { s.mgmt with foreign := s.mgmt.foreign + 1 }
  | some c =>
    if !c.takesFrom m.src then s
    else
      let next := s.updPod c.id fun p => { p with cseqIn := aput p.cseqIn m.src ((m.cseq + 1) % 2 ^ 32) }
      let ahead := seqAhead (aget m.cseq c.pod.cseqIn m.src) m.cseq
      if ahead == 0 then (if m.last then go c next else next)
      else if 2 ^ 31 ≤ ahead then s
      else s.laterInput i
/-- A control message whose effect must wait for a line or for another device (R217, R384) stands first among the inputs, not yet taken. -/
def State.heldCtl (s : State) (c : Context) (r : Got Unit) (i : Instr) : State :=
  ((s.deviceWait c r).updContext c.id fun x =>
    { x with traps := c.traps, pod := { x.pod with cseqIn := c.pod.cseqIn, damper := c.pod.damper } }).holdInput i

/-! The halt wave (R387, R390). -/

/-- The PEER_HALT record of a halt that came from another device (R387). -/
def State.peerHaltRec (s : State) (src epoch : Nat) : TrapRec := { s.deviceRec .peerHalt 0 src 3 with info2 := w64 epoch }
/-- The context freezes because another device did: a running one halts with PEER_HALT; a stopped one passes the wave on and reports
the first cause it has. -/
def State.freeze (s : State) (c : Context) (src epoch : Nat) : State :=
  let r := s.peerHaltRec src epoch
  if c.st = .stopped then
    let s1 := s.updContext c.id fun c =>
      { c with traps := if c.traps.isEmpty then [r] else c.traps, pod := { c.pod with damper := .freezing } }
    match s1.context? c.id with
    | none => s1
    | some d =>
      let w := s1.rootStop d
      match w.1 with
      | .ok _ | .trap _ => ((w.2.deviceDone c).ctl c.id c.others .halt).damperStop c.id
      | .wait _ | .ask _ _ _ => w.2.heldCtl c w.1 .haltMessage
  else s.requestTrap c.id r
/-- HALT_MESSAGE (R387): a HALT of the current EPOCH freezes a running member. -/
def execHaltMessage (s : State) : Out :=
  match s.op with
  | .ctl m => .next (s.takeCtl .haltMessage m fun (c : Context) (s : State) => match m.body with
    | .halt => if m.epoch == c.pod.epoch && decide (c.pod.damper = .run) then s.freeze c m.src m.epoch else s
    | .cause _ | .prep _ | .confirm | .resent | .release _ | .flue _ | .digest _ _ | .fence _ => s)
  | _ => .next s
/-- CAUSE_MESSAGE (R390): the root enters a member's first cause. -/
def execCauseMessage (s : State) : Out :=
  match s.op with
  | .ctl m => .next (s.takeCtl .causeMessage m fun (c : Context) (s : State) => match m.body with
    | .cause e =>
      if c.root == c.self then
        let w := s.enterCause c.id m.src e
        match w.1 with
        | .ok _ | .trap _ => w.2.deviceDone c
        | .wait _ | .ask _ _ _ => w.2.heldCtl c w.1 .causeMessage
      else s
    | .halt | .prep _ | .confirm | .resent | .release _ | .flue _ | .digest _ _ | .fence _ => s)
  | _ => .next s

/-! The pod resume (R392). -/

/-- A member that has nothing left to re-send is DRAINED (R387). -/
def State.testDrained (s : State) (ctx : Nat) : State :=
  match s.context? ctx with
  | none => s
  | some c =>
    if c.pod.resending && decide (c.pod.damper = .ready) && c.pod.held.isEmpty then
      let s1 := s.updPod ctx fun p => { p with damper := .drained, answered := if c.root == c.self then c.self :: p.answered else p.answered }
      if c.root == c.self then s1 else s1.ctl ctx [c.root] .resent
    else s
/-- The messages a context holds leave, in sequence order (R389, R391). -/
def State.resend (s : State) (c : Context) : State :=
  let out := c.pod.held.map fun m => Output.data m.peer { src := c.self, jobid := c.jobid, seq := m.seq, body := m.body }
  let s1 := s.updPod c.id fun p => { p with held := p.held.map fun m => { m with sent := true } }
  { s1 with outputs := s1.outputs ++ out }
/-- The count batches that a step has formed leave for the other members (R391). -/
def State.resendBatches (s : State) (c : Context) : State :=
  (c.batches.filter fun b => b.stepped && !b.left && b.vdev == c.self).foldl (fun s b => match s.context? c.id with
    | some d => s.sendAway d d.peersOf b
    | none => s) s
/-- The resend stage at a member (R387, R391). -/
def State.beginResend (s : State) (c : Context) : State :=
  (((s.updPod c.id fun p => { p with resending := true }).resend c).resendBatches c).testDrained c.id
/-- A frozen member whose context is stopped is READY, its remap tables rewritten (R387). -/
def State.getReady (s : State) (c : Context) : State :=
  let d := s.remapCores c false
  s.remapTo { d with pod := { d.pod with damper := .ready } }
/-- The root goes on to the next stage once every member has answered (R392). -/
def State.advance (s : State) (ctx : Nat) : State :=
  match s.context? ctx with
  | none => s
  | some c =>
    if !c.liveMembers.all c.pod.answered.contains then s
    else match c.pod.stage with
      | .idle => s
      | .released => s
      | .prep =>
        let s1 := s.updPod ctx fun p => { p with stage := .resend, answered := [], stageStart := s.clock }
        let s2 := s1.ctl ctx c.others (.prep true)
        (match s2.context? ctx with
          | some d => s2.beginResend d
          | none => s2)
      | .resend =>
        let f := s.useFree
        let t := s.time.ns + 50000 + Config.freeNat f.1
        let s1 := f.2.updPod ctx fun p => { p with stage := .released, answered := [], damper := .armed, releaseAt := t }
        s1.ctl ctx c.others (.release t)
/-- Both stages in turn, where the root is the only member left. -/
def State.advanceAll (s : State) (ctx : Nat) : State := (s.advance ctx).advance ctx
/-- POD_RESUME (R392): at the root of a frozen job, the first stage: PREP to every member. -/
def execPodResume (s : State) : Out :=
  match s.sel with
  | none => .next s
  | some c =>
    if c.root != c.self || decide (c.pod.damper ≠ .frozen) || decide (c.st ≠ .stopped) then .next (s.refusePod c.id)
    else
      let s1 := (s.getReady c).updPod c.id fun p => { p with stage := .prep, answered := [c.self], stageStart := s.clock }
      .next ((s1.ctl c.id c.others (.prep false)).advanceAll c.id)
/-- PREP_MESSAGE (R387, R392): a stopped member confirms and is READY, or re-sends what it holds; a member that still freezes takes it
later. -/
def execPrepMessage (s : State) : Out :=
  match s.op with
  | .ctl m =>
    let early : Bool := match s.jobContext m.jobid, m.body with
      | some c, .prep false => decide (c.pod.damper = .freezing) || (decide (c.pod.damper = .frozen) && decide (c.st ≠ .stopped))
      | _, _ => false
    if early then .next (s.laterInput .prepMessage)
    else .next (s.takeCtl .prepMessage m fun (c : Context) (s : State) => match m.body with
      | .prep re =>
        if m.src != c.root then s
        else if re then (if c.pod.damper = .ready then
          (match s.context? c.id with | some d => s.beginResend d | none => s) else s)
        else if decide (c.pod.damper = .frozen) && decide (c.st = .stopped) then
          (match s.context? c.id with | some d => (s.getReady d).ctl c.id [c.root] .confirm | none => s)
        else s
      | .halt | .cause _ | .confirm | .resent | .release _ | .flue _ | .digest _ _ | .fence _ => s)
  | _ => .next s
/-- The root records the answer of a member in a stage. -/
def State.answered (s : State) (c : Context) (v : Nat) (stage : ResumeStage) : State :=
  if c.root == c.self && decide (c.pod.stage = stage) then
    (s.updPod c.id fun p => { p with answered := v :: p.answered }).advanceAll c.id
  else s
/-- CONFIRM_MESSAGE (R392): a member is READY. -/
def execConfirmMessage (s : State) : Out :=
  match s.op with
  | .ctl m => .next (s.takeCtl .confirmMessage m fun (c : Context) (s : State) => match m.body with
    | .confirm => s.answered c m.src .prep
    | .halt | .cause _ | .prep _ | .resent | .release _ | .flue _ | .digest _ _ | .fence _ => s)
  | _ => .next s
/-- RESENT_MESSAGE (R392): a member is DRAINED. -/
def execResentMessage (s : State) : Out :=
  match s.op with
  | .ctl m => .next (s.takeCtl .resentMessage m fun (c : Context) (s : State) => match m.body with
    | .resent => s.answered c m.src .resend
    | .halt | .cause _ | .prep _ | .confirm | .release _ | .flue _ | .digest _ _ | .fence _ => s)
  | _ => .next s
/-- The context resumes with its job once its stop header is clear: EPOCH counts up, and the job runs (R342, R387). -/
def State.release (s : State) (c : Context) : State :=
  let w := s.writeVirt c c.desc.stopbase (List.replicate 256 0)
  match w.1 with
  | .ok _ | .trap _ => ((w.2.deviceDone c).resume c).updPod c.id fun p =>
      { p with damper := .run, epoch := (p.epoch + 1) % 2 ^ 32, resending := false, stage := .idle, causes := [], answered := [] }
  | .wait _ | .ask _ _ _ => w.2.deviceWait c w.1
/-- RELEASE_MESSAGE (R387, R392): a drained member is ARMED until T; one that T has passed sets LATE, and resumes at once. -/
def execReleaseMessage (s : State) : Out :=
  match s.op with
  | .ctl m => .next (s.takeCtl .releaseMessage m fun (c : Context) (s : State) => match m.body with
    | .release t =>
      if m.src != c.root || decide (c.pod.damper ≠ .drained) then s
      else
        let s1 := s.updPod c.id fun p => { p with damper := .armed, releaseAt := t }
        if s.time.ns ≤ t then s1
        else match (s1.updPod c.id fun p => { p with pflags2 := p.pflags2 ||| 2 }).podEvent.context? c.id with
          | some d => ((s1.updPod c.id fun p => { p with pflags2 := p.pflags2 ||| 2 }).podEvent).release d
          | none => s1
    | .halt | .cause _ | .prep _ | .confirm | .resent | .flue _ | .digest _ _ | .fence _ => s)
  | _ => .next s
/-- Whether an armed context's time has come. -/
def State.releaseDue (s : State) (c : Context) : Bool := decide (c.pod.damper = .armed) && decide (c.pod.releaseAt ≤ s.time.ns)
/-- RELEASE_TIME_REACHED (R387): an armed member resumes when %ptptime reaches T. -/
def execReleaseTimeReached (s : State) : Out :=
  match s.op with
  | .nat ctx =>
    match s.context? ctx with
    | none => .next s
    | some c => if s.releaseDue c then .next (s.release c) else .next s
  | _ => .next s
/-- Sets FENCED for a member (R392, R397): what this device still holds for it, and waits for from it, concerns it no longer. -/
def State.setFenced (s : State) (ctx v : Nat) : State :=
  (s.updPod ctx fun p => { p with devmap := sput 0 p.devmap v (sget 0 p.devmap v ||| 0x40000000#32),
                                  held := p.held.filter fun m => m.peer != v }).batchesWithout ctx v
/-- DIGTO in clocks. -/
def Context.digto (c : Context) : Nat := (c.pod.podtmo.extractLsb' 0 16).toNat * 1800
/-- The members that have not answered a stage in time. -/
def State.unanswered (s : State) (c : Context) : List Nat :=
  if (decide (c.pod.stage = .prep) || decide (c.pod.stage = .resend)) && decide (c.pod.stageStart + c.digto ≤ s.clock) then
    c.others.filter fun v => !c.pod.answered.contains v
  else []
/-- CONFIRM_TIMEOUT (R392): a member that does not confirm a stage within DIGTO is fenced, and the resume goes on without it. -/
def execConfirmTimeout (s : State) : Out :=
  match s.op with
  | .nat ctx =>
    match s.context? ctx with
    | none => .next s
    | some c =>
      let late := s.unanswered c
      if late.isEmpty then .next s
      else
        let s1 := late.foldl (fun s v => (s.ctl ctx c.others (.fence v)).setFenced ctx v) s
        .next ((s1.podEvent.testDrained ctx).advanceAll ctx)
  | _ => .next s
/-- This device learns that its job has fenced it: FENCED sets, and its context halts with PEER_HALT (R397). -/
def State.selfFenced (s : State) (c : Context) (src : Nat) : State :=
  let s1 := (s.updPod c.id fun p => { p with pflags2 := p.pflags2 ||| 1 }).podEvent
  if c.st = .running then s1.requestTrap c.id (s1.peerHaltRec src c.pod.epoch) else s1
/-- FENCE_MESSAGE (R392, R397): a member is fenced. -/
def execFenceMessage (s : State) : Out :=
  match s.op with
  | .ctl m => .next (s.takeCtl .fenceMessage m fun (c : Context) (s : State) => match m.body with
    | .fence v => if v == c.self then s.selfFenced c m.src else ((s.setFenced c.id v).podEvent.testDrained c.id).advanceAll c.id
    | .halt | .cause _ | .prep _ | .confirm | .resent | .release _ | .flue _ | .digest _ _ => s)
  | _ => .next s

/-! Progress across devices (R393). -/

/-- FLUE_MESSAGE (R393): a whole batch of another member waits at the nodes of this device; one that they have applied is discarded. -/
def execFlueMessage (s : State) : Out :=
  match s.op with
  | .ctl m => .next (s.takeCtl .flueMessage m fun (c : Context) (s : State) => match m.body with
    | .flue b =>
      let seen := c.batches.any (fun x => x.vdev == b.vdev && x.srcId == b.srcId && x.seq == b.seq) ||
        c.nodes.all fun n => (n.next.any fun p => decide (p.1 = (b.vdev, b.srcId))) &&
          decide (2 ^ 31 ≤ seqAhead (n.expects b.vdev b.srcId) b.seq)
      if seen || b.vdev == c.self then s
      else s.updContext c.id fun c =>
        { c with batches := c.batches ++ [{ srcId := b.srcId, vdev := b.vdev, seq := b.seq, incs := b.incs, decs := b.decs,
                                            home := 0, applied := [], peers := [] }] }
    | .halt | .cause _ | .prep _ | .confirm | .resent | .release _ | .digest _ _ | .fence _ => s)
  | _ => .next s

/-! Chunks (R396). -/

/-- The engine that receives the chunks of (CHLOC, TIME): one with a collective request of theirs, else the context's engine 0. -/
def State.chunkEngine (s : State) (ctx : Nat) (k : Chunk) : Nat :=
  match s.engines.find? fun e => e.2.queue.any fun q => q.ck.ctx == ctx && q.open && decide (lineTime q.line = k.time) &&
      (match q.ext with | some x => x.chloc == k.chloc | none => false) with
  | some e => e.1
  | none => engAt ctx 0
/-- A chunk lands (R396): its -1 at (CHLOC, TIME) enters a batch of the receiving engine, counters count an arrival, and the requests
that wait for the member's chunks see it. -/
def State.landChunk (s : State) (ctx peer : Nat) (k : Chunk) : State :=
  let e := s.chunkEngine ctx k
  let s1 := s.updContext ctx fun c =>
    { (c.arrival k.chloc k.time) with pod := { c.pod with chunksIn := c.pod.chunksIn ++ [(peer, k)] } }
  let seen := fun (q : CopyReq) =>
    if q.ck.ctx == ctx && q.due.any fun d => d.1 == peer then { q with due := aput q.due peer s.clock } else q
  let s2 := s1.setEngines (s1.engines.map fun g => (g.1, { g.2 with queue := g.2.queue.map seen }))
  (s2.form ctx (engineSrc e) (engineDie e) [chg k.chloc k.time (-1)]).recompute ctx
/-- CHUNK_LANDING (R396): a chunk of a member lands. -/
def execChunkLanding (s : State) : Out :=
  match s.op with
  | .chunk ctx peer k =>
    match s.context? ctx with
    | none => .next s
    | some c => if c.takesFrom peer && decide (c.pod.damper = .run) then .next (s.landChunk ctx peer k) else .next s
  | _ => .next s

/-! Data messages (R384, R386, R389). -/

/-- The bytes that an access of a remote request addresses (R235, R384). -/
def accSize (a : RemAcc) : Nat :=
  match a.op with
  | .read n => n
  | .write d => d.length
  | .atom op _ _ _ => atomSize op
/-- Whether an access of a remote request only writes. -/
def accStores (a : RemAcc) : Bool :=
  match a.op with
  | .write _ => true
  | .read _ | .atom _ _ _ _ => false
/-- What an access of a remote request checks at this device (R386). -/
def accChecks (a : RemAcc) : Option ChkAcc :=
  a.chk.map fun p => { tid := 0, va := 0, pa := p.2.1, n := p.2.2, wr := accStores a, chk := p.1 }
/-- Why this device refuses an access before it looks at pins: its page lies beyond the capacity, or it would read a poisoned sector (R200,
R343). -/
def State.accErr (s : State) (a : RemAcc) : Option RemErr :=
  if s.capacity ≤ a.pa || decide (s.capacity < a.pa + accSize a) then some .malformed
  else if !accStores a && accSize a != 0 && s.poisoned a.pa (accSize a) then some .poison
  else none
/-- The race that an access meets (R220, R386). -/
def State.accRace (s : State) (ctx : Nat) (a : RemAcc) : Option RemErr :=
  (accChecks a).bind fun k => (s.raceOf ctx k).map fun r => .race r.2 r.1
/-- The first access of a request that is refused, and why. -/
def firstRefusal (f : RemAcc → Option RemErr) (l : List RemAcc) : Option (Nat × RemErr) :=
  ((List.range l.length).zip l).findSome? fun p => (f p.2).map fun e => (p.1, e)
/-- An access of a remote request is performed: the bytes that answer it (R384). -/
def State.performAcc (s : State) (ctx peer : Nat) (holder : Option Nat) (a : RemAcc) : Bytes × State :=
  match a.op with
  | .read n => (s.readPhys a.pa n, s)
  | .write d => ([], s.writePhys a.pa d)
  | .atom op x y pins =>
    let r := s.performAtom a.pa op x y
    let p : Pin := { line := a.pa / 64, core := holder.getD 0, ck := { ctx := ctx, launch := 0, coh := 0 }, dev := some peer }
    (natLe 8 r.1.toNat, if pins then r.2.addPin p else r.2)
/-- What this device answers to the accesses of a remote request (R384): the first that is refused, a pinned line (R217), a race, or the
bytes; all of them are checked before any is recorded or performed (R219, R225), and a test performs none. -/
def State.applyAsk (s : State) (ctx peer tag : Nat) (holder : Option Nat) (test : Bool) (accs : List RemAcc) : DataBody × State :=
  match firstRefusal s.accErr accs with
  | some (k, e) => (.refuse tag k e, s)
  | none =>
    match (accs.flatMap fun a => linesOf a.pa (accSize a)).find? (s.refusedTo peer holder) with
    | some l => (.retry tag l, s)
    | none =>
      match firstRefusal (s.accRace ctx) accs with
      | some (k, e) => (.refuse tag k e, s)
      | none =>
        if test then (.done tag (accs.map fun _ => []), s)
        else
          let r := (accs.filterMap accChecks).foldl (fun s k => s.markAccess ctx k) s
          let d := accs.foldl (fun (acc : List Bytes × State) a =>
            let p := acc.2.performAcc ctx peer holder a
            (acc.1 ++ [p.1], p.2)) ([], r)
          (.done tag d.1, d.2)
/-- A remote request is answered; of what a core wrote back nothing waits, but where the write is refused its bytes are lost (R385). -/
def State.answerWith (s : State) (ctx peer id : Nat) (r : Resp) : State :=
  match s.reqs.find? fun q => q.id == id && q.key.ck.ctx == ctx && decide (q.vdev = some peer) with
  | none => s
  | some q =>
    let put := fun (s : State) => s.setReqs (updWhere (fun x => x.id == id) (fun x => { x with resp := some r, refusedAt := s.clock }) s.reqs)
    match r with
    | .retry _ => put s
    | .data _ => if 16384 ≤ q.key.tid then s.setReqs (s.reqs.filter fun x => x.id != id) else put s
    | .error _ e => if 16384 ≤ q.key.tid then s.lostWrite q (decide (e = .malformed)) else put s
/-- Applies a data message of a member whole. -/
def State.applyData (s : State) (c : Context) (peer : Nat) (b : DataBody) : State :=
  match b with
  | .ask tag holder test accs =>
    let r := s.applyAsk c.id peer tag holder test accs
    r.2.sendData c.id peer r.1
  | .pin tag core line ck =>
    if s.refusedTo peer (some core) line then s.sendData c.id peer (.retry tag line)
    else (s.addPin { line := line, core := core, ck := { ck with ctx := c.id }, dev := some peer }).sendData c.id peer (.done tag [])
  | .unpin core lines =>
    { s with pins := s.pins.filter fun p => !(decide (p.dev = some peer) && p.core == core && lines.contains p.line) }
  | .done tag data => s.answerWith c.id peer tag (.data data)
  | .refuse tag k e => s.answerWith c.id peer tag (.error k e)
  | .retry tag line => s.answerWith c.id peer tag (.retry line)
  | .chunk k => s.landChunk c.id peer k
/-- Whether a device in this state takes data messages: not from the clock its halt line rises until it is READY (R389, R392). -/
def Damper.takesData : Damper → Bool
  | .run | .ready | .drained | .armed => true
  | .none | .freezing | .frozen => false
/-- A message of any other accelerator is counted, and a request among them gets the error response (R381). -/
def State.rejectData (s : State) (m : DataMsg) : State :=
  let s1 := s.setMgmt { s.mgmt with foreign := s.mgmt.foreign + 1 }
  match m.body with
  | .ask _ _ _ _ | .pin _ _ _ _ | .unpin _ _ | .chunk _ => s1.send (.reject m.src m.jobid m.seq)
  | .done _ _ | .refuse _ _ _ | .retry _ _ => s1
/-- How far a data message stands behind the one that its receiver expects of the sender; the first that reaches it is expected (R389). -/
def Context.dataAhead (c : Context) (m : DataMsg) : Nat :=
  match c.pod.lastApplied.find? fun p => p.1 == m.src with
  | some p => seqAhead ((p.2 + 1) % 2 ^ 32) m.seq
  | none => 0
/-- UALINK_DATA_MESSAGE (R381, R384, R389): a message of the job is applied whole and acknowledged, or waits behind those sent before it; one
applied before is acknowledged and discarded, and while this device is halted every one is discarded. -/
def execUalinkDataMessage (s : State) : Out :=
  match s.op with
  | .data m =>
    match s.jobContext m.jobid with
    | none => .next (s.rejectData m)
    | some c =>
      let ahead := c.dataAhead m
      if !c.takesFrom m.src then .next (s.rejectData m)
      else if !c.pod.damper.takesData then .next s
      else if 2 ^ 31 ≤ ahead then .next (s.send (.ack m.src m.jobid m.seq))
      else if ahead != 0 then .next (s.laterInput .ualinkDataMessage)
      else .next (((s.applyData c m.src m.body).updPod c.id fun p =>
        { p with lastApplied := aput p.lastApplied m.src m.seq }).send (.ack m.src m.jobid m.seq))
  | _ => .next s
/-- DATA_ACKNOWLEDGE (R389): the sender frees the message. -/
def execDataAcknowledge (s : State) : Out :=
  match s.op with
  | .nat3 ctx peer seq =>
    .next ((s.updPod ctx fun p => { p with held := p.held.filter fun m => !(m.peer == peer && m.seq == seq) }).testDrained ctx |>.advanceAll ctx)
  | _ => .next s

/-! Failed members (R397). -/

/-- The notice of a failed member (R397). -/
def failNotice (ctx v ptp tag k : Nat) : Bytes :=
  natLe 2 ctx ++ natLe 1 0 ++ natLe 1 1 ++ natLe 2 v ++ natLe 2 0 ++ natLe 8 ptp ++ natLe 4 tag ++ natLe 4 k ++ natLe 40 0
/-- The chunk that holds a destination element of this member's part of a collective, by its place in the part. -/
def CopyReq.chunkAt (q : CopyReq) (c : Context) (j : Nat) : Nat :=
  match q.tmpl, q.ext with
  | some t, some x => x.chunkOf t.bytes (x.ring c).length (((x.dests c t).1 + j) * t.esz)
  | some _, none => 0
  | none, _ => 0
/-- A request goes back to the first element of a chunk that it had come to (R397). -/
def CopyReq.backTo (q : CopyReq) (c : Context) (k : Nat) : CopyReq :=
  { q with idx := ((List.range q.idx).find? fun j => decide (k ≤ q.chunkAt c j)).getD q.idx }
/-- Whether a request's ring has a member that it does not yet count as failed. -/
def CopyReq.involves (q : CopyReq) (c : Context) (v : Nat) : Bool :=
  match q.ext with
  | some x => q.open && (x.ring c).contains v && !q.failedPeers.any fun f => f.1 == v
  | none => false
/-- Whether a request is a broadcast from a member. -/
def CopyReq.rootedAt (q : CopyReq) (c : Context) (v : Nat) : Bool :=
  match q.ext with
  | some x => x.mode == 3 && decide ((x.ring c)[x.root]? = some v)
  | none => false
/-- A collective goes on without a failed member from a chunk k before which every survivor had completed all, which only all of them
together know: its chunks from k on are done again; a broadcast from the failed member fails (R397). -/
def State.dropPeer (s : State) (c : Context) (v e : Nat) (q : CopyReq) : State :=
  if q.rootedAt c v then s.copyFail e q (copyFault 14) 0
  else
    let f := s.useFree
    let k := Config.freeNat f.1 % (q.chunkAt c q.idx + 1)
    let s1 := f.2.updReq e q fun r => { r.backTo c k with failedPeers := r.failedPeers ++ [(v, k)] }
    s1.notice c (failNotice c.id v s.time.ns (lineTag q.line) k)
/-- A member is declared failed (R397): it is fenced and told so, its counts are retired, collectives go on without it, and the
control context has notice. -/
def State.failMember (s : State) (ctx v : Nat) : State :=
  match s.context? ctx with
  | none => s
  | some c =>
    let s1 := (s.ctl ctx [v] (.fence v)).setFenced ctx v
    let s2 := (s1.updContext ctx fun c =>
      { c with nodes := c.nodes.map fun n => n.retire v, batches := c.batches.filter fun b => b.vdev != v }).podEvent
    let hit := s2.engines.flatMap fun e => (e.2.queue.filter fun q => q.ck.ctx == ctx && q.involves c v).map fun q => (e.1, q)
    let s3 := hit.foldl (fun s p => s.dropPeer c v p.1 p.2) s2
    let s4 := if hit.isEmpty then
        let b := s3.freeBytes 8
        b.2.notice c (failNotice ctx v s.time.ns (leNat (b.1.take 4)) (leNat (b.1.drop 4)))
      else s3
    s4.recompute ctx
/-- Whether a member still owes this device a chunk of a request. -/
def CopyReq.owes (q : CopyReq) (c : Context) (v : Nat) : Bool :=
  match q.tmpl, q.ext with
  | some t, some x =>
    let ring := x.ring c
    (x.owed t.bytes ring.length (rankOf ring v) (rankOf ring c.self)).any fun p =>
      !c.pod.chunksIn.any fun m => m.1 == v && m.2.chloc == x.chloc && decide (m.2.time = lineTime q.line) && m.2.idx == p.1
  | some _, none => false
  | none, _ => false
/-- The members of the active collective of an engine that have delivered no chunk within TIMEOUT of the one due (R397). -/
def State.lateMembers (s : State) (e : Nat) : List (Nat × Nat) :=
  match s.current e with
  | none => []
  | some q =>
    match s.context? q.ck.ctx, q.ext with
    | some c, some x =>
      if q.status = .active then
        ((q.due.filter fun d => d.1 != c.self && decide (d.2 + x.timeout * 1800 ≤ s.clock) && q.involves c d.1 && q.owes c d.1)).map
          fun d => (c.id, d.1)
      else []
    | some _, none => []
    | none, _ => []
/-- COLLECTIVE_MEMBER_TIMEOUT (R397): a ring member that delivers no chunk within TIMEOUT is declared failed. -/
def execCollectiveMemberTimeout (s : State) : Out :=
  match s.op with
  | .nat2 e v =>
    match (s.lateMembers e).find? fun p => p.2 == v with
    | some p => .next (s.failMember p.1 v)
    | none => .next s
  | _ => .next s
/-- LINK_DOWN (R397, R400): a port goes down, and the members whose path is reported down have failed. -/
def execLinkDown (s : State) : Out :=
  match s.op with
  | .link port vs =>
    let s1 : State := { s with ports := s.ports &&& ~~~(1#18 <<< port) }
    .next ((s.contexts.filter fun c => decide (c.pod.damper ≠ .none)).foldl (fun s c =>
      (vs.filter fun v => v != c.self && c.takesFrom v).foldl (fun s v => s.failMember c.id v) s) s1)
  | _ => .next s
/-- UALINK_PORT_UP (R400): a port comes up, and messages held in the replay buffers leave again in sequence order. -/
def execUalinkPortUp (s : State) : Out :=
  match s.op with
  | .nat port =>
    if 18 ≤ port then .next s
    else
      let s1 : State := { s with ports := s.ports ||| 1#18 <<< port }
      .next ((s.contexts.filter fun c => decide (c.pod.damper = .run) || c.pod.resending).foldl (fun s c => s.resend c) s1)
  | _ => .next s

/-! Replicas (R398). -/

/-- GROUP and DIGLOC of a context. -/
def Context.group (c : Context) : Nat := (c.pod.replctl.extractLsb' 16 16).toNat
/-- DIGLOC of a context. -/
def Context.digloc (c : Context) : Nat := (c.pod.replctl.extractLsb' 0 10).toNat
/-- The members of a context's replica group: this device, and others that no register of it names. -/
def Context.replicas (c : Context) : List Nat := c.liveMembers.filter fun v => v == c.self || Config.replicaMember v c.group
/-- The values of a comparison: one for each member, a missing digest counting as distinct from all others (R398). -/
def Context.digestsOf (c : Context) (n : Nat) : List (Nat × Option Bytes) :=
  c.replicas.map fun v => (v, (c.pod.digests.find? fun d => d.s == n && d.vdev == v).map (·.hash))
/-- The value that a strict majority holds, if one does. -/
def majority (l : List (Nat × Option Bytes)) : Option Bytes :=
  (l.filterMap (·.2)).find? fun h => decide (l.length < 2 * (l.filter fun p => decide (p.2 = some h)).length)
/-- The outcome of a comparison (R398). -/
def State.compareDigests (s : State) (c : Context) (n : Nat) : State :=
  let l := c.digestsOf n
  let s1 := s.updPod c.id fun p => { p with digests := p.digests.filter fun d => d.s != n, digStart := p.digStart.filter fun d => d.1 != n }
  let halt := fun (s : State) => s.requestTrap c.id (s.deviceRec .replicaMismatch 0 n 4)
  match majority l with
  | some h =>
    let bad := (l.filter fun p => decide (p.2 ≠ some h)).map (·.1)
    if bad.isEmpty then s1
    else if l.length < 3 then halt s1
    else if bad.contains c.self then
      halt ((s1.updPod c.id fun p => { p with pflags2 := p.pflags2 ||| 1, damper := .frozen }).podEvent)
    else bad.foldl (fun s v => s.failMember c.id v) s1
  | none => if l.length ≤ 1 then s1 else halt s1
/-- Compares once every member's digest has arrived. -/
def State.testDigests (s : State) (ctx n : Nat) : State :=
  match s.context? ctx with
  | none => s
  | some c => if (c.digestsOf n).all fun p => p.2.isSome then s.compareDigests c n else s
/-- The digest of a member enters. -/
def State.addDigest (s : State) (ctx v n : Nat) (h : Bytes) : State :=
  let s1 := s.updPod ctx fun p =>
    { p with digests := p.digests ++ [{ s := n, vdev := v, hash := h }],
             digStart := if p.digStart.any fun d => d.1 == n then p.digStart else p.digStart ++ [(n, s.clock)] }
  s1.testDigests ctx n
/-- DIGEST_MESSAGE (R398): a replica digest of a member arrives. -/
def execDigestMessage (s : State) : Out :=
  match s.op with
  | .ctl m => .next (s.takeCtl .digestMessage m fun (c : Context) (s : State) => match m.body with
    | .digest n h => s.addDigest c.id m.src n h
    | .halt | .cause _ | .prep _ | .confirm | .resent | .release _ | .flue _ | .fence _ => s)
  | _ => .next s
/-- Whether the frontier of DIGLOC on virtual die 0's node has passed the next t(s) (R398). -/
def Context.digestDue (c : Context) : Bool :=
  decide (c.pod.damper = .run) && decide (c.st = .running) && c.group != 0 && decide (c.digloc < c.graph.nloc) &&
    passed ((c.node 0).f.getD c.digloc []) (frameTime c.pod.digNext) && decide (c.pod.digNext < 65536)
/-- The bytes of the regions that a context digests, read at the slices or from the devices that hold their pages (R384, R398); what a page
that cannot be read gives is not stated. -/
def State.digestBytes (s : State) (c : Context) : Got Bytes × State :=
  ((List.range 8).filter fun k => c.pod.diglen.getD k 0 != 0).foldl (fun acc k =>
    Got.andThen acc fun bs s =>
      let n := (c.pod.diglen.getD k 0).toNat
      let r := s.readSup c (c.pod.digbase.getD k 0) n
      match r.1 with
      | .ok b => (.ok (bs ++ b), r.2)
      | .trap _ => let f := r.2.freeBytes n
                   (.ok (bs ++ f.1), f.2)
      | .wait l => (.wait l, r.2)
      | .ask v pa m => (.ask v pa m, r.2)) (.ok [], s)
/-- DIGEST_COMPUTE (R398): the device hashes its regions and sends the digest to every member of its group. -/
def execDigestCompute (s : State) : Out :=
  match s.op with
  | .nat ctx =>
    match s.context? ctx with
    | none => .next s
    | some c =>
      if !c.digestDue then .next s
      else
        let r := s.digestBytes c
        match r.1 with
        | .ok b =>
          let h := sha256 b
          let n := c.pod.digNext
          let s1 := (r.2.deviceDone c).updPod ctx fun p => { p with digNext := n + 1 }
          .next ((s1.ctl ctx (c.replicas.filter fun v => v != c.self) (.digest n h)).addDigest ctx c.self n h)
        | .trap _ => .next r.2
        | .wait _ | .ask _ _ _ => .next (r.2.deviceAwait c r.1)
  | _ => .next s
/-- The comparison whose digests are overdue (R398). -/
def State.digestLate (s : State) (c : Context) : Option Nat :=
  (c.pod.digStart.find? fun d => decide (d.2 + c.digto ≤ s.clock)).map (·.1)
/-- DIGEST_TIMEOUT (R398): after DIGTO a missing digest counts as a distinct value. -/
def execDigestTimeout (s : State) : Out :=
  match s.op with
  | .nat ctx =>
    match s.context? ctx with
    | none => .next s
    | some c =>
      match s.digestLate c with
      | some n => .next (s.compareDigests c n)
      | none => .next s
  | _ => .next s

end Sys2Proof.Machine
end

