-- ==== Sys2Proof/Machine/Device.lean ====
section
/-! DEFINITION. The device as a whole: the time port (R399), freeze and the test access port (R369, R400), power (R411), boot
(R412) and attestation (R413). -/

namespace Sys2Proof.Machine

/-! The time port (R399). -/

/-- A second in nanoseconds. -/
def second : Nat := 1000000000
/-- Seconds in clocks of 1.8 GHz (R2). -/
def secondClocks (n : Nat) : Nat := n * 1800000000
/-- Replaces the time port. -/
def State.setTime (s : State) (t : TimePort) : State := { s with time := t }
/-- EN of PTPCTL. -/
def TimePort.on (t : TimePort) : Bool := t.ctl.getLsbD 31
/-- A signed offset, saturated to 24 bits. -/
def satOffset (x : Int) : BitVec 24 := BitVec.ofInt 24 (max (-8388608) (min 8388607 x))
/-- PTP_SYNC (R399): a received Sync updates the offset, and LOCKED by it. -/
def execPtpSync (s : State) : Out :=
  match s.op with
  | .int x =>
    let t := s.time
    if !t.on then .next s
    else
      let good := if x.natAbs ≤ 100 then t.good + 1 else 0
      let locked := if 1000 < x.natAbs then false else t.locked || decide (16 ≤ good)
      .next (s.setTime { t with offset := satOffset x, good := good, locked := locked, lastSync := s.clock })
  | _ => .next s
/-- Whether no Sync has come for four seconds. -/
def State.syncLost (s : State) : Bool := s.time.locked && decide (s.time.lastSync + secondClocks 4 ≤ s.clock)
/-- PTP_SYNC_TIMEOUT (R399): no Sync for four seconds clears LOCKED. -/
def execPtpSyncTimeout (s : State) : Out :=
  if s.syncLost then .next (s.setTime { s.time with locked := false, good := 0 }) else .next s
/-- PPS_INPUT (R399): an edge is seen; with PPSREF it marks the nearest second boundary, to which a clock behind it goes on, while one
ahead of it is not set back (R98; log entry 65). -/
def execPpsInput (s : State) : Out :=
  let t := s.time
  let ns := if t.on && t.ctl.getLsbD 27 then max t.ns ((t.ns + second / 2) / second * second) else t.ns
  .next (s.setTime { t with pps := true, lastPps := s.clock, ns := ns })
/-- Whether two seconds have passed without an edge. -/
def State.ppsLost (s : State) : Bool := s.time.pps && decide (s.time.lastPps + secondClocks 2 ≤ s.clock)
/-- PPS_INPUT_LOSS (R399): PPSSEEN clears. -/
def execPpsInputLoss (s : State) : Out := if s.ppsLost then .next (s.setTime { s.time with pps := false }) else .next s
/-- Whether %ptptime has come to a whole second since the output last rose. -/
def State.ppsDue (s : State) : Bool := decide (s.time.outSecond < s.time.ns / second)
/-- PPS_OUTPUT (R399): the output rises at each whole second of %ptptime. -/
def execPpsOutput (s : State) : Out :=
  if s.ppsDue then .next ((s.setTime { s.time with outSecond := s.time.ns / second }).send .pps) else .next s

/-! Freeze and the test access port (R369, R400). -/

/-- FREEZE_ASSERT (R369, R400): every clock stops; the ports of the device stop with them. -/
def execFreezeAssert (s : State) : Out := .next { s with frozen := true, ports := 0 }
/-- FREEZE_RELEASE (R369, R400): the clocks go on in the same state, %ptptime stepped by the frozen interval; the ports retrain, and PTP
locks again. -/
def execFreezeRelease (s : State) : Out :=
  match s.op with
  | .nat n =>
    if s.frozen then
      .next (({ s with frozen := false } : State).setTime { s.time with ns := s.time.ns + n, locked := false, good := 0 })
    else .next s
  | _ => .next s
/-- An instruction of the test access port: its code, and what it shifts out. -/
def State.tap (s : State) (code : BitVec 8) : State := { s with tapIr := code }
/-- EXTEST (R369). -/
def execExtest (s : State) : Out := .next (s.tap 0x00)
/-- IDCODE (R369): the identification of the device. -/
def execIdcode (s : State) : Out := .next ((s.tap 0x01).send (.tdo 0x1B4CA4B7))
/-- SAMPLE/PRELOAD (R369). -/
def execSamplePreload (s : State) : Out := .next (s.tap 0x02)
/-- BYPASS (R369): selected by its own code and by every other code that names no instruction. -/
def execBypass (s : State) : Out :=
  match s.op with
  | .nat code => if [0x00, 0x01, 0x02, 0x20].contains (code % 256) then .next s else .next (s.tap (BitVec.ofNat 8 code))
  | _ => .next s
/-- The words of results under way. -/
def Dest.words : Dest → List W32
  | .g _ _ v => [v]
  | .w _ _ v => samples v
  | .q _ _ _ _ v => [v]
/-- The words of the frozen state: the code of a boot (R412), and core by core the registers and tiles of the cohorts on a core, its cache,
and what the networks carry; a register or an element that no list names holds zero (R369). -/
def State.scanWords (s : State) : List W32 :=
  0 :: s.mgmt.bootstat.zeroExtend 32 :: (s.cores.flatMap fun c =>
    ((s.cohortsOn c.1).flatMap fun h =>
      ((s.threads.filter fun t => decide (t.key.ck = h.key)).flatMap fun t => t.regs.map (·.2) ++ t.wregs.flatMap fun p => samples p.2) ++
        h.tiles.flatMap fun x => x.elems.map (·.2)) ++
    c.2.l1.flatMap fun l => wordsOf l.data) ++ (s.reqs.map fun q => w32 q.pa) ++ s.rets.flatMap fun r => r.dests.flatMap Dest.words
/-- SCANOUT (R369): shifts out the next 32 bits of the frozen state, without disturbing it; zeros unless the board-debug fuse is set. Which
word of the state they are, in an order that the manual does not state, is free, and so is what the chain gives while no freeze holds
(log entry 64). -/
def execScanout (s : State) : Out :=
  let s1 := s.tap 0x20
  if s.fuses.debug then
    let f := s1.useFree
    let l := s.scanWords
    .next (f.2.send (.tdo (if s.frozen then l.getD (Config.freeNat f.1 % l.length) 0 else lo32 (Config.freeWord f.1))))
  else .next (s1.send (.tdo 0))

/-! Power (R411). -/

/-- POWER_THROTTLE (R411): issue is withheld, and THR is set. -/
def execPowerThrottle (s : State) : Out := .next (s.setMgmt { s.mgmt with thr := true })
/-- THROTTLE_CAUSE_CLEARS (R411). -/
def execThrottleCauseClears (s : State) : Out := .next (s.setMgmt { s.mgmt with thr := false })
/-- The device resets: everything is as after reset but for the fuses, the flash, what memory holds, TRIP, and what the outside world has
sent or been sent. -/
def State.restart (s : State) (trip : Bool) : State :=
  { State.reset with fuses := s.fuses, flash := s.flash, mem := s.mem, inputs := s.inputs, outputs := s.outputs,
                     mgmt := { Mgmt.fresh with trip := trip }, nextId := s.nextId, free := s.free }
/-- THERMAL_TRIP (R411): at 115 °C the device asserts reset and latches TRIP. -/
def execThermalTrip (s : State) : Out :=
  match s.op with
  | .nat _ => .next (s.restart true)
  | _ => .next s

/-! Boot (R412). -/

/-- Bytes of the boot flash. -/
def State.readFlash (s : State) (off n : Nat) : Bytes := (List.range n).map fun k => sget 0 s.flash (off + k)
/-- The image of a slot, if the boot ROM accepts it: MAGIC, a payload that fits the slot, the key's digest, the signature, VERSION. -/
def State.image (s : State) (slot : Nat) : Option Bytes :=
  let h := s.readFlash slot 784
  let size := leAt h 8 8
  if h.take 4 ≠ [0x46, 0x4C, 0x46, 0x57] ∨ 2 ^ 23 < 784 + size then none
  else
    let payload := s.readFlash (slot + 784) size
    let key := (h.drop 16).take 384
    if decide (sha256 key = s.fuses.keyDigest) && rsaPssOk key ((h.drop 400).take 384) (h.take 16 ++ payload) &&
        decide (s.fuses.floor ≤ leAt h 4 4) then some (h ++ payload) else none
/-- The boot ROM accepts an image, or goes on to another step. -/
def State.bootTo (s : State) (code : BitVec 4) : Option Bytes → State
  | some b => s.setMgmt { s.mgmt with bootstat := 4, imgVersion := leAt b 4 4, imgHash := sha256 b }
  | none => s.setMgmt { s.mgmt with bootstat := code }
/-- BOOT (R412): the boot ROM takes its next step, which BOOTSTAT reports: the fuses, slot A, slot B unless the image of slot A is accepted,
HBM4E, UALink and PCIe, and READY; without an image it trains PCIe alone, which is BOOTFAIL (log entry 62). -/
def execBoot (s : State) : Out :=
  .next (match s.mgmt.bootstat.toNat with
    | 0 | 1 | 4 | 5 | 6 => s.bootTo (s.mgmt.bootstat + 1) none
    | 2 => s.bootTo 3 (s.image 0)
    | 3 => s.bootTo 7 (s.image (2 ^ 23))
    | 7 => s.bootTo (if s.mgmt.imgHash.isEmpty then 0xE else 0xF) none
    | _ => s)

/-! Attestation (R413). -/

/-- ATTGO (R413): a write of 1 starts a report. -/
def execAttgo (s : State) : Out :=
  match s.op with
  | .word v => if v.getLsbD 0 then .next (s.setMgmt { s.mgmt with attgo := true }) else .next s
  | _ => .next s
/-- The report (R413): serial, VERSION and hash of the image, the hash of every context's initial code object with its CTXID, the fuse
digest, the nonce, and a signature. What the code object and the fuses' digest take in is not stated. -/
def State.report (s : State) : Bytes × State :=
  let cs := ((sortNat (s.contexts.map (·.id))).take 64).foldl (fun (acc : Bytes × State) id =>
    let h := acc.2.freeBytes 32
    (acc.1 ++ natLe 2 id ++ h.1, h.2)) ([], s)
  let fd := cs.2.freeBytes 32
  let body := s.fuses.serial ++ natLe 4 s.mgmt.imgVersion ++ s.mgmt.imgHash ++ cs.1 ++ fd.1 ++ s.mgmt.attnonce
  (((body ++ Config.identitySign body) ++ List.replicate 4096 0).take 4096, fd.2)
/-- ATTESTATION_COMPLETE (R413): the report lands in ATTBUF, and ATTGO reads 0. -/
def execAttestationComplete (s : State) : Out :=
  if s.mgmt.attgo then
    let r := s.report
    .next (r.2.setMgmt { r.2.mgmt with attgo := false, attbuf := r.1 })
  else .next s

end Sys2Proof.Machine
end

