-- ==== Sys2Proof/Machine/Texture.lean ====
section
/-! DEFINITION. The spectral texture unit: TEX, TEXW and TEXL, major 0x34 (R190 to R193, R242, R243), and the entries of the
descriptor table it and the ray-test unit read (R268 to R270). -/

namespace Sys2Proof.Machine

/-! Descriptor-table entries (R268 to R270). -/

/-- PROTECTION of a handle, an entry or an address of a fetch, with the rank of address PROTECTION (R243). -/
def Trap.handle : Trap := { rank := 4, cause := .protection }
/-- Reads the entry of a handle: the checks of R269, in their order. -/
def State.dtEntry (s : State) (i : Iss) (c : Context) (key : ThKey) (h kindMin kindMax : Nat) : RV × State :=
  if c.desc.dtcount ≤ h then (.trap .handle, s)
  else Got.andThen (s.roRead i c .device key (c.desc.dtbase.toNat + 64 * h) 64) fun e s =>
    if leAt e 2 2 != c.id || leAt e 0 1 < kindMin || kindMax < leAt e 0 1 then (.trap .handle, s) else (.ok e, s)
/-- A texture entry (R270). -/
structure Tex where
  kind : Nat
  par : FPar
  bytes : Nat
  nch : Nat
  linear : Bool
  sizes : List Nat
  modes : List Nat
  base : Nat
  texel : Nat
  pitchY : Nat
  pitchZ : Nat
  wlist : Nat
  deriving DecidableEq, Repr
/-- The texel format of a code and its bytes (R270). -/
def texFmt (c : Nat) : Option (FPar × Nat) :=
  match c with
  | 1 => some (parF32, 4)
  | 3 => some (parBF16, 2)
  | 4 => some (parF16, 2)
  | _ => none
/-- Whether a channel count and a texel format suit a kind (R270). -/
def texKindOk (kind tfmt nch : Nat) : Bool :=
  match kind with
  | 2 => decide (1 ≤ nch) && decide (nch ≤ 4)
  | 3 => decide (2 ≤ nch) && decide (nch ≤ 64)
  | 4 => nch == 3 && tfmt == 1
  | 5 => nch == 8 && tfmt == 3
  | _ => false
/-- Decodes a texture entry; none raises PROTECTION (R268, R270). -/
def texEntry (e : Bytes) : Option Tex :=
  match texFmt (leAt e 4 1) with
  | none => none
  | some (par, fb) =>
    let kind := leAt e 0 1
    let mode := leAt e 5 1
    let addr := leAt e 6 1
    let nch := leAt e 7 1
    let ndim := if kind == 4 then 3 else mode % 4
    let sizes := (List.range ndim).map fun k => leAt e (8 + 2 * k) 2
    let modes := (List.range ndim).map fun k => addr / 4 ^ k % 4
    let texel := if kind == 4 then 16 else nch * fb
    let base := leAt e 16 8
    let py := leAt e 24 4
    let pz := leAt e 28 4
    let wl := leAt e 32 8
    if !texKindOk kind (leAt e 4 1) nch || mode % 4 == 0 || 8 ≤ mode || 64 ≤ addr || modes.contains 3 || sizes.contains 0 ||
        (kind == 4 && sizes.any fun n => n < 2 || 64 < n || n != sizes.headD 0) || leAt e 14 2 != 0 || leAt e 40 24 != 0 ||
        base % texel != 0 || (2 ≤ ndim && py % texel != 0) || (ndim == 3 && pz % texel != 0) ||
        (if kind == 3 then wl % 4 != 0 else wl != 0) || leAt e 1 1 != 0 then none
    else
      some { kind := kind, par := par, bytes := fb, nch := nch, linear := kind == 4 || mode / 4 % 2 == 1, sizes := sizes,
             modes := if kind == 4 then [1, 1, 1] else modes, base := base, texel := texel, pitchY := py, pitchZ := pz,
             wlist := wl }

/-! Filtering (R190). -/

/-- Reduces a texel index by the axis's addressing mode (R190). -/
def wrapIndex (mode n : Nat) (i : Int) : Nat :=
  match mode with
  | 0 => (i % n).toNat
  | 1 => (max 0 (min i (n - 1))).toNat
  | _ =>
    let m := (i % (2 * n : Nat)).toNat
    if m < n then m else 2 * n - 1 - m
/-- The texels of one axis and their weights in units of 2^-16 (R190); a NaN or infinite coordinate counts as 0, and
weights of zero are omitted. -/
def axisTaps (linear : Bool) (mode n : Nat) (u : W32) : List (Nat × Nat) :=
  let p : Int × Nat := match opnd parF32 u with
    | .fin s m e => ((if s then -1 else 1) * (m * 2 ^ e.toNat : Nat), (-e).toNat)
    | .nan _ => (0, 0)
    | .inf _ => (0, 0)
  let den : Int := (2 ^ p.2 : Nat)
  if linear then
    let x := 2 * p.1 * n - den
    let i0 := x / (2 * den)
    let f := x % (2 * den) * 65536
    let q := f / (2 * den)
    let r := 2 * (f % (2 * den))
    let w := (if r > 2 * den ∨ (r = 2 * den ∧ q % 2 = 1) then q + 1 else q).toNat
    [(wrapIndex mode n i0, 65536 - w), (wrapIndex mode n (i0 + 1), w)].filter fun t => t.2 != 0
  else [(wrapIndex mode n (p.1 * n / den), 65536)]
/-- The selected texels: address, and weight in units of 2^-48 (R190, R270). -/
def Tex.taps (t : Tex) (us : List W32) : List (Nat × Nat) :=
  let ax := fun k => match t.sizes[k]? with
    | some n => axisTaps t.linear (t.modes.getD k 0) n (us.getD k 0)
    | none => [(0, 65536)]
  (ax 0).flatMap fun x => (ax 1).flatMap fun y => (ax 2).map fun z =>
    (t.base + x.1 * t.texel + y.1 * t.pitchY + z.1 * t.pitchZ, x.2 * y.2 * z.2)
/-- The weighted sum of terms, rounded once into a format (R190). -/
def texSum (f : FPar) (terms : List (FV × FV)) : Nat :=
  (sumRound f .rne ((terms.filter fun t => !t.1.isZero).map fun t => mulFV t.1 t.2)).2
/-- Element j of a texel's bytes. -/
def Tex.elem (t : Tex) (b : Bytes) (j : Nat) : FV := decodeF t.par (leAt b (t.bytes * j) t.bytes)
/-- A channel of a fetch: texels as (weight, bytes), rounded into a format. -/
def Tex.channel (t : Tex) (f : FPar) (texels : List (Nat × Bytes)) (j : Nat) : Nat :=
  texSum f (texels.map fun p => (.fin false p.1 (-48), t.elem p.2 j))

/-! Wavelengths (R191, R192). -/

/-- The quotient of two positive exact values, rounded to FP32. -/
def quotRound (mode : RMode) (s : Bool) (num den : Nat) (e : Int) : Fl × Nat :=
  if num == 0 then (0, parF32.pattern s 0)
  else
    let k := Nat.log2 den + 40 - Nat.log2 num
    roundFloat parF32 mode false s (num * 2 ^ k / den) (e - k) (num * 2 ^ k % den != 0)
/-- fλ of R191 for finite values lo ≤ x < hi. -/
def wlFraction (x lo hi : FV) : FV :=
  let d := exactSum (finTerms [hi, lo.neg, .fin false 0 (-200)])
  let n := exactSum (finTerms [x, lo.neg, .fin false 0 (-200)])
  decodeF parF32 (quotRound .rne false n.1.toNat d.1.toNat 0).2
/-- One minus an FP32 value between 0 and 1, exactly. -/
def oneMinus (f : FV) : FV :=
  let r := exactSum (finTerms [.fin false 1 0, f.neg])
  .fin false r.1.toNat r.2
/-- The wavelength terms of a sample: list index and weight (R191). -/
def wlTerms (l : List FV) (x : FV) : List (Nat × FV) :=
  let le := fun (a b : FV) => cmpFV a b != .gt
  let one := FV.fin false 1 0
  let last := l.length - 1
  if le x (l.getD 0 one) then [(0, one)]
  else if le (l.getD last one) x then [(last, one)]
  else
    let i := (((List.range l.length).filter fun k => le (l.getD k one) x).getLast?).getD 0
    let lo := l.getD i one
    let hi := l.getD (i + 1) one
    if le hi lo then [(i, one)]
    else if hi.isInf then [(i, one)]
    else if lo.isInf then [(i + 1, one)]
    else
      let f := wlFraction x lo hi
      [(i, oneMinus f), (i + 1, f)]
/-- A sample of a spectral table (R191). -/
def Tex.spectral (t : Tex) (l : List FV) (texels : List (Nat × Bytes)) (lam : W32) : Nat :=
  let x := opnd parF32 lam
  if x.isNaN then parF32.nanBits
  else
    let terms := wlTerms l x
    texSum parF32 (texels.flatMap fun p => terms.filterMap fun q =>
      (mulFV (.fin false p.1 (-48)) q.2).map fun w => (w, t.elem p.2 q.1))
/-- The wavelength list: a NaN entry counts as +Inf (R191). -/
def wlList (b : Bytes) (n : Nat) : List FV :=
  (List.range n).map fun k => match decodeF parF32 (leAt b (4 * k) 4) with
    | .nan _ => .inf false
    | .inf s => .inf s
    | .fin s m e => .fin s m e
/-- ½ + x ÷ (2·√(1 + x²)) for x = n ÷ 2^k, rounded to FP32 (R192). -/
def sigmoidRound (n : Int) (k : Nat) : Nat :=
  if n = 0 then (roundFloat parF32 .rne false false 1 (-1)).2
  else (ziv .rne (fun p =>
    let w := p + 40
    let d := 4 ^ k + n.natAbs * n.natAbs
    let h := isqrt (d * 4 ^ w)
    let t : Int := (4 ^ k * 2 ^ (3 * w) / (2 * h * (h + n.natAbs * 2 ^ w)) : Nat)
    let v : Int := if n < 0 then t else (2 ^ w : Nat) - t
    (v / (2 ^ 40 : Nat), -(p : Int))) precisions).2
/-- A sample of an upsampling table from its coefficients (R192). -/
def upsample (c : List Nat) (lam : W32) : W32 :=
  let v := fun k => decodeF parF32 (c.getD k 0)
  let x := opnd parF32 lam
  if x.isNaN || (v 0).isNaN || (v 1).isNaN || (v 2).isNaN then w32 parF32.nanBits
  else
    let sq := (mulFV (v 0) x).bind fun y => mulFV y x
    let ts := [sq, mulFV (v 1) x, some (v 2)]
    let vs := ts.filterMap id
    let pos := vs.any fun y => y.isInf && !y.sign
    let neg := vs.any fun y => y.isInf && y.sign
    if ts.any Option.isNone || (pos && neg) then
      Config.upsampleCorner (w32 (c.getD 0 0)) (w32 (c.getD 1 0)) (w32 (c.getD 2 0)) lam
    else if pos then 0x3F800000#32
    else if neg then 0
    else
      let r := exactSum (finTerms vs)
      w32 (sigmoidRound (r.1 * (2 ^ r.2.toNat : Nat)) (-r.2).toNat)

/-! Fetches (R242, R243). -/

/-- Fetches the selected texels, every address checked before any is read (R243): weights and bytes. -/
def State.texels (s : State) (i : Iss) (c : Context) (t : Thread) (x : Tex) (taps : List (Nat × Nat)) :
    Got (List (Nat × Bytes)) × State :=
  match taps.find? fun p => outOfReach c p.1 x.texel with
  | some p => (.trap (.addrProt (w64 p.1) false), s)
  | none => taps.foldl (fun acc p =>
      Got.andThen acc fun l s =>
        Got.andThen (s.threadRead i c t p.1 x.texel) fun b s => (.ok (l ++ [(p.2, b)]), s)) (.ok [], s)
/-- The entry of a texture handle, of a kind in a range, with its body checked (R243, R270). -/
def State.texDesc (s : State) (i : Iss) (c : Context) (t : Thread) (h : W32) (k0 k1 : Nat) : Got Tex × State :=
  Got.andThen (s.dtEntry i c t.key (h.toNat % 65536) k0 k1) fun e s =>
    match texEntry e with
    | some x => (.ok x, s)
    | none => (.trap .handle, s)
/-- A texture instruction: each member's entry, its texels, and the result, which lands later. -/
def State.texture (s : State) (fs : List Fld) (k0 k1 : Nat)
    (fetch : Iss → Context → Thread → Reads → Tex → State → Got Eff × State) : Out :=
  s.operands .compute fs fun i ms =>
    match s.context? i.ck.ctx with
    | none => .next s
    | some c =>
      s.eachFetch i ms (fun i t r s =>
        Got.andThen (s.texDesc i c t (r.x 1) k0 k1) fun x s => fetch i c t r x s) fun l s1 =>
        .next (s1.finish i fs false l)
/-- The coordinate operands of a member: slots a + 1 to a + 3 (R242). -/
def texCoords (r : Reads) : List W32 := (r.l 1).drop 1
/-- TEX (R190, R242). -/
def execTex (d a : Slot) (s : State) : Out :=
  s.texture [.dgs d 4, .gs a 4] 2 2 fun i c t r x s =>
    Got.andThen (s.texels i c t x (x.taps (texCoords r))) fun l s =>
      (.ok { g := putWords d ((List.range 4).map fun k => if k < x.nch then w32 (x.channel parF32 l k) else 0),
             late := some .texture }, s)
/-- TEXW (R191, R192, R242). -/
def execTexw (d a b : Slot) (s : State) : Out :=
  s.texture [.dw d, .gs a 4, .w b] 3 4 fun i c t r x s =>
    let lams := samples (r.pk 2)
    let put := fun (ws : List W32) => ({ w := [(d.toNat, packetOf ws)], late := some .texture } : Eff)
    if x.kind == 3 then
      let taps := x.taps (texCoords r)
      if outOfReach c x.wlist (4 * x.nch) then (.trap (.addrProt (w64 x.wlist) false), s)
      else if taps.any fun p => outOfReach c p.1 x.texel then Got.andThen (s.texels i c t x taps) fun _ s => (.ok {}, s)
      else Got.andThen (s.threadRead i c t x.wlist (4 * x.nch)) fun wl s =>
        Got.andThen (s.texels i c t x taps) fun l s =>
          (.ok (put (lams.map fun lam => w32 (x.spectral (wlList wl x.nch) l lam))), s)
    else Got.andThen (s.texels i c t x (x.taps (texCoords r))) fun l s =>
      (.ok (put (lams.map fun lam => upsample ((List.range 3).map fun k => x.channel parF32 l k) lam)), s)
/-- TEXL (R193, R242). -/
def execTexl (d a : Slot) (s : State) : Out :=
  s.texture [.dgs d 4, .gs a 4] 5 5 fun i c t r x s =>
    Got.andThen (s.texels i c t x (x.taps (texCoords r))) fun l s =>
      (.ok { g := putWords d ((List.range 4).map fun j =>
               w32 (x.channel parBF16 l (2 * j + 1) * 65536 + x.channel parBF16 l (2 * j))),
             late := some .texture }, s)
/-- TEXTURE_RESULT (R242): the texture unit writes its filtered result. -/
def execTextureResult (s : State) : Out := s.resultStep .texture

end Sys2Proof.Machine
end

