-- ==== Sys2Proof/Machine/Ray.lean ====
section
/-! DEFINITION. The ray-test unit: BOXT, TRIT and XFRM, major 0x35 (R194 to R196, R243 to R249). -/

namespace Sys2Proof.Machine

/-- The body of a BVH entry (R270). -/
structure Bvh where
  node : Nat
  nnodes : Nat
  ntris : Nat
  tri : Nat
  inst : Nat
  ninst : Nat
  deriving DecidableEq, Repr
/-- Decodes a BVH entry; none raises PROTECTION (R268, R270). -/
def bvhEntry (e : Bytes) : Option Bvh :=
  let b : Bvh := { node := leAt e 8 8, nnodes := leAt e 16 4, ntris := leAt e 20 4, tri := leAt e 24 8, inst := leAt e 32 8,
                   ninst := leAt e 40 4 }
  if leAt e 1 1 != 0 || leAt e 4 4 != 0 || leAt e 44 20 != 0 || b.node % 128 != 0 || b.tri % 48 != 0 || b.inst % 64 != 0 then none else some b
/-- The FP32 values of consecutive words of a byte string. -/
def f32s (b : Bytes) (off n : Nat) : List FV := (List.range n).map fun k => decodeF parF32 (leAt b (off + 4 * k) 4)
/-- Whether a value is a NaN or an infinity. -/
def FV.special (v : FV) : Bool := v.isNaN || v.isInf
/-- A finite FP32 value in units of 2^-149, exactly. -/
def FV.units : FV → Int
  | .fin s m e => (if s then -1 else 1) * (m * 2 ^ (e + 149).toNat : Nat)
  | .nan _ => 0
  | .inf _ => 0
/-- The quotient of two exact integers, the divisor not zero, rounded to FP32; a zero quotient is +0 (R245, R247). -/
def ratio (mode : RMode) (n d : Int) : Nat :=
  if n = 0 then 0 else (quotRound mode (decide (n < 0) != decide (d < 0)) n.natAbs d.natAbs 0).2

/-! BOXT (R244 to R246). -/

/-- A quotient (bound − origin) ÷ direction on one axis, as an exact pair or an infinity (R245). -/
inductive Quot' | inf (s : Bool) | rat (n d : Int) deriving DecidableEq, Repr
/-- The quotient of R245 for a finite direction that is not zero. -/
def slabQuot (bound o d : FV) : Quot' :=
  match bound with
  | .inf s => .inf (s != d.sign)
  | .nan _ => .rat (bound.units - o.units) d.units
  | .fin _ _ _ => .rat (bound.units - o.units) d.units
/-- Whether one quotient is below another; both have the same divisor. -/
def Quot'.lt : Quot' → Quot' → Bool
  | .inf s, .inf t => s && !t
  | .inf s, .rat _ _ => s
  | .rat _ _, .inf t => !t
  | .rat n d, .rat m _ => if 0 < d then decide (n < m) else decide (m < n)
/-- A quotient rounded to FP32 (R245). -/
def Quot'.round (mode : RMode) : Quot' → Nat
  | .inf s => parF32.infBits s
  | .rat n d => ratio mode n d
/-- SlabTest (R245): the near distance of a hit, as bits. The ray is origin, direction, tmin, tmax; the box min, max. -/
def slabTest (box ray : List W32) : Option W32 :=
  let r := fun k => opnd parF32 (ray.getD k 0)
  let b := fun k => opnd parF32 (box.getD k 0)
  if ((List.range 8).any fun k => (r k).special) || ((List.range 6).any fun k => (b k).isNaN) ||
      ((List.range 3).any fun k => cmpFV (b k) (b (k + 3)) = .gt) || cmpFV (r 6) (r 7) = .gt then none
  else
    let step := fun (acc : Option (W32 × W32)) k => acc.bind fun t =>
      if (r (3 + k)).isZero then
        if cmpFV (r k) (b k) = .lt || cmpFV (r k) (b (k + 3)) = .gt then none else some t
      else
        let p := slabQuot (b k) (r k) (r (3 + k))
        let q := slabQuot (b (k + 3)) (r k) (r (3 + k))
        let near := w32 ((if q.lt p then q else p).round .rdn)
        let far := w32 ((if q.lt p then p else q).round .rup)
        some (if cmpFV (opnd parF32 near) (opnd parF32 t.1) = .gt then near else t.1,
              if cmpFV (opnd parF32 far) (opnd parF32 t.2) = .lt then far else t.2)
    match (List.range 3).foldl step (some (ray.getD 6 0, ray.getD 7 0)) with
    | none => none
    | some t => if cmpFV (opnd parF32 t.1) (opnd parF32 t.2) = .gt then none else some t.1
/-- The check of a child word against the descriptor (R195). -/
def childOk (b : Bvh) (child count : Nat) : Bool :=
  let idx := child % 2 ^ 30
  match child / 2 ^ 30 with
  | 1 => decide (idx < b.nnodes)
  | 2 => decide (1 ≤ count) && decide (idx + count ≤ b.ntris)
  | _ => decide (idx < b.ninst)
/-- +Inf, the distance of positions without a hit. -/
def posInf : W32 := 0x7F800000#32
/-- An empty result with a status bit (R244, R246). -/
def emptyBox (bit : Nat) : List W32 := [w32 (2 ^ bit), posInf, posInf, posInf, posInf, 0, 0, 0]
/-- The eight result words of a tested node (R244, R246). -/
def boxResult (b : Bvh) (node : Bytes) (ray : List W32) : List W32 :=
  let kids := (List.range 4).filter fun c => leAt node (96 + 4 * c) 4 / 2 ^ 30 != 0
  let good := kids.filter fun c => childOk b (leAt node (96 + 4 * c) 4) (leAt node (112 + c) 1)
  let inv := kids.filter fun c => !good.contains c
  let hits := good.filterMap fun c => (slabTest (wordsOf ((node.drop (24 * c)).take 24)) ray).map fun t => (c, t)
  let sorted := sortBy (fun x y => cmpFV (opnd parF32 x.2) (opnd parF32 y.2) = .lt) hits
  let bits := fun (l : List Nat) => (l.map (2 ^ ·)).sum
  let order := ((List.range sorted.length).map fun p => (sorted.map (·.1)).getD p 0 * 4 ^ p).sum
  let status := order * 2 ^ 16 + sorted.length * 2 ^ 9 + bits inv * 2 ^ 4 + bits (hits.map (·.1))
  [w32 status] ++ (List.range 4).map (fun p => (sorted.map (·.2)).getD p posInf) ++ [w32 (leAt node 112 4), 0, 0]
/-- A ray test: the BVH entry of each member, then its own fetch; the result lands later. -/
def State.rayTest (s : State) (d a b : Slot) (n : Nat)
    (fetch : Iss → Context → Thread → Reads → Bvh → State → Got Eff × State) : Out :=
  let fs := [Fld.dgs d n, .gs a 8, .gs b 2]
  s.operands .compute fs fun i ms =>
    match s.context? i.ck.ctx with
    | none => .next s
    | some c =>
      s.eachFetch i ms (fun i t r s =>
        Got.andThen (s.dtEntry i c t.key ((r.p 2).toNat % 65536) 6 6) fun e s =>
          match bvhEntry e with
          | some v => fetch i c t r v s
          | none => (.trap .handle, s)) fun l s1 => .next (s1.finish i fs false l)
/-- The index operand g[b + 1] of a ray test. -/
def rayIndex (r : Reads) : Nat := (hi32 (r.p 2)).toNat
/-- The result of a ray test, which lands later. -/
def Eff.ray (d : Slot) (ws : List W32) : Eff := { g := putWords d ws, late := some .ray }
/-- BOXT (R244 to R246): the budget, then the node. -/
def execBoxt (d a b : Slot) (s : State) : Out :=
  s.rayTest d a b 8 fun i c t r v s =>
    if t.visit = 0 then
      if t.etb then (.trap { rank := 7, cause := .traversalBudget }, s) else (.ok (.ray d (emptyBox 8)), s)
    else
      let spend := fun (e : Eff) => { e with th := fun t => { t with visit := t.visit - 1 } }
      if v.nnodes ≤ rayIndex r then (.ok (spend (.ray d (emptyBox 12))), s)
      else Got.andThen (s.threadRead i c t (v.node + 128 * rayIndex r) 128) fun node s =>
        (.ok (spend (.ray d (boxResult v node (r.l 1)))), s)

/-! TRIT (R247). -/

/-- The cross product. -/
def cross3 (x y : Int × Int × Int) : Int × Int × Int :=
  (x.2.1 * y.2.2 - x.2.2 * y.2.1, x.2.2 * y.1 - x.1 * y.2.2, x.1 * y.2.1 - x.2.1 * y.1)
/-- The dot product. -/
def dot3 (x y : Int × Int × Int) : Int := x.1 * y.1 + x.2.1 * y.2.1 + x.2.2 * y.2.2
/-- The difference of vectors. -/
def sub3 (x y : Int × Int × Int) : Int × Int × Int := (x.1 - y.1, x.2.1 - y.2.1, x.2.2 - y.2.2)
/-- A miss (R247). -/
def triMiss : List W32 := [posInf, 0, 0, 0]
/-- The four result words of a triangle test (R247); every quantity is an exact integer in units of 2^-149. -/
def triTest (rec : Bytes) (ray : List W32) : List W32 :=
  let r := ray.map (opnd parF32)
  let v := f32s rec 0 9
  let z := FV.fin false 0 0
  if r.any FV.special || v.any FV.special || cmpFV (r.getD 6 z) (r.getD 7 z) = .gt then triMiss
  else
    let vec := fun (l : List FV) k => ((l.getD k z).units, (l.getD (k + 1) z).units, (l.getD (k + 2) z).units)
    let o := vec r 0
    let dir := vec r 3
    let a := sub3 (vec v 0) o
    let b := sub3 (vec v 3) o
    let c := sub3 (vec v 6) o
    let uu := dot3 dir (cross3 c b)
    let vv := dot3 dir (cross3 a c)
    let ww := dot3 dir (cross3 b a)
    let det := uu + vv + ww
    let n := cross3 (sub3 b a) (sub3 c a)
    let tn := dot3 a n
    let td := dot3 dir n
    let inside := (decide (0 ≤ uu) && decide (0 ≤ vv) && decide (0 ≤ ww)) ||
                  (decide (uu ≤ 0) && decide (vv ≤ 0) && decide (ww ≤ 0))
    -- t against a bound in units of 2^-149, with the sign of the divisor
    let below := fun (x : Int) => let l := tn * (2 ^ 149 : Nat); if 0 < td then decide (l < x * td) else decide (x * td < l)
    let above := fun (x : Int) => let l := tn * (2 ^ 149 : Nat); if 0 < td then decide (x * td < l) else decide (l < x * td)
    if det = 0 || !inside || below (r.getD 6 z).units || above (r.getD 7 z).units then triMiss
    else [w32 (ratio .rne tn td), w32 (ratio .rne vv det), w32 (ratio .rne ww det), if 0 < td then 3 else 1]
/-- TRIT (R247). -/
def execTrit (d a b : Slot) (s : State) : Out :=
  s.rayTest d a b 4 fun i c t r v s =>
    if v.ntris ≤ rayIndex r then (.ok (.ray d [posInf, 0, 0, 4]), s)
    else Got.andThen (s.threadRead i c t (v.tri + 48 * rayIndex r) 48) fun rec s =>
      (.ok (.ray d (triTest rec (r.l 1))), s)

/-! XFRM (R248). -/

/-- The eight result words of a transform (R248). -/
def transform (rec : Bytes) (ray : List W32) : List W32 :=
  let r := fun k => opnd parF32 (ray.getD k 0)
  let m := fun i j => decodeF parF32 (leAt rec (16 * i + 4 * j) 4)
  let row := fun (i off : Nat) (tail : List (Option FV)) =>
    w32 (sumRound parF32 .rne ((List.range 3).map (fun j => mulFV (m i j) (r (off + j))) ++ tail)).2
  (List.range 3).map (fun i => row i 0 [some (m i 3)]) ++ (List.range 3).map (fun i => row i 3 []) ++
    [ray.getD 6 0, ray.getD 7 0]
/-- XFRM (R248). -/
def execXfrm (d a b : Slot) (s : State) : Out :=
  s.rayTest d a b 8 fun i c t r v s =>
    let ray := r.l 1
    if v.ninst ≤ rayIndex r then
      (.ok (.ray d (List.replicate 6 0x7FC00000#32 ++ [ray.getD 6 0, ray.getD 7 0])), s)
    else Got.andThen (s.threadRead i c t (v.inst + 64 * rayIndex r) 64) fun rec s =>
      (.ok (.ray d (transform rec ray)), s)
/-- RAY_TEST_RESULT (R246): the ray-test unit writes its result slots. -/
def execRayTestResult (s : State) : Out := s.resultStep .ray

end Sys2Proof.Machine
end

