-- ==== Sys2Proof/Machine/Sequence.lean ====
section
/-! DEFINITION. The sequence unit: QSAMP, major 0x21 (R43, R44, R113 to R119). -/

namespace Sys2Proof.Machine

/-- Mix32 of R114. -/
def mix32 (z : W32) : W32 :=
  let z := (z ^^^ (z >>> 16)) * 0x6C8E9CF5#32
  let z := (z ^^^ (z >>> 15)) * 0xB5D31A4B#32
  z ^^^ (z >>> 16)
/-- The element before scrambling: the direction words of the set index bits (R114). -/
def qRaw (v : Nat → W32) (i : Nat) : W32 :=
  (List.range 48).foldl (fun x j => if i.testBit j then x ^^^ v j else x) 0
/-- QElement of R114, from the direction words and the seed of dimension d. -/
def qElement (v : Nat → W32) (seed : W32) (i : Nat) (d : W32) : W32 :=
  let x := qRaw v i
  let h0 := mix32 (seed ^^^ mix32 d)
  ofBits fun k =>
    let node := w32 (2 ^ (31 - k)) ||| (x >>> (k + 1))
    x.getLsbD k ^^ (mix32 (h0 ^^^ node)).getLsbD 31
/-- The element of an entry of the sequence table (R43, R114). -/
def qEntry (entry : Bytes) (i : Nat) (d : W32) : W32 :=
  qElement (fun j => w32 (leAt entry (4 * j) 4)) (w32 (leAt entry 192 4)) i d
/-- PROTECTION of a dimension outside the table, with the rank of address PROTECTION (R116, R336). -/
def Trap.dimension (d : W32) : Trap := { rank := 4, cause := .protection, info1 := d.zeroExtend 64 }
/-- A table entry that was fetched enters the RO lines that the core does not hold yet (R117, R180). -/
def State.keepEntry (s : State) (i : Iss) (c : Context) (t : Thread) (va : Nat) (b : Bytes) : State :=
  let r := s.xlate c (physDie i.core) (.core i.core) (w64 va) .load t.who
  match r.1 with
  | .ok vdev pa ch => (List.range 4).foldl (fun s k =>
      if ((s.core i.core).line? vdev (pa / 64 + k) .ro).isSome then s
      else s.l1Fill i.ck.ctx i.core vdev (pa + 64 * k) 64 .ro ch none (some ((b.drop (64 * k)).take 64))) r.2
  | .trap _ | .pinned _ => s
/-- A table entry is fetched whole, at the slices or from the device that holds its page, behind the core's earlier requests, so that it
is the old or the new one (R44, R117, R184). An entry whose address reaches 2^56, of which R116 says nothing, raises PROTECTION with
address PROTECTION's rank: DESIGN CHOICE (log entry 83). -/
def State.seqFetch (s : State) (i : Iss) (c : Context) (t : Thread) (va : Nat) : RV × State :=
  if outOfReach c va 256 then (.trap (.addrProt (w64 va) false), s)
  else match watchBits i c va 256 with
    | 0 => Got.andThen ((s.drainSlices i.core fun _ => true).readVirt c (physDie i.core) (.core i.core) t.key (w64 va) 256 t.who) fun b s =>
        (.ok b, s.keepEntry i c t va b)
    | bits => (.trap (.watchFetch va bits), s)
/-- The entry of dimension d: from the core's table cache, or fetched into it (R44, R117). A full cache gives up the entry filled longest
ago, for the spec names no replacement: DESIGN CHOICE (log entry 81). -/
def State.seqEntry (s : State) (i : Iss) (c : Context) (t : Thread) (d : Nat) : RV × State :=
  match (s.core i.core).seqCache.find? fun e => e.1 == c.id && e.2.1 == d with
  | some e => (.ok e.2.2, s)
  | none =>
    Got.andThen (s.seqFetch i c t (c.desc.seqbase.toNat + 256 * d)) fun b s =>
      (.ok b, s.updCore i.core fun k =>
        { k with seqCache := ((c.id, d, b) :: k.seqCache.filter fun e => e.1 == c.id).take 256 })
/-- QSAMP (R113 to R117): the result lands later. -/
def State.qsamp (s : State) (d a b : Slot) (f : W32 → W32) : Out :=
  let fs := [Fld.dg d, .gs a 2, .g b]
  s.operandsQ .compute fs fun i ms =>
    match s.context? i.ck.ctx with
    | none => .next s
    | some c =>
      s.eachFetch i ms (fun i t r s =>
        match r.dead with
        | some x => (.trap x, s)
        | none =>
        if c.desc.seqn ≤ (r.x 2).toNat then (.trap (.dimension (r.x 2)), s)
        else Got.andThen (s.seqEntry i c t (r.x 2).toNat) fun e s =>
          (.ok (qEntry e ((r.p 1).toNat % 2 ^ 48) (r.x 2)), s)) fun l s1 =>
        .next (s1.finish i fs false (l.map fun p => (p.1, { g := putWords d [f p.2], late := some .qsamp })))
/-- QSAMP.f32 (R115). -/
def execQsampF32 (d a b : Slot) (s : State) : Out :=
  s.qsamp d a b fun y => if y = 0 then 0 else w32 (roundFloat parF32 .rtz false false y.toNat (-32)).2
/-- QSAMP.n32 (R115). -/
def execQsampN32 (d a b : Slot) (s : State) : Out := s.qsamp d a b fun y => y
/-- QSAMP_RESULT (R117): the sequence unit writes the result. -/
def execQsampResult (s : State) : Out := s.resultStep .qsamp

end Sys2Proof.Machine
end

