-- ==== Sys2Proof/Machine/Window.lean ====
section
/-! DEFINITION. The management window (R401, R412, R414) and the window into physical memory (R401): where each register stands, what
a read of it gives, and what a write of it does. -/

namespace Sys2Proof.Machine

/-- The registers of the management window (R414), with their indices; a core's registers with its physical number. -/
inductive WinReg
  | devid | bootstat | fusestat | winbase | attnonce (k : Nat) | attgo | attbuf (k : Nat)
  | pwrlim | pwrstat | temp (die : Nat)
  | ctxarg | ctxcmd | ctxstat | dbgsel | tlbinva | tlbinv | hostpt | hostctl
  | part (k : Nat) | pstat | vacant (k : Nat)
  | ftctl (u : Nat) | ftstart (u : Nat) | ftperiod (u : Nat) | ftframe (u : Nat) | ftstat (u : Nat)
  | ptpctl | ptpstat | podcfg | podtmo | devmap (n : Nat) | pctbase | podcmd | podstat | podstat2 | pflags2 | replctl
  | digbase (n : Nat) | diglen (n : Nat)
  | dbgctl | dbgstat | bpaddr (n : Nat) | wpaddr (n : Nat) | wpcfg (n : Nat) | dbgtgt | dbgcmd | cxctl | cxlo | cxhi | cxppc | cxlen
  | cxcount | cxin | cxout | rplbase | rplsize | rplptr | rplmiss | rpldrop
  | isctl (p : Nat) | smpctl (p : Nat) | smpbase (p : Nat) | smpsize (p : Nat) | smpptr (p : Nat) | smpdrop (p : Nat)
  | rdctl (p : Nat) | rdlaunch (p : Nat) | rdhist (p k : Nat) | ecccor (p : Nat) | eccunc (p : Nat)
  deriving DecidableEq, Repr

/-! Where the registers stand (R414). -/

/-- The register at a stride of a block that lists its registers with their counts. -/
def pickReg : List (Nat × (Nat → WinReg)) → Nat → Option WinReg
  | [], _ => none
  | (n, f) :: rest, k => if k < n then some (f k) else pickReg rest (k - n)
/-- One register of a block. -/
def oneReg (r : WinReg) : Nat × (Nat → WinReg) := (1, fun _ => r)
/-- The identification block. -/
def identRegs : List (Nat × (Nat → WinReg)) :=
  [oneReg .devid, oneReg .bootstat, oneReg .fusestat, oneReg .winbase, (4, .attnonce), oneReg .attgo, (512, .attbuf)]
/-- The context block. -/
def contextRegs : List (Nat × (Nat → WinReg)) :=
  [oneReg .ctxarg, oneReg .ctxcmd, oneReg .ctxstat, oneReg .dbgsel, oneReg .tlbinva, oneReg .tlbinv, oneReg .hostpt, oneReg .hostctl]
/-- The registers of a frame trigger unit. -/
def unitRegs (u : Nat) : List (Nat × (Nat → WinReg)) :=
  [oneReg (.ftctl u), oneReg (.ftstart u), oneReg (.ftperiod u), oneReg (.ftframe u), oneReg (.ftstat u)]
/-- The time and pod block. -/
def podRegs : List (Nat × (Nat → WinReg)) :=
  [oneReg .ptpctl, oneReg .ptpstat, oneReg .podcfg, oneReg .podtmo, (1024, .devmap), oneReg .pctbase, oneReg .podcmd, oneReg .podstat,
   oneReg .podstat2, oneReg .pflags2, oneReg .replctl, (8, .digbase), (8, .diglen)]
/-- The debug block. -/
def debugRegs : List (Nat × (Nat → WinReg)) :=
  [oneReg .dbgctl, oneReg .dbgstat, (8, .bpaddr), (4, .wpaddr), (4, .wpcfg), oneReg .dbgtgt, oneReg .dbgcmd, oneReg .cxctl,
   oneReg .cxlo, oneReg .cxhi, oneReg .cxppc, oneReg .cxlen, oneReg .cxcount, oneReg .cxin, oneReg .cxout, oneReg .rplbase,
   oneReg .rplsize, oneReg .rplptr, oneReg .rplmiss, oneReg .rpldrop]
/-- The window of a physical core. -/
def coreRegs (p : Nat) : List (Nat × (Nat → WinReg)) :=
  [oneReg (.isctl p), oneReg (.smpctl p), oneReg (.smpbase p), oneReg (.smpsize p), oneReg (.smpptr p), oneReg (.smpdrop p),
   oneReg (.rdctl p), oneReg (.rdlaunch p), (16, .rdhist p), oneReg (.ecccor p), oneReg (.eccunc p)]
/-- The register at an offset of BAR 0 (R414); none where no register stands. -/
def regAt (off : Nat) : Option WinReg :=
  if off % 8 ≠ 0 then none
  else if off < 0x2000 then pickReg identRegs (off / 8)
  else if off < 0x10000 then pickReg [oneReg .pwrlim, oneReg .pwrstat, (4, .temp)] ((off - 0x2000) / 8)
  else if off < 0x20000 then pickReg contextRegs ((off - 0x10000) / 8)
  else if off < 0x30000 then pickReg [(64, .part), oneReg .pstat, (2, .vacant)] ((off - 0x20000) / 8)
  else if off < 0x40000 then
    if (off - 0x30000) / 64 < 16 then pickReg (unitRegs ((off - 0x30000) / 64)) (off % 64 / 8) else none
  else if off < 0x100000 then pickReg podRegs ((off - 0x40000) / 8)
  else if off < 0x1000000 then pickReg debugRegs ((off - 0x100000) / 8)
  else if (off - 0x1000000) / 0x10000 < 136 then pickReg (coreRegs ((off - 0x1000000) / 0x10000)) (off % 0x10000 / 8)
  else none
/-- Whether a physical core is in use (R412, R414): one of the first 32 of its die that is not fused bad; a spare that boot put in the
place of a bad one; or a spare that a partition names. -/
def State.coreInUse (s : State) (p : Nat) : Bool :=
  !s.fuses.bad.contains p && (decide (p % 34 < 32) || ((s.fuses.spares (p / 34)).any fun x => x.2 == p) ||
    s.mgmt.parts.any fun e => (s.partNamed e).contains p)
/-- The core whose window a register belongs to. -/
def WinReg.core? : WinReg → Option Nat
  | .isctl p | .smpctl p | .smpbase p | .smpsize p | .smpptr p | .smpdrop p | .rdctl p | .rdlaunch p | .rdhist p _ | .ecccor p
  | .eccunc p => some p
  | _ => none
/-- Whether a register answers (R412, R414): all of them once the device is READY, only those of the identification block after a boot
that failed; those of a core while the core is in use. -/
def State.answers (s : State) (off : Nat) (r : WinReg) : Bool :=
  (s.mgmt.bootstat == 0xF || (s.mgmt.bootstat == 0xE && decide (off < 0x2000))) &&
    (match r.core? with | some p => s.coreInUse p | none => true)

/-! Reads. -/

/-- STATE of CTXSTAT (R348). -/
def CtxSt.code : CtxSt → Nat
  | .none => 0 | .creating => 1 | .running => 2 | .halting => 3 | .stopped => 4 | .saving => 5 | .saved => 6 | .restoring => 7
/-- The state of a context. -/
def State.stateOf (s : State) (id : Nat) : CtxSt := match s.context? id with | some c => c.st | none => .none
/-- CTXSTAT (R348). -/
def State.ctxstat (s : State) : W64 :=
  let id := s.mgmt.ctxNamed
  let st := match s.mgmt.creating with
    | some (x, _) => if x == id then .creating else s.stateOf id
    | none => s.stateOf id
  let e := match s.mgmt.errs.find? fun e => e.1 == id with | some e => e.2 | none => (0, 0)
  w64 (CtxSt.code st * 2 ^ 28 + e.1 * 2 ^ 16 + e.2 * 2 ^ 8 + (if s.cmdBusy then 1 else 0))
/-- STATE of PODSTAT (R383). -/
def Damper.code : Damper → Nat
  | .none => 0 | .run => 1 | .freezing => 2 | .frozen => 3 | .ready => 4 | .drained => 5 | .armed => 6
/-- A 32-bit register as a read gives it. -/
def wide (v : W32) : W64 := v.zeroExtend 64
/-- A truth value as bit n. -/
def bitAt (b : Bool) (n : Nat) : W64 := if b then w64 (2 ^ n) else 0
/-- Eight bytes of a byte string at a stride. -/
def stride (b : Bytes) (k : Nat) : W64 := w64 (leAt b (8 * k) 8)
/-- The value of a register of a context (R356, R360, R365, R367, R383, R398, R414). -/
def Context.readReg (c : Context) (ports : BitVec 18) : WinReg → W64
  | .hostpt => c.hostpt
  | .vacant k => w64 ((c.vacant.filter fun p => p.1 / 64 == k).map fun p => 2 ^ (p.1 % 64)).sum
  | .podcfg => c.pod.podcfg
  | .podtmo => wide c.pod.podtmo
  | .devmap n => wide (sget 0 c.pod.devmap n)
  | .pctbase => c.pod.pctbase
  | .podstat => w64 (c.pod.damper.code * 2 ^ 28) ||| bitAt c.pod.refused 27 ||| w64 (c.pod.causes.length * 2 ^ 16) |||
      (ports.extractLsb' 0 16).zeroExtend 64
  | .podstat2 => (ports.extractLsb' 16 2).zeroExtend 64
  | .pflags2 => wide c.pod.pflags2
  | .replctl => wide c.pod.replctl
  | .digbase n => c.pod.digbase.getD n 0
  | .diglen n => wide (c.pod.diglen.getD n 0)
  | .dbgctl => wide c.dbg.dbgctl
  | .dbgstat => wide c.dbg.dbgstat
  | .bpaddr n => c.dbg.bpaddr.getD n 0
  | .wpaddr n => c.dbg.wpaddr.getD n 0
  | .wpcfg n => wide (c.dbg.wpcfg.getD n 0)
  | .dbgtgt => c.dbg.dbgtgt
  | .cxctl => wide c.dbg.cxctl
  | .cxlo => c.dbg.cxlo
  | .cxhi => c.dbg.cxhi
  | .cxppc => c.dbg.cxppc
  | .cxlen => wide c.dbg.cxlen
  | .cxcount => wide c.dbg.cxcount
  | .cxin => wide c.dbg.cxin
  | .cxout => wide c.dbg.cxout
  | .rplbase => c.dbg.rplbase
  | .rplsize => wide c.dbg.rplsize
  | .rplptr => wide c.dbg.rplptr
  | .rplmiss => wide c.dbg.rplmiss
  | .rpldrop => wide c.dbg.rpldrop
  | _ => 0
/-- The value of a register of a core (R137, R343, R362, R366). -/
def Core.readReg (c : Core) : WinReg → W64
  | .isctl _ => wide c.isctl
  | .smpctl _ => wide c.smpctl
  | .smpbase _ => c.smpbase
  | .smpsize _ => wide c.smpsize
  | .smpptr _ => wide c.smpptr
  | .smpdrop _ => wide c.smpdrop
  | .rdctl _ => wide c.rdctl
  | .rdlaunch _ => wide c.rdlaunch
  | .rdhist _ k => wide (c.rdhist.getD k 0)
  | .ecccor _ => c.ecccor
  | .eccunc _ => c.eccunc
  | _ => 0
/-- The value of a register that belongs to neither a context nor a core (R303, R348, R354, R399, R411 to R414). What a temperature
reads as is not stated. -/
def State.readGlobal (s : State) : WinReg → W64
  | .devid => w64 (s.fuses.code % 16 * 2 ^ 32 + 0x1B4CA4B7)
  | .bootstat => s.mgmt.bootstat.zeroExtend 64
  | .fusestat => bitAt s.fuses.debug 0
  | .winbase => s.mgmt.winbase
  | .attnonce k => stride s.mgmt.attnonce k
  | .attgo => bitAt s.mgmt.attgo 0
  | .attbuf k => stride s.mgmt.attbuf k
  | .pwrlim => s.mgmt.pwrlim.zeroExtend 64
  | .pwrstat => bitAt s.mgmt.trip 1 ||| bitAt s.mgmt.thr 0
  | .temp k => Config.freeWord (s.free + k)
  | .ctxarg => s.mgmt.ctxarg
  | .ctxstat => s.ctxstat
  | .dbgsel => wide s.mgmt.dbgsel
  | .tlbinva => s.mgmt.tlbinva
  | .tlbinv => wide s.mgmt.tlbinv
  | .part k => stride (s.mgmt.parts.getD (k / 8) []) (k % 8)
  | .pstat => bitAt s.mgmt.pstat 0
  | .ftctl u => wide (s.unit u).ctl
  | .ftstart u => (s.unit u).start
  | .ftperiod u => wide (s.unit u).period
  | .ftframe u => wide (s.unit u).frame
  | .ftstat u => wide (s.unit u).stat
  | .ptpctl => wide s.time.ctl
  | .ptpstat => bitAt s.time.locked 31 ||| bitAt s.time.pps 30 ||| s.time.offset.zeroExtend 64
  | _ => 0
/-- What a read of an offset of BAR 0 gives (R414): offsets that no register occupies, registers that do not answer, and the registers
of a context where DBGSEL names none read zero. -/
def State.readReg (s : State) (off : Nat) : W64 :=
  match regAt off with
  | none => 0
  | some r =>
    if !s.answers off r then 0
    else match r.core? with
      | some p => (s.core p).readReg r
      | none => s.readGlobal r ||| (match s.sel with | some c => c.readReg s.ports r | none => 0)

/-! Writes. -/

/-- Replaces bytes of a byte string from an offset up. -/
def patch (b : Bytes) (off : Nat) (data : Bytes) : Bytes := b.take off ++ data ++ b.drop (off + data.length)
/-- The low 32 bits of a written value, where a mask lets them through. -/
def masked (v : W64) (m : W32) : W32 := lo32 v &&& m
/-- An instruction whose effect a write has, with its operand. -/
def State.asEvent (s : State) (op : EvOp) (go : State → Out) : Out := go { s with op := op }
/-- A write of CTXCMD (R348, R349). -/
def State.writeCtxcmd (s : State) (v : W64) : Out :=
  let ctx := (v.extractLsb' 0 16).toNat
  match (v.extractLsb' 28 4).toNat with
  | 1 => s.asEvent (.nat ctx) execCreate
  | 2 => s.asEvent (.nat ctx) execResume
  | 3 => s.asEvent (.nat2 ctx (v.extractLsb' 16 8).toNat) execPreempt
  | 4 => s.asEvent (.nat ctx) execSwitchout
  | 5 => s.asEvent (.nat ctx) execSwitchin
  | 6 => s.asEvent (.nat ctx) execDestroy
  | 7 => s.asEvent (.nat ctx) execCtxHalt
  | _ => .next (s.refuseCmd ctx)
/-- A write of PODCMD (R383). -/
def State.writePodcmd (s : State) (v : W64) : Out :=
  match (v.extractLsb' 28 4).toNat with
  | 1 => execPodJoin s
  | 2 => execPodLeave s
  | 3 => execPodResume s
  | _ => .next (match s.sel with | some c => s.refusePod c.id | none => s)
/-- A write of DBGCMD (R360). -/
def State.writeDbgcmd (s : State) (v : W64) : Out :=
  match stepOp v with
  | 1 => s.asEvent (.word v) execStepi
  | 2 => s.asEvent (.word v) execStepr
  | _ => .next (s.stepCmd v 0 .stepi)
/-- Changes the pod registers. -/
def Context.onPod (c : Context) (f : Pod → Pod) : Context := { c with pod := f c.pod }
/-- Changes the debug registers. -/
def Context.onDbg (c : Context) (f : Debug → Debug) : Context := { c with dbg := f c.dbg }
/-- PODCFG is written; the counts that the context holds of its own go by its new number (R383, R393). -/
def Context.writePodcfg (c : Context) (v : W64) : Context :=
  let d := c.onPod fun p => { p with podcfg := v &&& 0xFFFFFFFF003FF3FF#64 }
  { d with nodes := d.nodes.map fun n => n.renumber c.self d.self,
           batches := d.batches.map fun b => if b.vdev == c.self then { b with vdev := d.self } else b }
/-- A register of a context that has no behaviour of its own (R356, R365, R367, R383, R398). -/
def Context.writeReg (c : Context) (v : W64) : WinReg → Context
  | .podcfg => c.writePodcfg v
  | .podtmo => c.onPod fun p => { p with podtmo := lo32 v }
  | .devmap n => c.onPod fun p => { p with devmap := sput 0 p.devmap n (masked v 0xC00003FF#32) }
  | .pctbase => c.onPod fun p => { p with pctbase := pc56 v }
  | .podstat => c.onPod fun p => { p with refused := p.refused && !v.getLsbD 27 }
  | .pflags2 => c.onPod fun p => { p with pflags2 := p.pflags2 &&& ~~~masked v 3 }
  | .replctl => c.onPod fun p => { p with replctl := masked v 0xFFFF03FF#32 }
  | .digbase n => c.onPod fun p => { p with digbase := p.digbase.set n v }
  | .diglen n => c.onPod fun p => { p with diglen := p.diglen.set n (lo32 v) }
  | .dbgctl => c.onDbg fun d => { d with dbgctl := masked v 0x800F00FF#32 }
  | .dbgstat => c.onDbg fun d => { d with dbgstat := d.dbgstat &&& ~~~masked v 0x800F00FF#32 }
  | .bpaddr n => c.onDbg fun d => { d with bpaddr := d.bpaddr.set n (v &&& 0x00FFFFFFFFFFFFFC#64) }
  | .wpaddr n => c.onDbg fun d => { d with wpaddr := d.wpaddr.set n (pc56 v) }
  | .wpcfg n => c.onDbg fun d => { d with wpcfg := d.wpcfg.set n (masked v 0x1F03#32) }
  | .dbgtgt => c.onDbg fun d => { d with dbgtgt := v }
  | .cxctl => c.onDbg fun d => { d with cxctl := (d.cxctl &&& 0xC0000000#32) ||| masked v 0xFFFF#32 }
  | .cxlo => c.onDbg fun d => { d with cxlo := pc56 v }
  | .cxhi => c.onDbg fun d => { d with cxhi := pc56 v }
  | .cxppc => c.onDbg fun d => { d with cxppc := pc56 v }
  | .cxlen => c.onDbg fun d => { d with cxlen := lo32 v }
  | .rplsize => c.onDbg fun d => { d with rplsize := lo32 v }
  | .rplptr => c.onDbg fun d => { d with rplptr := lo32 v }
  | .rplmiss => c.onDbg fun d => { d with rplmiss := lo32 v }
  | .rpldrop => c.onDbg fun d => { d with rpldrop := lo32 v }
  | _ => c
/-- A register of a core that has no behaviour of its own (R362, R366). -/
def Core.writeReg (c : Core) (v : W64) : WinReg → Core
  | .smpbase _ => { c with smpbase := v &&& 0x00FFFFFFFFFFFFE0#64 }
  | .smpsize _ => { c with smpsize := lo32 v }
  | .smpptr _ => { c with smpptr := lo32 v }
  | .smpdrop _ => { c with smpdrop := lo32 v }
  | .rdlaunch _ => { c with rdlaunch := lo32 v }
  | .rdhist _ k => { c with rdhist := c.rdhist.set k (lo32 v) }
  | _ => c
/-- Changes a frame trigger unit, enabled or not (R303). -/
def State.onUnit (s : State) (u : Nat) (f : FrameUnit → FrameUnit) : State := { s with units := aput s.units u (f (s.unit u)) }
/-- A management register that belongs to neither a context nor a core, without behaviour of its own (R348, R399, R411, R413,
R414). -/
def State.writeGlobal (s : State) (v : W64) : WinReg → State
  | .winbase => s.setMgmt { s.mgmt with winbase := v }
  | .attnonce k => if s.mgmt.attgo then s else s.setMgmt { s.mgmt with attnonce := patch s.mgmt.attnonce (8 * k) (natLe 8 v.toNat) }
  | .pwrlim =>
    let w := v.extractLsb' 0 12
    if 500 ≤ w.toNat ∧ w.toNat ≤ 3100 then s.setMgmt { s.mgmt with pwrlim := w } else s
  | .pwrstat => s.setMgmt { s.mgmt with trip := s.mgmt.trip && !v.getLsbD 1 }
  | .ctxarg => s.setMgmt { s.mgmt with ctxarg := v }
  | .dbgsel => s.setMgmt { s.mgmt with dbgsel := masked v 0xFFFF#32 }
  | .tlbinva => s.setMgmt { s.mgmt with tlbinva := v }
  | .pstat => s.setMgmt { s.mgmt with pstat := s.mgmt.pstat && !v.getLsbD 0 }
  | .ptpctl => if (v.extractLsb' 28 2).toNat = 3 then s else s.setTime { s.time with ctl := masked v 0xF8FF0000#32 }
  | .ftstart u => s.onUnit u fun x => { x with start := v }
  | .ftperiod u => s.onUnit u fun x => { x with period := lo32 v }
  | .ftframe u => s.onUnit u fun x => { x with frame := masked v 0xFFFF#32 }
  | .ftstat u => s.onUnit u fun x => { x with stat := x.stat &&& ~~~masked v 0x3E#32 }
  | _ => s
/-- Whether traffic of a running context addresses a virtual device, so that its DEVMAP entry is not rewritten yet (R352, R383). -/
def Context.mapBusy (s : State) (c : Context) (n : Nat) : Bool :=
  (decide (c.st = .running) || decide (c.st = .halting)) &&
    (c.pod.held.any (fun h => h.peer == n) ||
      s.reqs.any fun q => q.key.ck.ctx == c.id && decide (q.vdev = some n) && q.resp.isNone)
/-- Changes the context that DBGSEL names. -/
def State.onSel (s : State) (f : Context → Context) : State :=
  match s.sel with
  | none => s
  | some c => s.updContext c.id f
/-- A write of a register (R6, R414): a register with behaviour of its own acts as its own instruction; of any other the RW and W1C
fields change. -/
def State.writeReg (s : State) (r : WinReg) (v : W64) : Out :=
  match r with
  | .attgo => s.asEvent (.word v) execAttgo
  | .ctxcmd => s.writeCtxcmd v
  | .tlbinv => s.asEvent (.word v) execTlbinv
  | .hostpt => s.asEvent (.word v) execHostpt
  | .hostctl => if v.getLsbD 31 then execHostClose s else .next s
  | .part k => s.asEvent (.natBytes (k / 8) (patch (s.mgmt.parts.getD (k / 8) []) (8 * (k % 8)) (natLe 8 v.toNat))) execPartitionEntryWrite
  | .ftctl u => s.asEvent (.natWord u v) (if v.getLsbD 31 then execFrameTriggerEnable else execFrameTriggerDisable)
  | .podcmd => s.writePodcmd v
  | .dbgcmd => s.writeDbgcmd v
  | .cxctl => if v.getLsbD 31 then s.asEvent (.word v) execCausalTrialStart else .next (s.onSel fun c => c.writeReg v r)
  | .rplbase => s.asEvent (.word v) execRplbaseWrite
  | .smpctl p => s.asEvent (.natWord p v) execSmpctlWrite
  | .rdctl p => s.asEvent (.natWord p v) execRdctlWrite
  | .isctl p => .next ((s.decayCore p).updCore p fun c => { c with isctl := lo32 v })
  | .devmap n => match s.sel with
    | none => .next s
    | some c =>
      if c.mapBusy s n || c.pod.mapWrites.any (fun p => p.1 == n) then
        .next (s.updPod c.id fun p => { p with mapWrites := p.mapWrites ++ [(n, lo32 v)] })
      else .next (s.updContext c.id fun c => c.writeReg v r)
  | r => match r.core? with
    | some p => .next (s.updCore p fun c => c.writeReg v r)
    | none => .next ((s.writeGlobal v r).onSel fun c => c.writeReg v r)
/-- The first DEVMAP write of a context that waits for traffic no longer (R352). -/
def State.mapReady (s : State) (c : Context) : Option (Nat × W32) := c.pod.mapWrites.find? fun p => !c.mapBusy s p.1
/-- REGISTER_WRITE (R6, R137, R356, R383, R399, R414): the host writes 8 bytes at an offset of BAR 0; or a write of a DEVMAP entry that
waited for the context's traffic takes effect (R352). -/
def execRegisterWrite (s : State) : Out :=
  match s.op with
  | .natWord off v =>
    match regAt off with
    | none => .next s
    | some r => if s.answers off r then s.writeReg r v else .next s
  | .nat ctx =>
    match (s.context? ctx).bind s.mapReady with
    | none => .next s
    | some p => .next (s.updContext ctx fun c =>
        (c.onPod fun x => { x with mapWrites := x.mapWrites.erase p }).writeReg (p.2.zeroExtend 64) (.devmap p.1))
  | _ => .next s

/-! The window into memory (R401). -/

/-- WINDOW_ACCESS (R401): an access of the host through BAR 4 is performed at the slices, at WINBASE and its offset. A line that a core
has pinned keeps it waiting (R217). The bytes of a poisoned sector are not stated (R343). -/
def execWindowAccess (s : State) : Out :=
  match s.op with
  | .window wr off data =>
    let n := data.length
    let pa := (s.mgmt.winbase + w64 off).toNat
    if s.mgmt.bootstat ≠ 0xF ∨ n = 0 ∨ 2 ^ 28 < off + n then .next s
    else if s.capacity < pa + n then .fault .badPhysicalAddress
    else if (linesOf pa n).any (s.refused deviceSrc) then .next (s.laterInput .windowAccess)
    else if wr then .next (s.writePhys pa (data.map some))
    else if s.poisoned pa n then
      let b := s.freeBytes n
      .next (b.2.send (.host b.1))
    else .next (s.send (.host (s.readPhys pa n)))
  | _ => .next s

end Sys2Proof.Machine
end

