-- ==== Sys2Proof/Machine/Dispatch.lean ====
section
/-! DEFINITION. The dispatch of every instruction and of every step of the device to its meaning. -/

namespace Sys2Proof.Machine

/-- The meaning of an instruction, or of a step of the device's other agents, at a state. -/
def exec (i : Instr) (s : State) : Host.Outcome State Fault Refusal :=
  match i with
  | .add d a b => Sys2Proof.Machine.execAdd d a b s
  | .sub d a b => Sys2Proof.Machine.execSub d a b s
  | .mullo d a b => Sys2Proof.Machine.execMullo d a b s
  | .mulhiI32 d a b => Sys2Proof.Machine.execMulhiI32 d a b s
  | .mulhiN32 d a b => Sys2Proof.Machine.execMulhiN32 d a b s
  | .minI32 d a b => Sys2Proof.Machine.execMinI32 d a b s
  | .minN32 d a b => Sys2Proof.Machine.execMinN32 d a b s
  | .maxI32 d a b => Sys2Proof.Machine.execMaxI32 d a b s
  | .maxN32 d a b => Sys2Proof.Machine.execMaxN32 d a b s
  | .and d a b => Sys2Proof.Machine.execAnd d a b s
  | .or d a b => Sys2Proof.Machine.execOr d a b s
  | .xor d a b => Sys2Proof.Machine.execXor d a b s
  | .shl d a b => Sys2Proof.Machine.execShl d a b s
  | .shr d a b => Sys2Proof.Machine.execShr d a b s
  | .sra d a b => Sys2Proof.Machine.execSra d a b s
  | .rol d a b => Sys2Proof.Machine.execRol d a b s
  | .ror d a b => Sys2Proof.Machine.execRor d a b s
  | .abs d a => Sys2Proof.Machine.execAbs d a s
  | .clz d a => Sys2Proof.Machine.execClz d a s
  | .ctz d a => Sys2Proof.Machine.execCtz d a s
  | .popc d a => Sys2Proof.Machine.execPopc d a s
  | .brev d a => Sys2Proof.Machine.execBrev d a s
  | .bswap d a => Sys2Proof.Machine.execBswap d a s
  | .andn d a b => Sys2Proof.Machine.execAndn d a b s
  | .mad d a b => Sys2Proof.Machine.execMad d a b s
  | .sel d a b => Sys2Proof.Machine.execSel d a b s
  | .seq d a b => Sys2Proof.Machine.execSeq d a b s
  | .sne d a b => Sys2Proof.Machine.execSne d a b s
  | .sltI32 d a b => Sys2Proof.Machine.execSltI32 d a b s
  | .sltN32 d a b => Sys2Proof.Machine.execSltN32 d a b s
  | .sleI32 d a b => Sys2Proof.Machine.execSleI32 d a b s
  | .sleN32 d a b => Sys2Proof.Machine.execSleN32 d a b s
  | .addI64 d a b => Sys2Proof.Machine.execAddI64 d a b s
  | .subI64 d a b => Sys2Proof.Machine.execSubI64 d a b s
  | .mulloI64 d a b => Sys2Proof.Machine.execMulloI64 d a b s
  | .mulwI32 d a b => Sys2Proof.Machine.execMulwI32 d a b s
  | .mulwN32 d a b => Sys2Proof.Machine.execMulwN32 d a b s
  | .minI64 d a b => Sys2Proof.Machine.execMinI64 d a b s
  | .minN64 d a b => Sys2Proof.Machine.execMinN64 d a b s
  | .maxI64 d a b => Sys2Proof.Machine.execMaxI64 d a b s
  | .maxN64 d a b => Sys2Proof.Machine.execMaxN64 d a b s
  | .shlI64 d a b => Sys2Proof.Machine.execShlI64 d a b s
  | .shrI64 d a b => Sys2Proof.Machine.execShrI64 d a b s
  | .sraI64 d a b => Sys2Proof.Machine.execSraI64 d a b s
  | .seqI64 d a b => Sys2Proof.Machine.execSeqI64 d a b s
  | .sltI64 d a b => Sys2Proof.Machine.execSltI64 d a b s
  | .sltN64 d a b => Sys2Proof.Machine.execSltN64 d a b s
  | .addx d a b => Sys2Proof.Machine.execAddx d a b s
  | .addi d a imm => Sys2Proof.Machine.execAddi d a imm s
  | .andi d a imm => Sys2Proof.Machine.execAndi d a imm s
  | .ori d a imm => Sys2Proof.Machine.execOri d a imm s
  | .xori d a imm => Sys2Proof.Machine.execXori d a imm s
  | .sltiI32 d a imm => Sys2Proof.Machine.execSltiI32 d a imm s
  | .sltiN32 d a imm => Sys2Proof.Machine.execSltiN32 d a imm s
  | .shli d a n => Sys2Proof.Machine.execShli d a n s
  | .shri d a n => Sys2Proof.Machine.execShri d a n s
  | .srai d a n => Sys2Proof.Machine.execSrai d a n s
  | .rori d a n => Sys2Proof.Machine.execRori d a n s
  | .bfx d a sx pos len1 => Sys2Proof.Machine.execBfx d a sx pos len1 s
  | .bfi d a pos len1 => Sys2Proof.Machine.execBfi d a pos len1 s
  | .addiI64 d a imm => Sys2Proof.Machine.execAddiI64 d a imm s
  | .lui d imm => Sys2Proof.Machine.execLui d imm s
  | .loi d imm => Sys2Proof.Machine.execLoi d imm s
  | .fadd d a b ty rm => Sys2Proof.Machine.execFadd d a b ty rm s
  | .fsub d a b ty rm => Sys2Proof.Machine.execFsub d a b ty rm s
  | .fmul d a b ty rm => Sys2Proof.Machine.execFmul d a b ty rm s
  | .ffma d a b ty rm => Sys2Proof.Machine.execFfma d a b ty rm s
  | .fmin d a b => Sys2Proof.Machine.execFmin d a b s
  | .fmax d a b => Sys2Proof.Machine.execFmax d a b s
  | .fneg d a => Sys2Proof.Machine.execFneg d a s
  | .fabs d a => Sys2Proof.Machine.execFabs d a s
  | .fcps d a b => Sys2Proof.Machine.execFcps d a b s
  | .fseq d a b => Sys2Proof.Machine.execFseq d a b s
  | .fslt d a b => Sys2Proof.Machine.execFslt d a b s
  | .fsle d a b => Sys2Proof.Machine.execFsle d a b s
  | .fsun d a b => Sys2Proof.Machine.execFsun d a b s
  | .frcp d a => Sys2Proof.Machine.execFrcp d a s
  | .frsq d a => Sys2Proof.Machine.execFrsq d a s
  | .fsqrt d a => Sys2Proof.Machine.execFsqrt d a s
  | .fex2 d a => Sys2Proof.Machine.execFex2 d a s
  | .flg2 d a => Sys2Proof.Machine.execFlg2 d a s
  | .fsin d a => Sys2Proof.Machine.execFsin d a s
  | .fcos d a => Sys2Proof.Machine.execFcos d a s
  | .haddBf16 d a b => Sys2Proof.Machine.execHaddBf16 d a b s
  | .hsubBf16 d a b => Sys2Proof.Machine.execHsubBf16 d a b s
  | .hmulBf16 d a b => Sys2Proof.Machine.execHmulBf16 d a b s
  | .hfmaBf16 d a b => Sys2Proof.Machine.execHfmaBf16 d a b s
  | .hminBf16 d a b => Sys2Proof.Machine.execHminBf16 d a b s
  | .hmaxBf16 d a b => Sys2Proof.Machine.execHmaxBf16 d a b s
  | .haddF16 d a b => Sys2Proof.Machine.execHaddF16 d a b s
  | .hsubF16 d a b => Sys2Proof.Machine.execHsubF16 d a b s
  | .hmulF16 d a b => Sys2Proof.Machine.execHmulF16 d a b s
  | .hfmaF16 d a b => Sys2Proof.Machine.execHfmaF16 d a b s
  | .hminF16 d a b => Sys2Proof.Machine.execHminF16 d a b s
  | .hmaxF16 d a b => Sys2Proof.Machine.execHmaxF16 d a b s
  | .bdot2 d a b => Sys2Proof.Machine.execBdot2 d a b s
  | .pk2Bf16 d a b => Sys2Proof.Machine.execPk2Bf16 d a b s
  | .pk2F16 d a b => Sys2Proof.Machine.execPk2F16 d a b s
  | .idp4 d a b sat sa sb => Sys2Proof.Machine.execIdp4 d a b sat sa sb s
  | .idp8 d a b sat sa sb => Sys2Proof.Machine.execIdp8 d a b sat sa sb s
  | .cvt d a tf sf rm => Sys2Proof.Machine.execCvt d a tf sf rm s
  | .cvts d a tf sf rm => Sys2Proof.Machine.execCvts d a tf sf rm s
  | .cvtiItof d a int fmt sat rm => Sys2Proof.Machine.execCvtiItof d a int fmt sat rm s
  | .cvtiFtoi d a int fmt rm => Sys2Proof.Machine.execCvtiFtoi d a int fmt rm s
  | .br c off => Sys2Proof.Machine.execBr c off s
  | .brz c off => Sys2Proof.Machine.execBrz c off s
  | .call d off => Sys2Proof.Machine.execCall d off s
  | .jmp a => Sys2Proof.Machine.execJmp a s
  | .callr d a => Sys2Proof.Machine.execCallr d a s
  | .ret a => Sys2Proof.Machine.execRet a s
  | .nop => Sys2Proof.Machine.execNop s
  | .exit => Sys2Proof.Machine.execExit s
  | .yield => Sys2Proof.Machine.execYield s
  | .trap n => Sys2Proof.Machine.execTrap n s
  | .brk n => Sys2Proof.Machine.execBrk n s
  | .sys n => Sys2Proof.Machine.execSys n s
  | .eret => Sys2Proof.Machine.execEret s
  | .fenceI => Sys2Proof.Machine.execFenceI s
  | .halt => Sys2Proof.Machine.execHalt s
  | .rdsr d sr => Sys2Proof.Machine.execRdsr d sr s
  | .wrsr a sr => Sys2Proof.Machine.execWrsr a sr s
  | .wbase v => Sys2Proof.Machine.execWbase v s
  | .wbadd v => Sys2Proof.Machine.execWbadd v s
  | .wadd d a b => Sys2Proof.Machine.execWadd d a b s
  | .wsub d a b => Sys2Proof.Machine.execWsub d a b s
  | .wmul d a b => Sys2Proof.Machine.execWmul d a b s
  | .wfma d a b => Sys2Proof.Machine.execWfma d a b s
  | .wmin d a b => Sys2Proof.Machine.execWmin d a b s
  | .wmax d a b => Sys2Proof.Machine.execWmax d a b s
  | .watt d a b => Sys2Proof.Machine.execWatt d a b s
  | .wmov d a => Sys2Proof.Machine.execWmov d a s
  | .whsum d a => Sys2Proof.Machine.execWhsum d a s
  | .wdot d a b => Sys2Proof.Machine.execWdot d a b s
  | .wsplat d a => Sys2Proof.Machine.execWsplat d a s
  | .wext d a k => Sys2Proof.Machine.execWext d a k s
  | .wins d a k => Sys2Proof.Machine.execWins d a k s
  | .wpack d a => Sys2Proof.Machine.execWpack d a s
  | .wmuellerG d a b => Sys2Proof.Machine.execWmuellerG d a b s
  | .wmuellerW d a b => Sys2Proof.Machine.execWmuellerW d a b s
  | .qsampF32 d a b => Sys2Proof.Machine.execQsampF32 d a b s
  | .qsampN32 d a b => Sys2Proof.Machine.execQsampN32 d a b s
  | .join a => Sys2Proof.Machine.execJoin a s
  | .leave => Sys2Proof.Machine.execLeave s
  | .shflIdx d a b => Sys2Proof.Machine.execShflIdx d a b s
  | .shflUp d a b => Sys2Proof.Machine.execShflUp d a b s
  | .shflDown d a b => Sys2Proof.Machine.execShflDown d a b s
  | .shflXor d a b => Sys2Proof.Machine.execShflXor d a b s
  | .voteAny d a => Sys2Proof.Machine.execVoteAny d a s
  | .voteAll d a => Sys2Proof.Machine.execVoteAll d a s
  | .voteBallot d a => Sys2Proof.Machine.execVoteBallot d a s
  | .barSync nb => Sys2Proof.Machine.execBarSync nb s
  | .barAddI32 d a nb => Sys2Proof.Machine.execBarAddI32 d a nb s
  | .barAddF32 d a nb => Sys2Proof.Machine.execBarAddF32 d a nb s
  | .barMinI32 d a nb => Sys2Proof.Machine.execBarMinI32 d a nb s
  | .barMinN32 d a nb => Sys2Proof.Machine.execBarMinN32 d a nb s
  | .barMinF32 d a nb => Sys2Proof.Machine.execBarMinF32 d a nb s
  | .barMaxI32 d a nb => Sys2Proof.Machine.execBarMaxI32 d a nb s
  | .barMaxN32 d a nb => Sys2Proof.Machine.execBarMaxN32 d a nb s
  | .barMaxF32 d a nb => Sys2Proof.Machine.execBarMaxF32 d a nb s
  | .barAnd d a nb => Sys2Proof.Machine.execBarAnd d a nb s
  | .barOr d a nb => Sys2Proof.Machine.execBarOr d a nb s
  | .barXor d a nb => Sys2Proof.Machine.execBarXor d a nb s
  | .barScanI32 d a nb => Sys2Proof.Machine.execBarScanI32 d a nb s
  | .barXscanI32 d a nb => Sys2Proof.Machine.execBarXscanI32 d a nb s
  | .barScanF32 d a nb => Sys2Proof.Machine.execBarScanF32 d a nb s
  | .barXscanF32 d a nb => Sys2Proof.Machine.execBarXscanF32 d a nb s
  | .mma d a b => Sys2Proof.Machine.execMma d a b s
  | .vxm d a b => Sys2Proof.Machine.execVxm d a b s
  | .accrd d a t col timm => Sys2Proof.Machine.execAccrd d a t col timm s
  | .accwr d a t col timm => Sys2Proof.Machine.execAccwr d a t col timm s
  | .accz a t => Sys2Proof.Machine.execAccz a t s
  | .accwait a t => Sys2Proof.Machine.execAccwait a t s
  | .ld d a k off => Sys2Proof.Machine.execLd d a k off s
  | .st d a k off => Sys2Proof.Machine.execSt d a k off s
  | .lds d a k off => Sys2Proof.Machine.execLds d a k off s
  | .sts d a k off => Sys2Proof.Machine.execSts d a k off s
  | .ldp d a k off => Sys2Proof.Machine.execLdp d a k off s
  | .stp d a k off => Sys2Proof.Machine.execStp d a k off s
  | .ldro d a k off => Sys2Proof.Machine.execLdro d a k off s
  | .ldw d a off => Sys2Proof.Machine.execLdw d a off s
  | .stw d a off => Sys2Proof.Machine.execStw d a off s
  | .ldws d a off => Sys2Proof.Machine.execLdws d a off s
  | .stws d a off => Sys2Proof.Machine.execStws d a off s
  | .ldwp d a off => Sys2Proof.Machine.execLdwp d a off s
  | .stwp d a off => Sys2Proof.Machine.execStwp d a off s
  | .ldq d a off => Sys2Proof.Machine.execLdq d a off s
  | .stq d a off => Sys2Proof.Machine.execStq d a off s
  | .ldqs d a off => Sys2Proof.Machine.execLdqs d a off s
  | .stqs d a off => Sys2Proof.Machine.execStqs d a off s
  | .atomAdd d a ord sc => Sys2Proof.Machine.execAtomAdd d a ord sc s
  | .atomMinI32 d a ord sc => Sys2Proof.Machine.execAtomMinI32 d a ord sc s
  | .atomMinN32 d a ord sc => Sys2Proof.Machine.execAtomMinN32 d a ord sc s
  | .atomMaxI32 d a ord sc => Sys2Proof.Machine.execAtomMaxI32 d a ord sc s
  | .atomMaxN32 d a ord sc => Sys2Proof.Machine.execAtomMaxN32 d a ord sc s
  | .atomAnd d a ord sc => Sys2Proof.Machine.execAtomAnd d a ord sc s
  | .atomOr d a ord sc => Sys2Proof.Machine.execAtomOr d a ord sc s
  | .atomXor d a ord sc => Sys2Proof.Machine.execAtomXor d a ord sc s
  | .atomXchg d a ord sc => Sys2Proof.Machine.execAtomXchg d a ord sc s
  | .atomCas d a ord sc => Sys2Proof.Machine.execAtomCas d a ord sc s
  | .atomInc d a ord sc => Sys2Proof.Machine.execAtomInc d a ord sc s
  | .atomFadd d a ord sc => Sys2Proof.Machine.execAtomFadd d a ord sc s
  | .atomBf16x2 d a ord sc => Sys2Proof.Machine.execAtomBf16x2 d a ord sc s
  | .facc d a ord sc => Sys2Proof.Machine.execFacc d a ord sc s
  | .atomLd d a ord sc => Sys2Proof.Machine.execAtomLd d a ord sc s
  | .atomSt d a ord sc => Sys2Proof.Machine.execAtomSt d a ord sc s
  | .atomsAdd d a ord sc => Sys2Proof.Machine.execAtomsAdd d a ord sc s
  | .atomsMinI32 d a ord sc => Sys2Proof.Machine.execAtomsMinI32 d a ord sc s
  | .atomsMinN32 d a ord sc => Sys2Proof.Machine.execAtomsMinN32 d a ord sc s
  | .atomsMaxI32 d a ord sc => Sys2Proof.Machine.execAtomsMaxI32 d a ord sc s
  | .atomsMaxN32 d a ord sc => Sys2Proof.Machine.execAtomsMaxN32 d a ord sc s
  | .atomsAnd d a ord sc => Sys2Proof.Machine.execAtomsAnd d a ord sc s
  | .atomsOr d a ord sc => Sys2Proof.Machine.execAtomsOr d a ord sc s
  | .atomsXor d a ord sc => Sys2Proof.Machine.execAtomsXor d a ord sc s
  | .atomsXchg d a ord sc => Sys2Proof.Machine.execAtomsXchg d a ord sc s
  | .atomsCas d a ord sc => Sys2Proof.Machine.execAtomsCas d a ord sc s
  | .atomsInc d a ord sc => Sys2Proof.Machine.execAtomsInc d a ord sc s
  | .atomsFadd d a ord sc => Sys2Proof.Machine.execAtomsFadd d a ord sc s
  | .atomsBf16x2 d a ord sc => Sys2Proof.Machine.execAtomsBf16x2 d a ord sc s
  | .atomsLd d a ord sc => Sys2Proof.Machine.execAtomsLd d a ord sc s
  | .atomsSt d a ord sc => Sys2Proof.Machine.execAtomsSt d a ord sc s
  | .fence sc => Sys2Proof.Machine.execFence sc s
  | .fenceX sc paths => Sys2Proof.Machine.execFenceX sc paths s
  | .tex d a => Sys2Proof.Machine.execTex d a s
  | .texw d a b => Sys2Proof.Machine.execTexw d a b s
  | .texl d a => Sys2Proof.Machine.execTexl d a s
  | .boxt d a b => Sys2Proof.Machine.execBoxt d a b s
  | .trit d a b => Sys2Proof.Machine.execTrit d a b s
  | .xfrm d a b => Sys2Proof.Machine.execXfrm d a b s
  | .cpyreq d a off => Sys2Proof.Machine.execCpyreq d a off s
  | .cpyreqw d a off => Sys2Proof.Machine.execCpyreqw d a off s
  | .nbarInit a nb => Sys2Proof.Machine.execNbarInit a nb s
  | .nbarArrive nb => Sys2Proof.Machine.execNbarArrive nb s
  | .nbarExpect a nb => Sys2Proof.Machine.execNbarExpect a nb s
  | .nbarWait a nb => Sys2Proof.Machine.execNbarWait a nb s
  | .nbarTest d a nb => Sys2Proof.Machine.execNbarTest d a nb s
  | .emit d a b => Sys2Proof.Machine.execEmit d a b s
  | .recv d b => Sys2Proof.Machine.execRecv d b s
  | .capk a b => Sys2Proof.Machine.execCapk a b s
  | .capd a b => Sys2Proof.Machine.execCapd a b s
  | .capx a b => Sys2Proof.Machine.execCapx a b s
  | .fwait a b => Sys2Proof.Machine.execFwait a b s
  | .ftest d a b => Sys2Proof.Machine.execFtest d a b s
  | .trig a => Sys2Proof.Machine.execTrig a s
  | .launch a => Sys2Proof.Machine.execLaunch a s
  | .tlw a b => Sys2Proof.Machine.execTlw a b s
  | .slotArbitration => Sys2Proof.Machine.execSlotArbitration s
  | .groupFormation => Sys2Proof.Machine.execGroupFormation s
  | .loadReturn => Sys2Proof.Machine.execLoadReturn s
  | .qsampResult => Sys2Proof.Machine.execQsampResult s
  | .packetResult => Sys2Proof.Machine.execPacketResult s
  | .queueDeadlock => Sys2Proof.Machine.execQueueDeadlock s
  | .gatherClose => Sys2Proof.Machine.execGatherClose s
  | .mmaStart => Sys2Proof.Machine.execMmaStart s
  | .mmaSuspend => Sys2Proof.Machine.execMmaSuspend s
  | .mmaComplete => Sys2Proof.Machine.execMmaComplete s
  | .vxmComplete => Sys2Proof.Machine.execVxmComplete s
  | .scoreDecay => Sys2Proof.Machine.execScoreDecay s
  | .l2Request => Sys2Proof.Machine.execL2Request s
  | .retryResend => Sys2Proof.Machine.execRetryResend s
  | .tableWalk => Sys2Proof.Machine.execTableWalk s
  | .cohortPlacement => Sys2Proof.Machine.execCohortPlacement s
  | .cohortComplete => Sys2Proof.Machine.execCohortComplete s
  | .completionRecord => Sys2Proof.Machine.execCompletionRecord s
  | .copyTakeUp => Sys2Proof.Machine.execCopyTakeUp s
  | .copyLastBeat => Sys2Proof.Machine.execCopyLastBeat s
  | .multicastParked => Sys2Proof.Machine.execMulticastParked s
  | .multicastDrain => Sys2Proof.Machine.execMulticastDrain s
  | .flueBatchApply => Sys2Proof.Machine.execFlueBatchApply s
  | .counterFire => Sys2Proof.Machine.execCounterFire s
  | .frameTriggerFire => Sys2Proof.Machine.execFrameTriggerFire s
  | .haltLineArrival => Sys2Proof.Machine.execHaltLineArrival s
  | .stopComplete => Sys2Proof.Machine.execStopComplete s
  | .scratchUncorrectable => Sys2Proof.Machine.execScratchUncorrectable s
  | .softError => Sys2Proof.Machine.execSoftError s
  | .create => Sys2Proof.Machine.execCreate s
  | .resume => Sys2Proof.Machine.execResume s
  | .preempt => Sys2Proof.Machine.execPreempt s
  | .preemptDrained => Sys2Proof.Machine.execPreemptDrained s
  | .preemptSaved => Sys2Proof.Machine.execPreemptSaved s
  | .switchout => Sys2Proof.Machine.execSwitchout s
  | .switchoutComplete => Sys2Proof.Machine.execSwitchoutComplete s
  | .switchin => Sys2Proof.Machine.execSwitchin s
  | .destroy => Sys2Proof.Machine.execDestroy s
  | .ctxHalt => Sys2Proof.Machine.execCtxHalt s
  | .tlbinv => Sys2Proof.Machine.execTlbinv s
  | .tlbinvComplete => Sys2Proof.Machine.execTlbinvComplete s
  | .hostpt => Sys2Proof.Machine.execHostpt s
  | .hostClose => Sys2Proof.Machine.execHostClose s
  | .hostDoorbell => Sys2Proof.Machine.execHostDoorbell s
  | .hostRecord => Sys2Proof.Machine.execHostRecord s
  | .partitionEntryWrite => Sys2Proof.Machine.execPartitionEntryWrite s
  | .frameTriggerEnable => Sys2Proof.Machine.execFrameTriggerEnable s
  | .frameTriggerDisable => Sys2Proof.Machine.execFrameTriggerDisable s
  | .stepi => Sys2Proof.Machine.execStepi s
  | .stepr => Sys2Proof.Machine.execStepr s
  | .stepEnd => Sys2Proof.Machine.execStepEnd s
  | .causalTrialStart => Sys2Proof.Machine.execCausalTrialStart s
  | .causalTrialEnd => Sys2Proof.Machine.execCausalTrialEnd s
  | .smpctlWrite => Sys2Proof.Machine.execSmpctlWrite s
  | .stallSample => Sys2Proof.Machine.execStallSample s
  | .rdctlWrite => Sys2Proof.Machine.execRdctlWrite s
  | .rplbaseWrite => Sys2Proof.Machine.execRplbaseWrite s
  | .attgo => Sys2Proof.Machine.execAttgo s
  | .attestationComplete => Sys2Proof.Machine.execAttestationComplete s
  | .podJoin => Sys2Proof.Machine.execPodJoin s
  | .podLeave => Sys2Proof.Machine.execPodLeave s
  | .podResume => Sys2Proof.Machine.execPodResume s
  | .haltMessage => Sys2Proof.Machine.execHaltMessage s
  | .causeMessage => Sys2Proof.Machine.execCauseMessage s
  | .prepMessage => Sys2Proof.Machine.execPrepMessage s
  | .confirmMessage => Sys2Proof.Machine.execConfirmMessage s
  | .resentMessage => Sys2Proof.Machine.execResentMessage s
  | .releaseMessage => Sys2Proof.Machine.execReleaseMessage s
  | .releaseTimeReached => Sys2Proof.Machine.execReleaseTimeReached s
  | .flueMessage => Sys2Proof.Machine.execFlueMessage s
  | .digestMessage => Sys2Proof.Machine.execDigestMessage s
  | .fenceMessage => Sys2Proof.Machine.execFenceMessage s
  | .confirmTimeout => Sys2Proof.Machine.execConfirmTimeout s
  | .digestCompute => Sys2Proof.Machine.execDigestCompute s
  | .digestTimeout => Sys2Proof.Machine.execDigestTimeout s
  | .ualinkDataMessage => Sys2Proof.Machine.execUalinkDataMessage s
  | .dataAcknowledge => Sys2Proof.Machine.execDataAcknowledge s
  | .remoteResponseTimeout => Sys2Proof.Machine.execRemoteResponseTimeout s
  | .chunkLanding => Sys2Proof.Machine.execChunkLanding s
  | .collectiveMemberTimeout => Sys2Proof.Machine.execCollectiveMemberTimeout s
  | .linkDown => Sys2Proof.Machine.execLinkDown s
  | .ptpSync => Sys2Proof.Machine.execPtpSync s
  | .ptpSyncTimeout => Sys2Proof.Machine.execPtpSyncTimeout s
  | .ppsInput => Sys2Proof.Machine.execPpsInput s
  | .ppsOutput => Sys2Proof.Machine.execPpsOutput s
  | .freezeAssert => Sys2Proof.Machine.execFreezeAssert s
  | .freezeRelease => Sys2Proof.Machine.execFreezeRelease s
  | .extest => Sys2Proof.Machine.execExtest s
  | .idcode => Sys2Proof.Machine.execIdcode s
  | .samplePreload => Sys2Proof.Machine.execSamplePreload s
  | .bypass => Sys2Proof.Machine.execBypass s
  | .scanout => Sys2Proof.Machine.execScanout s
  | .powerThrottle => Sys2Proof.Machine.execPowerThrottle s
  | .thermalTrip => Sys2Proof.Machine.execThermalTrip s
  | .boot => Sys2Proof.Machine.execBoot s
  | .windowAccess => Sys2Proof.Machine.execWindowAccess s
  | .registerWrite => Sys2Proof.Machine.execRegisterWrite s
  | .textureResult => Sys2Proof.Machine.execTextureResult s
  | .rayTestResult => Sys2Proof.Machine.execRayTestResult s
  | .createComplete => Sys2Proof.Machine.execCreateComplete s
  | .switchinComplete => Sys2Proof.Machine.execSwitchinComplete s
  | .throttleCauseClears => Sys2Proof.Machine.execThrottleCauseClears s
  | .ualinkPortUp => Sys2Proof.Machine.execUalinkPortUp s
  | .joinConfirmation => Sys2Proof.Machine.execJoinConfirmation s
  | .ppsInputLoss => Sys2Proof.Machine.execPpsInputLoss s

end Sys2Proof.Machine
end

