-- ==== Sys2Proof/Machine/Issue.lean ====
section
/-! DEFINITION. What a step may do: the runs whose next instruction may issue, the events of the device that are due, and the inputs
from outside; the choice among them; the fetch of an instruction's word (R44, R53, R96, R197); and the state in which a given word is the
next instruction. -/

namespace Sys2Proof.Machine

/-- What a step does: a slot issues the next instruction of its run, an event of the device takes place, or an input is taken. -/
inductive Choice
  | slot (core slot : Nat)
  | event (i : Instr) (op : EvOp)
  | input (k : Nat)
  deriving DecidableEq, Repr

/-! Runs. -/

/-- Whether a run may issue its next instruction: its context has not stopped, or steps (R131, R337, R360). -/
def State.mayRun (s : State) (r : Run) : Bool :=
  match s.context? r.gk.ck.ctx with
  | some c => decide (c.st = .running) || decide (c.st = .halting) || c.stepping.isSome
  | none => false
/-- The slots of a core whose runs may issue: none while issue is withheld (R411), or while a trial idles the slot (R365). -/
def State.runSlots (s : State) (core : Nat) : List Nat :=
  (List.range 4).filter fun j => match ((s.core core).slot j).run with
    | some r => decide (((s.core core).slot j).idleUntil ≤ s.clock) && !s.mgmt.thr && s.mayRun r
    | none => false

/-! Events that are due. -/

/-- An event, if it is due. -/
def due (b : Bool) (i : Instr) (op : EvOp) : List (Instr × EvOp) := if b then [(i, op)] else []
/-- The events of a core (R138, R140, R144, R173, R174, R189, R362). -/
def State.coreEvents (s : State) (core : Nat) : List (Instr × EvOp) :=
  let e := (s.core core).eng
  ((List.range 4).flatMap fun j =>
    due (s.arbitrate core j).isSome .slotArbitration (.nat2 core j) ++
    due (match ((s.core core).slot j).run with | some r => (s.deadlocked core r).isSome | none => false) .queueDeadlock
      (.nat2 core j)) ++
  (e.gathers.flatMap fun g => due (decide (g.opened + 64 ≤ s.clock) || decide (64 ≤ g.rows.length)) .gatherClose (.nat2 core g.id)) ++
  (match e.running with
    | none => due (e.pick s.clock).isSome .mmaStart (.nat core)
    | some (q, start) =>
      due (!q.vxm && e.outranks s.clock q) .mmaSuspend (.nat core) ++
      due (!q.vxm && decide (start + (q.clocks - q.occupied) ≤ s.clock)) .mmaComplete (.nat core) ++
      due (q.vxm && decide (start + 8 ≤ s.clock)) .vxmComplete (.nat core)) ++
  due ((s.groupsOn core).any fun p => decide (p.2.decayed < s.clock / 1024)) .scoreDecay (.nat core) ++
  due (s.sampleDue core) .stallSample (.nat core)
/-- The events of a copy engine (R265, R272, R276, R277, R397). -/
def State.engineEvents (s : State) (e : Nat) : List (Instr × EvOp) :=
  (match s.current e with
    | none => []
    | some q =>
      due (decide (q.status = .queued) || decide (q.status = .waitSlot)) .copyTakeUp (.nat e) ++
      due (decide (q.status = .active) && match s.context? q.ck.ctx with | some c => !q.performed c | none => false) .l2Request
        (.src (.engine e))) ++
  due (s.performedOn e false).isSome .copyLastBeat (.nat e) ++
  due (s.performedOn e true).isSome .multicastParked (.nat e) ++
  (s.lateMembers e).map fun p => (.collectiveMemberTimeout, .nat2 e p.2)
/-- The unit step that brings a late result in (R101, R227). -/
def RetKind.instr : RetKind → Instr
  | .load => .loadReturn
  | .qsamp => .qsampResult
  | .packet => .packetResult
  | .texture => .textureResult
  | .ray => .rayTestResult
/-- The events of the memory system (R112, R117, R184, R197, R217, R227, R276, R385). -/
def State.memEvents (s : State) : List (Instr × EvOp) :=
  (s.rets.map fun r => (r.kind.instr, .nat r.id)) ++
  (s.cores.flatMap fun c => due (!(s.acceptable c.1).isEmpty) .l2Request (.src (.core c.1))) ++
  (s.reqs.flatMap fun q =>
    due (q.resends && decide (q.refusedAt + 64 ≤ s.clock)) .retryResend (.nat q.id) ++
    due (q.vdev.isSome && q.resp.isNone && match s.context? q.key.ck.ctx with
      | some c => decide (q.sentAt + c.rto ≤ s.clock)
      | none => false) .remoteResponseTimeout (.nat q.id)) ++
  (s.walks.flatMap fun w => due (!w.failed) .tableWalk (.nat w.id)) ++
  (s.holds.flatMap fun h => if h.2.2.parked then h.2.2.receivers.map fun r => (.multicastDrain, .nat3 h.1 h.2.1 r) else [])
/-- Whether a cohort has run to its end (R126). -/
def State.ended (s : State) (h : Cohort) : Bool :=
  (match h.st, s.context? h.key.ctx with
    | .resident v, some c => c.live (.core v)
    | .resident _, none => false
    | .waiting, _ | .saved _, _ | .killed _, _ => false) && s.allExited h.key && !s.cohortBusy h.key
/-- The events of the cohorts and launches of a context (R125, R126, R128, R301). -/
def State.launchEvents (s : State) (c : Context) : List (Instr × EvOp) :=
  ((s.cohorts.filter fun h => h.key.ctx == c.id).flatMap fun h =>
    due (s.cohortRuns h.key && !(s.formable h.key).isEmpty) .groupFormation (.nat3 c.id h.key.launch h.key.coh) ++
    due (s.ended h) .cohortComplete (.nat3 c.id h.key.launch h.key.coh)) ++
  (if (s.toPlace c.id (decide (c.st = .running))).isSome then
    (List.range 136).flatMap fun p => due (s.placeOn c p).isSome .cohortPlacement (.nat2 c.id p) else []) ++
  (s.launches.flatMap fun l => due (l.ctx == c.id && l.recordPending && decide (c.st = .running) &&
    decide (c.records.length < c.desc.rscount)) .completionRecord (.nat2 c.id l.id)) ++
  (match c.nextFire with | some k => [(.counterFire, .nat2 c.id k.idx)] | none => [])
/-- The batches that the nodes of a context, and the members of its job, may apply next (R295, R393). -/
def Context.batchEvents (c : Context) : List (Instr × EvOp) :=
  ((List.range c.nodes.length).flatMap fun d =>
    ((c.batches.filter fun b => (c.nextBatch d b.vdev b.srcId).isSome).map fun b => b.vdev * 65536 + b.srcId).eraseDups.map fun x =>
      (.flueBatchApply, .nat3 c.id d x)) ++
  ((c.batches.flatMap fun b => b.peers.map fun m => (m, b.srcId)).eraseDups.filter fun p => (c.nextAway p.1 p.2).isSome).map fun p =>
    (.flueBatchApply, .nat3 c.id (awayNode p.1) p.2)
/-- The events of a context's stop, commands, steps, trials, remap tables and place in a pod (R337, R339, R349, R350, R352, R360, R365,
R392, R398). -/
def State.contextEvents (s : State) (c : Context) : List (Instr × EvOp) :=
  (if c.st = .halting then
    ((c.unitsOf.filter fun u => !c.stopped.contains u).map fun u => (.haltLineArrival, .stop c.id u)) ++
    due (c.unitsOf.all c.stopped.contains) .stopComplete (.nat c.id) else []) ++
  due (decide (c.st = .saving)) .switchoutComplete (.nat c.id) ++
  (c.pre.map fun p => match p.2 with
    | .drain => (.preemptDrained, .nat2 c.id p.1)
    | .save => (.preemptSaved, .nat2 c.id p.1)) ++
  due c.stepping.isSome .stepEnd (.nat c.id) ++
  due (c.dbg.trial && decide (c.dbg.cxStart + c.dbg.cxlen.toNat ≤ s.clock)) .causalTrialEnd (.nat c.id) ++
  due (s.releaseDue c) .releaseTimeReached (.nat c.id) ++
  due (!(s.unanswered c).isEmpty) .confirmTimeout (.nat c.id) ++
  due (s.mapReady c).isSome .registerWrite (.nat c.id) ++
  due c.digestDue .digestCompute (.nat c.id) ++
  due (s.digestLate c).isSome .digestTimeout (.nat c.id)
/-- The events of the rest of the device (R201, R302, R303, R345, R349, R399, R412, R413). -/
def State.deviceEvents (s : State) : List (Instr × EvOp) :=
  (match s.mgmt.creating with | some (ctx, _) => [(.createComplete, .nat ctx)] | none => []) ++
  (match s.mgmt.restoring with | some (ctx, _) => [(.switchinComplete, .nat ctx)] | none => []) ++
  due (s.mgmt.tlbinv.getLsbD 31) .tlbinvComplete .none ++
  due (s.contexts.any Context.canUnhold || !s.bells.isEmpty) .hostRecord .none ++
  (s.units.flatMap fun u => due (s.unitDue u.1).isSome .frameTriggerFire (.nat u.1)) ++
  due s.mgmt.attgo .attestationComplete .none ++
  due s.syncLost .ptpSyncTimeout .none ++ due s.ppsLost .ppsInputLoss .none ++ due s.ppsDue .ppsOutput .none ++
  due (decide (s.mgmt.bootstat < 0xE)) .boot .none
/-- Every event of the device that is due. -/
def State.events (s : State) : List (Instr × EvOp) :=
  (s.cores.flatMap fun c => s.coreEvents c.1) ++ (s.engines.flatMap fun e => s.engineEvents e.1) ++ s.memEvents ++
  (s.contexts.flatMap fun c => s.launchEvents c ++ c.batchEvents ++ s.contextEvents c) ++ s.deviceEvents

/-! Inputs. -/

/-- Where an input comes from: 0 the host, 1 control traffic of other devices, 2 the pins, the sensors and the ports, 3 data traffic of other
devices. Inputs of one origin are taken in their order; between origins the order is free. -/
def originOf : Instr → Nat
  | .haltMessage | .causeMessage | .prepMessage | .confirmMessage | .resentMessage | .releaseMessage | .flueMessage | .digestMessage
  | .fenceMessage | .joinConfirmation => 1
  | .ualinkDataMessage | .dataAcknowledge | .chunkLanding => 3
  | .scratchUncorrectable | .softError | .linkDown | .ualinkPortUp | .ptpSync | .ppsInput | .freezeAssert | .freezeRelease | .extest
  | .idcode | .samplePreload | .bypass | .scanout | .powerThrottle | .throttleCauseClears | .thermalTrip => 2
  | _ => 0
/-- Whether a device whose clocks stand still takes an input (R369). -/
def whileFrozen : Instr → Bool
  | .freezeRelease | .extest | .idcode | .samplePreload | .bypass | .scanout => true
  | _ => false
/-- The places of the inputs that may be taken next. -/
def State.inputChoices (s : State) : List Nat :=
  let first := fun (p : Instr → Bool) => let k := s.inputs.findIdx fun x => p x.1
                                         if k < s.inputs.length then [k] else []
  if s.frozen then first whileFrozen
  else [0, 1, 2, 3].flatMap fun o => first fun i => originOf i == o
/-- Whether the host can reach the device for an input (R412): the window opens at READY; after a boot that failed only the
identification block answers. -/
def State.reachable (s : State) (i : Instr) (op : EvOp) : Bool :=
  originOf i != 0 || s.mgmt.bootstat == 0xF || (s.mgmt.bootstat == 0xE && match i with
    | .attgo => true
    | .registerWrite => (match op with | .natWord off _ => decide (off < 0x2000) | _ => false)
    | _ => false)

/-! The choice. -/

/-- Everything that may happen next: nothing but inputs while the clocks stand still (R369). -/
def State.choices (s : State) : List Choice :=
  (if s.frozen then []
   else (s.cores.flatMap fun c => (s.runSlots c.1).map fun j => .slot c.1 j) ++ s.events.map fun e => .event e.1 e.2) ++
  s.inputChoices.map .input
/-- What happens next: of several things any one (log entry 7). -/
def State.choose (s : State) : Option Choice × State :=
  match s.choices with
  | [] => (none, s)
  | [x] => (some x, s)
  | x :: y :: rest =>
    let f := s.useFree
    (some ((x :: y :: rest).getD (Config.freeNat f.1 % (rest.length + 2)) x), f.2)
/-- Clocks pass, and the time port's clock with them, unless FREEZE holds (R38, R98, R369). -/
def State.tick (s : State) : State :=
  if s.frozen then s
  else { s with clock := s.clock + Config.freeNat s.free,
                time := { s.time with ns := s.time.ns + Config.freeNat (s.free + 1) }, free := s.free + 2 }
/-- Remembers when anything but the wait of the issuing slot came to pass. -/
def State.noteMove (s : State) : State :=
  match s.issuing with
  | some i => if i.run.stalledSince.isSome && i.run.tested == s.clock then s else { s with moved := s.clock }
  | none => { s with moved := s.clock }
/-- The outcome of an instruction, and the clocks that pass. -/
def ticked : Out → Out
  | .next s => .next s.noteMove.tick
  | .fault f => .fault f
  | .refused r => .refused r
/-- The clock goes on. -/
def State.nextClock (s : State) : State := { s with clock := s.clock + 1 }
/-- Whether an event brings a credit or an arrival of a copy to a barrier (R277, R312). -/
def isCopyEvent : Instr → Bool
  | .copyLastBeat | .multicastParked | .multicastDrain => true
  | _ => false
/-- The state in which an event takes place: the copy events of a clock come before what its slots issue (R312). -/
def State.forEvent (s : State) (i : Instr) (op : EvOp) : State :=
  let t : State := { s with cur := none, op := op }
  if isCopyEvent i && s.cores.any fun c => c.2.turn.1 == s.clock && c.2.turn.2 != 0 then t.nextClock else t
/-- The input at a place, and the state in which it takes place; none where it cannot reach the device. -/
def State.forInput (s : State) (k : Nat) : Option Instr × State :=
  match s.inputs[k]? with
  | none => (none, s)
  | some x =>
    let t : State := { s with cur := none, op := x.2, inputs := s.inputs.eraseIdx k }
    (if s.reachable x.1 x.2 then some x.1 else none, t)

/-! The fetch of a word. -/

/-- The word at the pc, as the core holds it or as the slices do: without FENCE.I either one, whole (R44, R96). -/
def State.wordAt (s : State) (i : Iss) (c : Context) (pa : Nat) : W32 × State :=
  let pc := i.run.pc.toNat
  let new := w32 (s.readNat pa 4)
  let keep := fun (s : State) => s.updCore i.core fun x =>
    { x with fetchBuf := (c.id, pc, new) :: x.fetchBuf.filter fun e => !(e.1 == c.id && e.2.1 == pc) }
  match (s.core i.core).fetchBuf.find? fun e => e.1 == c.id && e.2.1 == pc with
  | none => (new, keep s)
  | some e =>
    if e.2.2 = new then (new, s)
    else
      let f := s.useFree
      if Config.freeBool f.1 then (e.2.2, f.2) else (new, keep f.2)
/-- The fetch of an instruction's word (R197, R200, R217, R343, R384): each member's translation, then the word, and what follows
with it; a fault is the instruction's, at rank 6, and an address in the apertures of the copy engines is PROTECTION ahead of it (R264). The fetch
follows the core's earlier requests to the slice (R184). -/
def State.fetch (s : State) (i : Iss) (go : W32 → State → Out) : Out :=
  match s.context? i.ck.ctx with
  | none => .next s
  | some c =>
    let ms := s.members i
    if inAperture c i.run.pc then .next (s.takeTrap i (i.run.members.headD 0) (.addrProt i.run.pc false)) else
    let r : List (Thread × XR) × State := ms.foldl (fun acc t =>
      let q := acc.2.xlate c (physDie i.core) (.core i.core) i.run.pc .fetch t.who
      (acc.1 ++ [(t, q.1)], q.2)) ([], s)
    let low := i.run.members.headD 0
    let poison := Trap.xlate i.run.pc .fetch .pageFault false false true
    match firstTrap (r.1.map fun p => (p.1.key.tid, match p.2 with
        | .trap t => some t
        | .ok _ _ _ | .pinned _ => none)) with
    | some (t, x) => .next (r.2.takeTrap i t x)
    | none =>
      match r.1.findSome? fun p => match p.2 with
          | .pinned l => some l
          | .ok _ _ _ | .trap _ => none with
      | some l => .next (r.2.waitPinned i l)
      | none =>
        match (r.1.head?.map fun p => p.2 : Option XR) with
        | some (.ok none pa _) =>
          let s1 := r.2.drainFor i.core pa
          if s1.refused (.core i.core) (pa / 64) then .next (s1.waitPinned i (some (pa / 64)))
          else if s1.poisoned pa 4 then .next (s1.takeTrap i low poison)
          else
            let w := s1.wordAt i c pa
            go w.1 (w.2.clearProbes i)
        | some (.ok (some v) pa _) =>
          (match r.2.answer i.head v pa 4 with
            | none => .next ((r.2.askFor (.core i.core) i.head v false [readAcc pa 4]).stall i [])
            | some (.ok b) => go (w32 (leNat b)) (r.2.dropAnswers i.head)
            | some (.error e) =>
              let bad := decide (e = .malformed)
              .next ((r.2.dropAnswers i.head).takeTrap i low (Trap.xlate i.run.pc .fetch .pageFault bad false !bad)))
        | some (.trap _) => .next s
        | some (.pinned _) => .next s
        | none => .next s
/-- The slot that issues, with the E bit of its word (R46, R131). -/
def State.withE (s : State) (i : Iss) (w : W32) : State :=
  s.updSlot i.core i.slot fun x => { x with run := x.run.map fun r => { r with e := runEnd w } }
/-- The state in which a slot issues: in one clock the slots of a core come in their order, each once (R133, R312). -/
def State.forSlot (s : State) (core slot : Nat) : State :=
  let t : State := { s with cur := some (core, slot), op := .none }
  let turn := (s.core core).turn
  let u := if turn.1 == s.clock && decide (slot + 1 < turn.2) then t.nextClock else t
  u.updCore core fun c => { c with turn := (u.clock, slot + 2) }

/-! A word to run next. -/

/-- The header of the launch in which a given word runs: one cohort of one thread, in supervisor mode. -/
def probeHeader : Header :=
  { raw := List.replicate 256 0, idem := false, det := false, rpl := 0, supl := true, gx := 1, gy := 1, gz := 1, tdepth := 0,
    scratch := 65536, textbase := 0, bpbase := 0, donech := 0xFFFF, intime := 0,
    roles := [{ entry := 0, aentry := 0, gallot := 128, wallot := 32, ngroups := 1, gsize := 1, split := false, mclass := 0 }],
    bp := [(0, 0x8000)] }
/-- The launch in which a given word runs. -/
def probeLaunch : Launch :=
  { ctx := 1, id := 1, order := 0, hdr := probeHeader, sup := true, nextCoh := 1, remaining := 1, binding := .none, holdsCap := false,
    ordinal := none, recordPending := false }
/-- The context in which a given word runs, on core 0, with one location of depth 0 and a page table at 0x1_0000. -/
def probeContext : Context :=
  let d : Desc := { descOf (natLe 136 0) with ctxid := 1, ptroot := 0x10000, privbase := 0x10000, privshift := 16, privcohs := 1,
                                              apbase := 0xFFFE0000000000#64, rscount := 64, dtcount := 1, seqn := 1 }
  let g : Graph := { depths := [0], sums := [], edges := [], image := [] }
  { Context.fresh d g with st := .running, nextLaunch := 2, launchOrder := 1, nodes := List.replicate 4 (FlueNode.fresh 1),
                           cores := [(0, 0)], engs := (List.range 32).map fun e => (e, e) }
/-- Memory with a word at 0x4_0000, and the page tables that map virtual address 0 to it: readable, writable and executable. -/
def probeMem (m : List Host.Cell) (w : W32) : List Host.Cell :=
  let pte := fun (m : List Host.Cell) (pa v : Nat) => Memory.write m pa (natLe 8 v)
  Memory.write (pte (pte (pte (pte m 0x10000 0x20003) 0x20000 0x30003) 0x30000 0x31003) 0x31000 0x4001D) 0x40000 (bytesOfWord w)
/-- The translation of the page of that word in each structure that core 0 uses. -/
def probeTlb : List TlbEntry :=
  [.micro 0, .core 0, .shared 0].map fun l => { lvl := l, ctx := 1, vbase := 0, size := 65536, pte := 0x4001D }
/-- The device that runs a given word next: booted, with nothing under way but one run at that word. -/
def State.probe (s : State) (w : W32) : State :=
  let p := natLe 8 1 ++ natLe 24 0 ++ natLe 4 1 ++ natLe 2 512 ++ natLe 6 0 ++ natLe 1 1 ++ natLe 19 0
  let s1 : State :=
    { s with threads := [], groups := [], cohorts := [], launches := [probeLaunch], contexts := [probeContext], cores := [],
             engines := [], holds := [], mem := probeMem s.mem w, poison := [], shadow := [], pins := [], tlb := probeTlb, walks := [],
             reqs := [], rets := [], units := [], bells := [], inputs := [], frozen := false,
             mgmt := { Mgmt.fresh with bootstat := 0xF, parts := Mgmt.fresh.parts.set 0 p },
             time := { s.time with locked := false, pps := false, outSecond := s.time.ns / second } }
  let ck : CohKey := { ctx := 1, launch := 1, coh := 0 }
  let s2 := s1.startCohort probeContext probeLaunch ck 0 [] 0
  (s2.takeEntry 0 0 { ck := ck, gid := 0 } (readyEntry false 0 0x8000 [0] s.clock) false).2

end Sys2Proof.Machine
end

