-- ==== Sys2Proof/Machine/Step.lean ====
section
/-! DEFINITION. One step of the device: what happens next is chosen and takes place, and clocks pass. -/

namespace Sys2Proof.Machine

/-- A slot issues (R46, R53, R87, R131): the word at the pc of its run is fetched and decoded; the instruction runs, or the word raises
ILLEGAL_ENCODING. -/
def State.issue (s : State) : Out :=
  match s.issuing with
  | none => .next s
  | some i => s.fetch i fun w s1 =>
    match decodeWord w with
    | .ok ins => exec ins (s1.withE i w)
    | .error _ => .next ((s1.withE i w).takeTrap i (i.run.members.headD 0) .illegal)

/-- What was chosen takes place. -/
def State.perform (s : State) : Option Choice → Out
  | none => .next s
  | some (.slot core slot) => (s.forSlot core slot).issue
  | some (.event i op) => exec i (s.forEvent i op)
  | some (.input k) =>
    match s.forInput k with
    | (some i, s1) => exec i s1
    | (none, s1) => .next s1

/-- One step. -/
def step (s : State) : Host.Outcome State Fault Refusal :=
  let c := s.choose
  ticked (c.2.perform c.1)

/-- The device with a given instruction as the next that it runs (log entry 9): its word lies in memory, and one run stands at it. -/
def State.withFetchWord (s : State) (nbits w : Nat) : State := s.probe (BitVec.ofNat 32 (w % 2 ^ nbits))

end Sys2Proof.Machine
end

