-- ==== Sys2Proof/Safety.lean ====
section
/-! DEFINITION. What a safe run of the device is: the invariants of its state that every step is to keep, and a run without a fault. -/

namespace Sys2Proof.Machine

/-- Memory is in its canonical form (log entry 3). -/
def State.memOk (s : State) : Prop := Memory.wf s.mem = true
/-- A run of n steps meets neither a fault nor a refusal. -/
def safeFor : Nat → State → Prop
  | 0, _ => True
  | n + 1, s => match step s with
    | .next t => safeFor n t
    | .fault _ => False
    | .refused _ => False

end Sys2Proof.Machine
end

