-- ==== Sys2Proof/Certificates/Slice0/Obligations.lean ====
section
/-! DEFINITION. The statements about the model that the provers prove, and the words they are written in: when an
instruction executes normally, what it leaves alone, and, per family, the results in the specification's own arithmetic. -/

namespace Sys2Proof.Claims

open Sys2Proof.Machine

/-! When an instruction of the issuing entry executes: it issues, every member's operand fields are inside its allotments
and legal in its stream (R33, R35, R37, R186, R187), and no member waits for a register, a queue entry or a queue place
(R134, R188, R189). -/

/-- The issuing entry `i` may execute an instruction with operand fields `fs` that the streams `st` may run. -/
structure Ready (s : State) (i : Iss) (st : Stream) (fs : List Fld) : Prop where
  issuing : s.issuing = some i
  operands : ∀ m ∈ s.members i, m.operandTrap st fs = none
  pops : ∀ m ∈ s.members i, s.queueDead m fs = none
  queues : ∀ m ∈ s.members i, s.queueWait m fs = none
  scoreboard : ∀ m ∈ s.members i, ∀ f ∈ fs, s.fieldBusy m f = false

/-- Everything an instruction that acts on its members' registers alone leaves as it was: the threads that are no members,
all of a cohort but its queues, the other groups, the other slots and everything else of the cores, every byte of memory,
and every other part of the device but the list of results under way. A causal experiment may count the execution (R365). -/
structure Frame (s t : State) (i : Iss) : Prop where
  threads : ∀ k, (∀ m ∈ s.members i, m.key ≠ k) → t.thread? k = s.thread? k
  cohorts : t.cohorts.map (fun c => { c with queues := [] }) = s.cohorts.map (fun c => { c with queues := [] })
  groups : ∀ gk, gk ≠ i.run.gk → t.group? gk = s.group? gk
  slots : ∀ c j, ¬(c = i.core ∧ j = i.slot) → (t.core c).slot j = (s.core c).slot j
  cores : ∀ c, { t.core c with slots := [] } = { s.core c with slots := [] }
  contexts : t.contexts = (s.countProgress i).contexts
  memory : ∀ a, Memory.readByte t.mem a = Memory.readByte s.mem a
  rest : t = { s with threads := t.threads, cohorts := t.cohorts, groups := t.groups, contexts := t.contexts,
                      cores := t.cores, rets := t.rets, nextId := t.nextId }

/-- Whether the run ends with the instruction (R131): the instruction ends it, its run-end flag is 1, it is the 24th, or
a debug step issues one instruction. -/
def runEnds (i : Iss) (ends : Bool) : Bool := ends || i.run.e || decide (24 ≤ i.run.count + 1) || i.run.single

/-- A run that goes on past its instruction: the next word, one more instruction counted, and no wait of its own. -/
def wentOn (r : Run) : Run :=
  let r : Run := { r with pc := nextPc r.pc, count := r.count + 1, stalledSince := none }
  { r with waits := [], needs := [], noMatch := false }

/-- Where execution goes (R87, R131): while the run goes on, its next instruction is the next word; when it ends, the slot is
free and every member stands in its group's frontier at its own next program counter. -/
structure Continues (s t : State) (i : Iss) (ends : Bool) (next : Thread → W64) : Prop where
  goesOn : runEnds i ends = false → ((t.core i.core).slot i.slot).run =
    some (wentOn i.run)
  ended : runEnds i ends = true → ((t.core i.core).slot i.slot).run = none ∧
    ∀ g, s.group? i.run.gk = some g → ∃ g', t.group? i.run.gk = some g' ∧
      ∀ m ∈ s.members i, ∃ en ∈ g'.frontier, en.addr = i.run.addr ∧ en.pc = next m ∧ m.key.tid ∈ en.members

/-- The instruction acts on its members' own threads: each becomes `new`, and nothing else changes but the place of
execution. -/
structure Acts (s t : State) (i : Iss) (ends : Bool) (new : Thread → Thread) (next : Thread → W64) : Prop where
  members : ∀ m ∈ s.members i, t.thread? m.key = some (new m)
  frame : Frame s t i
  continues : Continues s t i ends next
  results : t.rets = s.rets ∧ t.nextId = s.nextId

/-- The instruction hands its results to a unit that lands them later (R101, R112): each member becomes `new` at once, and one
result of the unit per member, with the destinations `dests` that its number and the member give, is under way. -/
structure Hands (s t : State) (i : Iss) (unit : RetKind) (new : Thread → Thread) (dests : Nat → Thread → List Dest) :
    Prop where
  members : ∀ m ∈ s.members i, t.thread? m.key = some (new m)
  frame : Frame s t i
  continues : Continues s t i false fun _ => nextPc i.run.pc
  results : t.rets = s.rets ++ (s.members i).mapIdx fun n m =>
    { id := s.nextId + n, kind := unit, dests := dests (s.nextId + n) m }
  ids : t.nextId = s.nextId + (s.members i).length

/-- The instruction transfers no control: every member goes on at the next word (R87). -/
def fall (i : Iss) : Thread → W64 := fun _ => nextPc i.run.pc

/-! Results, in the arithmetic of R66: exact integers, reduced at the end. -/

/-- g[d] := v. -/
def toSlot (d : Slot) (v : W32) (m : Thread) : Thread := m.writeSlot d.toNat v
/-- {g[d+1], g[d]} := v; a pair at slot 0 takes nothing (R35). -/
def toPair (d : Slot) (v : W64) (m : Thread) : Thread :=
  if d = 0 then m else (m.writeSlot d.toNat (v.extractLsb' 0 32)).writeSlot (d.toNat + 1) (v.extractLsb' 32 32)
/-- Wrap32 and Wrap64 of an exact integer (R66). -/
def wrapTo (n : Nat) (x : Int) : BitVec n := BitVec.ofInt n x
/-- 1 where the condition holds, else 0. -/
def bit (p : Prop) [Decidable p] : W32 := if p then 1 else 0
/-- The operand with the smaller key. -/
def smaller {n : Nat} (key : BitVec n → Int) (a b : BitVec n) : BitVec n := if key b < key a then b else a
/-- The operand with the larger key. -/
def larger {n : Nat} (key : BitVec n → Int) (a b : BitVec n) : BitVec n := if key a < key b then b else a
/-- Ux: the unsigned value (R66). -/
def ux {n : Nat} (v : BitVec n) : Int := v.toNat
/-- Sx: the two's-complement value (R66). -/
def sx {n : Nat} (v : BitVec n) : Int := v.toInt
/-- The position of the first of 32 places at which a word has a one; 32 where it has none. -/
def firstOne (place : Nat → Nat) (a : W32) : Nat := ((List.range 32).find? fun k => a.getLsbD (place k)).getD 32

/-- The form of an instruction on general registers: its fields in the order d, a, b, and what a member becomes by what it
reads. -/
structure RegForm where
  stream : Stream := .both
  fields : List Fld
  new : Reads → Thread → Thread

/-- d, a, b: g[d] := f g[a] g[b]. -/
def form3 (d a b : Slot) (f : W32 → W32 → W32) : RegForm :=
  { fields := [.dg d, .g a, .g b], new := fun r => toSlot d (f (r.x 1) (r.x 2)) }
/-- d, a: g[d] := f g[a]. -/
def form2 (d a : Slot) (f : W32 → W32) : RegForm := { fields := [.dg d, .g a], new := fun r => toSlot d (f (r.x 1)) }
/-- d, a, b with d read: g[d] := f g[d] g[a] g[b]. -/
def form3d (d a b : Slot) (f : W32 → W32 → W32 → W32) : RegForm :=
  { fields := [.rwg d, .g a, .g b], new := fun r => toSlot d (f (r.x 0) (r.x 1) (r.x 2)) }
/-- D, A, B: pairs. -/
def formP (d a b : Slot) (f : W64 → W64 → W64) : RegForm :=
  { fields := [.dgs d 2, .gs a 2, .gs b 2], new := fun r => toPair d (f (r.p 1) (r.p 2)) }
/-- D, A, b: pairs and a slot. -/
def formPs (d a b : Slot) (f : W64 → W32 → W64) : RegForm :=
  { fields := [.dgs d 2, .gs a 2, .g b], new := fun r => toPair d (f (r.p 1) (r.x 2)) }
/-- d, A, B: a compare of pairs. -/
def formPc (d a b : Slot) (f : W64 → W64 → W32) : RegForm :=
  { fields := [.dg d, .gs a 2, .gs b 2], new := fun r => toSlot d (f (r.p 1) (r.p 2)) }
/-- D, a, b: a wide product of slots. -/
def formW (d a b : Slot) (f : W32 → W32 → W64) : RegForm :=
  { fields := [.dgs d 2, .g a, .g b], new := fun r => toPair d (f (r.x 1) (r.x 2)) }

/-- The amount of a 32-bit shift or rotate: b[4:0]. -/
def amt (b : W32) : Nat := b.toNat % 32
/-- The amount of a 64-bit shift: g[b][5:0]. -/
def amt6 (b : W32) : Nat := b.toNat % 64

/-- Bits [pos + len - 1 : pos] of a word, as an exact integer. -/
def bitsAt (a : W32) (pos len : Nat) : Int := ux a / 2 ^ pos % 2 ^ len
/-- Element i of width w, signed or not (R84). -/
def element (signed : Bool) (w : Nat) (x : W32) (i : Nat) : Int :=
  if signed then sx ((x >>> (w * i)).setWidth w) else ux ((x >>> (w * i)).setWidth w)
/-- The exact sum of R84. -/
def dotSum (w : Nat) (sa sb : Bool) (d a b : W32) : Int :=
  sx d + ((List.range (32 / w)).map fun i => element sa w a i * element sb w b i).sum
/-- IDP (R84): the compute stream's, with .sat clamping. -/
def formDot (w : Nat) (d a b : Slot) (sat sa sb : Bool) : RegForm :=
  { form3d d a b (fun d a b => wrapTo 32 (if sat then max (-(2 ^ 31)) (min (dotSum w sa sb d a b) (2 ^ 31 - 1))
                                          else dotSum w sa sb d a b)) with stream := .compute }

/-- The instruction has a form's effect: if it is well formed, then in every state in which it may execute it completes with
the members' registers at the form's results and nothing else changed (R66, R87). -/
def Does (x : Instr) (f : RegForm) : Prop :=
  x.wf = true → ∀ s i, Ready s i f.stream f.fields →
    ∃ t, exec x s = .next t ∧ Acts s t i false (fun m => f.new (s.readFields m f.fields) m) (fall i)

/-! Floating-point forms. -/

/-- ORs raised flags into FLAGS, %status bits [4:0] (R41). -/
def orFlags (f : Fl) (m : Thread) : Thread := { m with status := m.status ||| f.zeroExtend 32 }
/-- EN, %status bits [20:16] (R39). -/
def enabled (m : Thread) : Fl := m.status.extractLsb' 16 5

/-- The form of a floating-point instruction: its fields, and the flags and the new registers of a member by what it
reads. -/
structure FpForm where
  fields : List Fld
  res : Thread → Reads → Fl × (Thread → Thread)

/-- A scalar result: flags and a bit pattern for slot d. -/
def scalar (d : Slot) (r : Fl × Nat) : Fl × (Thread → Thread) := (r.1, toSlot d (BitVec.ofNat 32 r.2))
/-- A packet result. -/
def packetTo (d : Slot) (fl : Fl) (v : W128) : Fl × (Thread → Thread) := (fl, fun m => m.writeW d.toNat v)
/-- d, a, b. -/
def fp3 (d a b : Slot) (f : Thread → W32 → W32 → Fl × Nat) : FpForm :=
  { fields := [.dg d, .g a, .g b], res := fun m r => scalar d (f m (r.x 1) (r.x 2)) }
/-- d, a. -/
def fp2 (d a : Slot) (f : Thread → W32 → Fl × Nat) : FpForm :=
  { fields := [.dg d, .g a], res := fun m r => scalar d (f m (r.x 1)) }
/-- d, a, b with d read. -/
def fp3d (d a b : Slot) (f : Thread → W32 → W32 → W32 → Fl × Nat) : FpForm :=
  { fields := [.rwg d, .g a, .g b], res := fun m r => scalar d (f m (r.x 0) (r.x 1) (r.x 2)) }
/-- A pattern as a number of a format. -/
def num (f : FPar) (x : W32) : FV := decodeF f x.toNat
/-- The 16-bit element k of a pair (R81). -/
def elem16 (f : FPar) (x : W32) (k : Nat) : FV := decodeF f (x.extractLsb' (16 * k) 16).toNat
/-- FArith (R75) of two operands in a mode; the third is not read. -/
def arith2 (op : FOp) (f : FPar) (mode : RMode) (x y : FV) : Fl × Nat := fArith op x y (.fin false 0 0) f mode
/-- Both elements of a pair, flags ORed (R81). -/
def both (g : Nat → Fl × Nat) : Fl × Nat := ((g 0).1 ||| (g 1).1, (g 1).2 * 2 ^ 16 + (g 0).2)
/-- The four samples of a packet, flags ORed (R104, R106). -/
def fourSamples (g : Nat → Fl × Nat) : Fl × W128 :=
  ((g 0).1 ||| (g 1).1 ||| (g 2).1 ||| (g 3).1,
   BitVec.ofNat 32 (g 3).2 ++ BitVec.ofNat 32 (g 2).2 ++ BitVec.ofNat 32 (g 1).2 ++ BitVec.ofNat 32 (g 0).2)
/-- Sample k of a packet (R37). -/
def sampleOf (v : W128) (k : Nat) : W32 := v.extractLsb' (32 * k) 32
/-- Sample k of a packet as an FP32 number. -/
def numAt (v : W128) (k : Nat) : FV := num parF32 (sampleOf v k)
/-- d, a, b packets: every sample. -/
def wp3 (d a b : Slot) (f : Thread → W128 → W128 → Nat → Fl × Nat) : FpForm :=
  { fields := [.dw d, .w a, .w b],
    res := fun m r => let q := fourSamples (f m (r.pk 1) (r.pk 2)); packetTo d q.1 q.2 }

/-- The instruction completes with a floating-point form's effect where no member raises an enabled flag: the result and the
flags, and nothing else (R41, R66, R67, R87). -/
def DoesFp (x : Instr) (f : FpForm) : Prop :=
  x.wf = true → ∀ s i, Ready s i .compute f.fields →
    (∀ m ∈ s.members i, (f.res m (s.readFields m f.fields)).1 &&& enabled m = 0) →
    ∃ t, exec x s = .next t ∧
      Acts s t i false (fun m => orFlags (f.res m (s.readFields m f.fields)).1 ((f.res m (s.readFields m f.fields)).2 m))
        (fall i)
/-- The first member, in membership order, of which something holds. -/
def First (s : State) (i : Iss) (p : Thread → Prop) (m : Thread) : Prop :=
  ∃ pre post, s.members i = pre ++ m :: post ∧ p m ∧ ∀ u ∈ pre, ¬p u
/-- The instruction takes FP_EXCEPTION where some member raises an enabled flag, with the flags of the first such member in
the record, and writes no register (R41, R67, R336). -/
def TrapsFp (x : Instr) (f : FpForm) : Prop :=
  x.wf = true → ∀ s i, Ready s i .compute f.fields → ∀ m,
    First s i (fun m => (f.res m (s.readFields m f.fields)).1 &&& enabled m ≠ 0) m →
    exec x s = .next (s.takeTrap i m.key.tid
      { rank := 100, cause := .fpException, info1 := (f.res m (s.readFields m f.fields)).1.zeroExtend 64 })

/-- The forms of R75 to R83 on scalars and pairs, by rounding mode: those with a rounding field use it, the others RM. -/
def fpForms (d a b : Slot) : List (Instr × FpForm) :=
  let pair2 := fun (op : FOp) (f : FPar) =>
    fp3 d a b fun m x y => both fun k => arith2 op f m.dyn (elem16 f x k) (elem16 f y k)
  let pairFma := fun (f : FPar) =>
    fp3d d a b fun m z x y => both fun k => fArith .fma (elem16 f x k) (elem16 f y k) (elem16 f z k) f m.dyn
  let pairMin := fun (f : FPar) (mx : Bool) => fp3 d a b fun _ x y => both fun k =>
    fMinMax f mx (x.extractLsb' (16 * k) 16).toNat (y.extractLsb' (16 * k) 16).toNat
  [(.fmin d a b, fp3 d a b fun _ x y => fMinMax parF32 false x.toNat y.toNat),
   (.fmax d a b, fp3 d a b fun _ x y => fMinMax parF32 true x.toNat y.toNat),
   (.fseq d a b, fp3 d a b fun _ => fCompare .eq), (.fslt d a b, fp3 d a b fun _ => fCompare .lt),
   (.fsle d a b, fp3 d a b fun _ => fCompare .le), (.fsun d a b, fp3 d a b fun _ => fCompare .un),
   (.haddBf16 d a b, pair2 .add parBF16), (.hsubBf16 d a b, pair2 .sub parBF16), (.hmulBf16 d a b, pair2 .mul parBF16),
   (.haddF16 d a b, pair2 .add parF16), (.hsubF16 d a b, pair2 .sub parF16), (.hmulF16 d a b, pair2 .mul parF16),
   (.hfmaBf16 d a b, pairFma parBF16), (.hfmaF16 d a b, pairFma parF16),
   (.hminBf16 d a b, pairMin parBF16 false), (.hmaxBf16 d a b, pairMin parBF16 true),
   (.hminF16 d a b, pairMin parF16 false), (.hmaxF16 d a b, pairMin parF16 true),
   (.bdot2 d a b, fp3d d a b fun m z x y => sumRound parF32 m.dyn
      [mulFV (elem16 parBF16 x 0) (elem16 parBF16 y 0), mulFV (elem16 parBF16 x 1) (elem16 parBF16 y 1),
       some (num parF32 z)]),
   (.pk2Bf16 d a b, fp3 d a b fun m x y => both fun k => convF parBF16 false m.dyn (num parF32 (if k = 0 then x else y))),
   (.pk2F16 d a b, fp3 d a b fun m x y => both fun k => convF parF16 false m.dyn (num parF32 (if k = 0 then x else y)))]
/-- FADD, FSUB, FMUL and FFMA of a type in a rounding mode (R75). -/
def fpArith (d a b : Slot) (ty : FType) (rm : Rm) : List (Instr × FpForm) :=
  let f := match ty with | .f32 => parF32 | .fx19 => parFX19
  [(.fadd d a b ty rm, fp3 d a b fun m x y => arith2 .add f (m.mode rm) (num f x) (num f y)),
   (.fsub d a b ty rm, fp3 d a b fun m x y => arith2 .sub f (m.mode rm) (num f x) (num f y)),
   (.fmul d a b ty rm, fp3 d a b fun m x y => arith2 .mul f (m.mode rm) (num f x) (num f y)),
   (.ffma d a b ty rm, fp3d d a b fun m z x y => fArith .fma (num f x) (num f y) (num f z) f (m.mode rm))]
/-- A sign operation of R77 on a pattern: a NaN gives the canonical NaN, and no flag is raised. -/
def signForm (a r : W32) : Fl × Nat := if (num parF32 a).isNaN then (0, 0x7FC00000) else (0, r.toNat)
/-- The one-operand forms of R77 and R79. -/
def fpUnary (d a b : Slot) : List (Instr × FpForm) :=
  [(.fneg d a, fp2 d a fun _ x => signForm x (x ^^^ 0x80000000#32)),
   (.fabs d a, fp2 d a fun _ x => signForm x (x &&& 0x7FFFFFFF#32)),
   (.fcps d a b, fp3 d a b fun _ x y => signForm x ((x &&& 0x7FFFFFFF#32) ||| (y &&& 0x80000000#32))),
   (.frcp d a, fp2 d a fun m x => spFn .rcp m.dyn x.toNat), (.frsq d a, fp2 d a fun m x => spFn .rsq m.dyn x.toNat),
   (.fsqrt d a, fp2 d a fun m x => spFn .sqrt m.dyn x.toNat), (.fex2 d a, fp2 d a fun m x => spFn .ex2 m.dyn x.toNat),
   (.flg2 d a, fp2 d a fun m x => spFn .lg2 m.dyn x.toNat), (.fsin d a, fp2 d a fun m x => spFn .sin m.dyn x.toNat),
   (.fcos d a, fp2 d a fun m x => spFn .cos m.dyn x.toNat)]
/-- The integer that a kind of CVTI reads from its slot or pair (R86). -/
def intOf (k : IntKind) (r : Reads) : Int :=
  match k with
  | .i32 => sx (r.x 1) | .n32 => ux (r.x 1) | .i64 => sx (r.p 1) | .n64 => ux (r.p 1)
/-- The least and the greatest integer of a kind (R24). -/
def boundsOf : IntKind → Int × Int
  | .i32 => (-(2 ^ 31), 2 ^ 31 - 1) | .n32 => (0, 2 ^ 32 - 1) | .i64 => (-(2 ^ 63), 2 ^ 63 - 1) | .n64 => (0, 2 ^ 64 - 1)
/-- Slots of an integer kind. -/
def wordsIn : IntKind → Nat | .i32 | .n32 => 1 | .i64 | .n64 => 2
/-- The conversions (R85, R86). -/
def fpConvert (d a : Slot) (dst src : PFmt) (k : IntKind) (fmt : FFmt) (sat : Bool) (rm : Rm) : List (Instr × FpForm) :=
  [(.cvt d a dst src rm, fp2 d a fun m x => convP dst false (m.mode rm) (decodeP src x.toNat)),
   (.cvts d a dst src rm, fp2 d a fun m x => convP dst true (m.mode rm) (decodeP src x.toNat)),
   (.cvtiItof d a k fmt sat rm,
    { fields := [.dg d, .gs a (wordsIn k)],
      res := fun m r => scalar d (convF (ffmtPar fmt) sat (m.mode rm) (FV.ofInt (intOf k r))) }),
   (.cvtiFtoi d a k fmt rm,
    { fields := [.dgs d (wordsIn k), .g a],
      res := fun m r =>
        let q := roundInt (m.mode rm) (boundsOf k).1 (boundsOf k).2
          (decodeF (ffmtPar fmt) ((r.x 1).toNat % 2 ^ ffmtWidth fmt))
        (q.1, if wordsIn k = 1 then toSlot d (wrapTo 32 q.2) else toPair d (wrapTo 64 q.2)) })]
/-- The packet forms whose result is written at once (R105, R106, R108 to R111). -/
def packetForms (d a b : Slot) : List (Instr × FpForm) :=
  [(.wadd d a b, wp3 d a b fun m x y k => arith2 .add parF32 m.dyn (numAt x k) (numAt y k)),
   (.wsub d a b, wp3 d a b fun m x y k => arith2 .sub parF32 m.dyn (numAt x k) (numAt y k)),
   (.wmul d a b, wp3 d a b fun m x y k => arith2 .mul parF32 m.dyn (numAt x k) (numAt y k)),
   (.wfma d a b,
    { fields := [.rww d, .w a, .w b],
      res := fun m r =>
        let q := fourSamples fun k => fArith .fma (numAt (r.pk 1) k) (numAt (r.pk 2) k) (numAt (r.pk 0) k) parF32 m.dyn
        packetTo d q.1 q.2 }),
   (.wmin d a b, wp3 d a b fun _ x y k => fMinMax parF32 false (sampleOf x k).toNat (sampleOf y k).toNat),
   (.wmax d a b, wp3 d a b fun _ x y k => fMinMax parF32 true (sampleOf x k).toNat (sampleOf y k).toNat),
   (.wmov d a, { fields := [.dw d, .w a], res := fun _ r => packetTo d 0 (r.pk 1) }),
   (.whsum d a,
    { fields := [.dg d, .w a],
      res := fun m r => scalar d (sumRound parF32 m.dyn ([0, 1, 2, 3].map fun k => some (numAt (r.pk 1) k))) }),
   (.wdot d a b,
    { fields := [.dg d, .w a, .w b],
      res := fun m r => scalar d (sumRound parF32 m.dyn ([0, 1, 2, 3].map fun k => mulFV (numAt (r.pk 1) k) (numAt (r.pk 2) k))) }),
   (.wsplat d a,
    { fields := [.dw d, .g a], res := fun _ r => packetTo d 0 (r.x 1 ++ r.x 1 ++ r.x 1 ++ r.x 1) }),
   (.wpack d a,
    { fields := [.dgs d 2, .w a],
      res := fun m r =>
        let c := fun k => convF parBF16 false m.dyn (numAt (r.pk 1) k)
        ((c 0).1 ||| (c 1).1 ||| (c 2).1 ||| (c 3).1,
         toPair d (BitVec.ofNat 32 ((c 2).2 + (c 3).2 * 2 ^ 16) ++ BitVec.ofNat 32 ((c 0).2 + (c 1).2 * 2 ^ 16))) })]
/-- WEXT and WINS of sample k (R111). -/
def packetElem (d a : Slot) (k : BitVec 2) : List (Instr × FpForm) :=
  [(.wext d a k, { fields := [.dg d, .w a], res := fun _ r => (0, toSlot d (sampleOf (r.pk 1) k.toNat)) }),
   (.wins d a k,
    { fields := [.rww d, .g a],
      res := fun _ r =>
        let v := fun j => if j = k.toNat then r.x 1 else sampleOf (r.pk 0) j
        packetTo d 0 (v 3 ++ v 2 ++ v 1 ++ v 0) })]

/-- Row i of a Mueller product (R111): sample k of the result is the sum over j of entry (i, j) times sample k of packet j,
rounded once. -/
def muellerRow (m : Thread) (entry : Nat → Nat → Nat → FV) (a : List W128) (i : Nat) : Fl × W128 :=
  fourSamples fun k => sumRound parF32 m.dyn ([0, 1, 2, 3].map fun j => mulFV (entry i j k) (numAt (a.getD j 0) k))
/-- The four packets of a Mueller product, flags ORed. -/
def muellerRes (d : Slot) (row : Nat → Fl × W128) : Fl × List (Nat × W128) :=
  ((row 0).1 ||| (row 1).1 ||| (row 2).1 ||| (row 3).1, [0, 1, 2, 3].map fun i => (d.toNat + i, (row i).2))
/-- A packet instruction of more than one clock completes by handing one result per member to the packet unit, its flags
raised at once (R112). -/
def HandsPacket (x : Instr) (fields : List Fld) (res : Thread → Reads → Fl × List (Nat × W128)) : Prop :=
  x.wf = true → ∀ s i, Ready s i .compute fields →
    (∀ m ∈ s.members i, (res m (s.readFields m fields)).1 &&& enabled m = 0) →
    ∃ t, exec x s = .next t ∧
      Hands s t i .packet (fun m => orFlags (res m (s.readFields m fields)).1 m) fun _ m =>
        (res m (s.readFields m fields)).2.map fun p => .w m.key p.1 p.2

/-! Control transfer, special registers and traps. -/

/-- A control transfer (R55, R87 to R89): a member whose `dest` is an address goes there, the others at the next word, and a
transfer ends the run. -/
def Transfers (x : Instr) (fields : List Fld) (ends : Bool) (legal : Reads → Prop) (dest : Iss → Reads → Option W64)
    (new : Iss → Reads → Thread → Thread) : Prop :=
  x.wf = true → ∀ s i, Ready s i .both fields → (∀ m ∈ s.members i, legal (s.readFields m fields)) →
    ∃ t, exec x s = .next t ∧
      Acts s t i (ends || (s.members i).any fun m => (dest i (s.readFields m fields)).isSome)
        (fun m => new i (s.readFields m fields) m) (fun m => (dest i (s.readFields m fields)).getD (nextPc i.run.pc))
/-- PC + 4 modulo 2^56 (R87). -/
def nextWord (pc : W64) : W64 := wrapTo 64 ((ux pc + 4) % 2 ^ 56)
/-- The address of a branch plus four times its offset, modulo 2^56 (R55). -/
def targetOf (pc : W64) (off : BitVec 18) : W64 := wrapTo 64 ((ux pc + 4 * sx off) % 2 ^ 56)
/-- A jump target with bits [63:56] clear (R55). -/
def inRange (v : W64) : Prop := v.toNat < 2 ^ 56
/-- A jump target with bits [1:0] clear (R55). -/
def aligned4 (v : W64) : Prop := v.toNat % 4 = 0
/-- The traps of a jump to the address in pair `k` (R45, R55): PROTECTION of the first member out of range; where none is,
MISALIGNED of the first whose target is not a multiple of 4. -/
def JumpTraps (x : Instr) (fields : List Fld) (k : Nat) : Prop :=
  x.wf = true → ∀ s i, Ready s i .both fields → ∀ m,
    (First s i (fun m => ¬inRange ((s.readFields m fields).p k)) m →
      exec x s = .next (s.takeTrap i m.key.tid
        { rank := 4, cause := .protection, addr := (s.readFields m fields).p k })) ∧
    ((∀ u ∈ s.members i, inRange ((s.readFields u fields).p k)) →
      First s i (fun m => ¬aligned4 ((s.readFields m fields).p k)) m →
      exec x s = .next (s.takeTrap i m.key.tid
        { rank := 5, cause := .misaligned, addr := (s.readFields m fields).p k }))
/-- The legal values of a window base (R34). -/
def legalBase (m : Thread) (v : Int) : Prop := v % 8 = 0 ∧ 0 ≤ v ∧ v ≤ m.gallot - 8
/-- A change of the window base (R34): taken where it is legal for every member; else REGISTER_RANGE for the first member it
is not legal for, whose record is marked and carries the value, and WB stays. -/
def SetsBase (x : Instr) (fields : List Fld) (value : Thread → Reads → Int) : Prop :=
  x.wf = true → ∀ s i, Ready s i .both fields →
    ((∀ m ∈ s.members i, legalBase m (value m (s.readFields m fields))) →
      ∃ t, exec x s = .next t ∧
        Acts s t i false (fun m => { m with wb := (value m (s.readFields m fields)).toNat }) (fall i)) ∧
    ∀ m, First s i (fun m => ¬legalBase m (value m (s.readFields m fields))) m →
      exec x s = .next (s.takeTrap i m.key.tid
        { rank := 2, cause := .registerRange,
          info1 := 0x800 ||| ((wrapTo 32 (value m (s.readFields m fields))).zeroExtend 64 <<< 32) })
/-- What RDSR reads of a thread's special register (R38). -/
def specialValue (s : State) (i : Iss) (m : Thread) (r : SReg) : Nat :=
  let core := match s.cohort? i.ck with | some c => c.vcore | none => 0
  match r with
  | .lane => match s.group? i.run.gk with | some g => (g.members.takeWhile (· != m.key.tid)).length | none => 0
  | .tid => m.key.tid
  | .gid => m.gid
  | .coh => i.run.gk.ck.coh
  | .role => m.role
  | .launch => i.run.gk.ck.launch
  | .core => core
  | .die => core / 32
  | .dev => match s.context? i.run.gk.ck.ctx with | some c => c.pod.podcfg.toNat % 1024 | none => 0
  | .clock => s.clock
  | .ptptime => s.time.ns
  | .time => m.time.toNat
  | .wb => m.wb
  | .visit => m.visit.toNat
  | .status => m.status.toNat
  | .trap => m.trap.toNat
/-- The bits of %status that WRSR writes: FLAGS [4:0], RM [10:8], EN [20:16], ETB [21] (R39, R40). -/
def statusBit (k : Nat) : Bool := k ≤ 4 || (8 ≤ k && k ≤ 10) || (16 ≤ k && k ≤ 21)
/-- RM of a value: the three bits [10:8] (R39). -/
def rmOf (v : W32) : Nat := v.toNat / 2 ^ 8 % 8
/-- Supervisor mode: SUP, bit 31 of %status (R39). -/
def supervisor (m : Thread) : Prop := m.status.getLsbD 31 = true
/-- PROTECTION of rank 3: a privileged instruction in user mode (R45, R54). -/
def privileged : Trap := { rank := 3, cause := .protection }
/-- The entry an instruction of the frontier stands in after it trapped (R130, R340). -/
def stoppedEntry (i : Iss) (en : Entry) (x : Trap) (after : Bool) : Prop :=
  en.addr = i.run.addr ∧ en.pc = i.run.pc ∧ en.members = i.run.members ∧ en.wait = none ∧ en.skip = after ∧
    en.stat = if x.cause = .breakpoint ∧ x.info1 = 0x80#64 then .breakpoint else .trapped


/-! Translation and memory. -/

/-- An address is mapped by a leaf of this device's memory, which the table holds now; the core's micro-TLB, its TLB and the shared TLB of
its die hold that translation, and no other of the address (R197 to R201). -/
structure Mapped (s : State) (c : Context) (i : Iss) (va pte : W64) (size : Nat) : Prop where
  table : s.walk c (.core i.core) va.toNat = .leaf pte size
  page : 0 < size
  held : ∀ l ∈ [TlbAt.micro i.core, .core i.core, .shared (physDie i.core)],
    { lvl := l, ctx := c.id, vbase := va.toNat / size * size, size := size, pte := pte } ∈ s.tlb
  fresh : ∀ e ∈ s.tlbHits c.id (.core i.core) (physDie i.core) va.toNat, e.pte = pte ∧ e.size = size
  here : pteRemote c.self pte = none

/-- The bytes of the lines of a core's L1, as far as a write-back needs them: lines of this device's memory, 64 bytes
each, and no two GEN lines for one line of memory (R180, R181). -/
structure LinesOk (s : State) (core : Nat) : Prop where
  sizes : ∀ l ∈ (s.core core).l1, l.vdev = none ∧ l.data.length = 64 ∧ l.dirty.length = 64
  single : ((s.core core).l1.filter fun l => decide (l.tag = .gen)).Pairwise fun x y => x.line ≠ y.line
  memory : s.memOk
/-- A byte that a core's GEN line holds dirty. -/
def dirtyByte (s : State) (core a : Nat) (v : Byte) : Prop :=
  ∃ l ∈ (s.core core).l1, l.tag = .gen ∧ l.line = a / 64 ∧ l.dirty.getD (a % 64) false = true ∧ l.data.getD (a % 64) 0 = v
/-- Every dirty byte of a core has been written back, and every other byte of memory is as it was (R182). -/
structure WrittenBack (s t : State) (core : Nat) : Prop where
  written : ∀ a v, dirtyByte s core a v → Memory.readByte t.mem a = v
  others : ∀ a, (∀ v, ¬dirtyByte s core a v) → Memory.readByte t.mem a = Memory.readByte s.mem a
  clean : ∀ l ∈ (t.core core).l1, l.isDirty = false
/-- No named barrier of the issuing entry's cohort holds an arrival. -/
def noArrivals (s : State) (i : Iss) : Prop := ∀ c, s.cohort? i.run.gk.ck = some c → ∀ b ∈ c.bars, b.arrivals = []
/-- What stays when members leave their group: memory, requests, results, cohorts, and the threads that are no members. -/
structure KeepsRest (s t : State) (i : Iss) : Prop where
  others : ∀ k : ThKey, (k.ck ≠ i.run.gk.ck ∨ k.tid ∉ i.run.members) → i.run.gk.gid < 2048 → t.thread? k = s.thread? k
  mem : t.mem = s.mem
  reqs : t.reqs = s.reqs
  rets : t.rets = s.rets
  cohorts : i.run.gk.gid < 2048 → t.cohorts = s.cohorts
  slot : ((t.core i.core).slot i.slot).run = none
/-- The members of a group that are no members of the issuing entry. -/
def remaining (g : Group) (i : Iss) : List Nat := g.members.filter fun u => !i.run.members.contains u

/-! Groups and barriers. -/

/-- The lane of a member: its place in its group's membership order (R38). -/
def laneIn (g : Group) (m : Thread) : Int := (g.members.takeWhile (· != m.key.tid)).length
/-- An instruction of the group that gives each member a value for its g[d] (R150, R151): it completes, and the values meet
`rule`, which says them of a member and what every member reads. -/
def Exchanges (x : Instr) (fields : List Fld) (d : Slot)
    (rule : Group → List Thread → (Thread → Reads) → Thread → W32 → Prop) : Prop :=
  ∀ s i g, Ready s i .compute fields → s.group? i.run.gk = some g → g.members.Nodup →
    (∀ u ∈ i.run.members, u ∈ g.members) →
    ∃ t, exec x s = .next t ∧ ∃ v : Thread → W32,
      Acts s t i false (fun m => toSlot d (v m) m) (fall i) ∧
      ∀ m ∈ s.members i, rule g (s.members i) (fun q => s.readFields q fields) m (v m)
/-- SHFL (R150): the member's own lane and Ux(g[b]) name a source lane. -/
def ShflRule (source : Int → Nat → Int) (g : Group) (ms : List Thread) (read : Thread → Reads) (m : Thread) (v : W32) : Prop :=
  let src := source (laneIn g m) ((read m).x 2).toNat
  (∀ q ∈ ms, laneIn g q = src → v = (read q).x 1) ∧ ((∀ q ∈ ms, laneIn g q ≠ src) → v = (read m).x 1)
/-- The test of a VOTE (R151). -/
def votes (read : Thread → Reads) (q : Thread) : Prop := (read q).x 1 ≠ 0

/-- Combine of R152 on two operands. -/
def combine (op : BarOp) (x y : W32) : W32 :=
  match op with
  | .sync => 0
  | .addI | .scanI | .xscanI => wrapTo 32 (ux x + ux y)
  | .addF | .scanF | .xscanF => BitVec.ofNat 32 (arith2 .add parF32 .rne (num parF32 x) (num parF32 y)).2
  | .minI => smaller sx x y
  | .minN => smaller ux x y
  | .minF => BitVec.ofNat 32 (fMinMax parF32 false x.toNat y.toNat).2
  | .maxI => larger sx x y
  | .maxN => larger ux x y
  | .maxF => BitVec.ofNat 32 (fMinMax parF32 true x.toNat y.toNat).2
  | .and => x &&& y
  | .or => x ||| y
  | .xor => x ^^^ y
/-- ReduceTree of R155: n operands split at the largest power of two less than n. -/
inductive TreeOf (f : W32 → W32 → W32) : List W32 → W32 → Prop
  | one (x : W32) : TreeOf f [x] x
  | node (l : List W32) (k : Nat) (x y : W32) : 2 ^ k < l.length → l.length ≤ 2 ^ (k + 1) →
      TreeOf f (l.take (2 ^ k)) x → TreeOf f (l.drop (2 ^ k)) y → TreeOf f l (f x y)
/-- The result of a reduction: that of the tree; a NaN of a floating-point operation is the canonical one (R11, R155). -/
def reduced (op : BarOp) (xs : List W32) (v : W32) : Prop :=
  let float := op = .addF ∨ op = .minF ∨ op = .maxF ∨ op = .scanF ∨ op = .xscanF
  ∃ r, TreeOf (combine op) xs r ∧ v = if float ∧ (num parF32 r).isNaN = true then 0x7FC00000 else r
/-- What participant j of the operands receives (R155). -/
def received (op : BarOp) (xs : List W32) (j : Nat) (v : W32) : Prop :=
  match op with
  | .scanI | .scanF => reduced op (xs.take (j + 1)) v
  | .xscanI | .xscanF => if j = 0 then v = 0 else reduced op (xs.take j) v
  | .sync | .addI | .addF | .minI | .minN | .minF | .maxI | .maxN | .maxF | .and | .or | .xor => reduced op xs v
/-- The forms of BAR with an operand (R152). -/
def barForms (d a : Slot) (nb : BitVec 4) : List (Instr × BarOp) :=
  [(.barAddI32 d a nb, .addI), (.barAddF32 d a nb, .addF), (.barMinI32 d a nb, .minI), (.barMinN32 d a nb, .minN),
   (.barMinF32 d a nb, .minF), (.barMaxI32 d a nb, .maxI), (.barMaxN32 d a nb, .maxN), (.barMaxF32 d a nb, .maxF),
   (.barAnd d a nb, .and), (.barOr d a nb, .or), (.barXor d a nb, .xor), (.barScanI32 d a nb, .scanI),
   (.barXscanI32 d a nb, .xscanI), (.barScanF32 d a nb, .scanF), (.barXscanF32 d a nb, .xscanF)]
/-- An entry may arrive at named barrier n of its cohort at once: nothing of its members is open, its core has no dirty byte,
and its members are threads of its group, in ascending order, that have not arrived in the phase. -/
structure MayArrive (s : State) (i : Iss) (n : Nat) (c : Cohort) (g : Group) : Prop where
  requests : s.reqs = []
  clean : s.dirtyLines i.core = []
  cohort : s.cohort? i.run.gk.ck = some c
  bars : c.bars.length = 16
  group : s.group? i.run.gk = some g
  inside : ∀ u ∈ i.run.members, u ∈ g.members ∧ ∀ a ∈ (c.bar n).arrivals, a.tid ≠ u
  order : i.run.members.Pairwise (· < ·)
  found : (s.members i).map (·.key.tid) = i.run.members
  some : i.run.members ≠ []
/-- Barrier n of the cohort has become b and every other barrier is as it was. -/
def BarIs (s t : State) (ck : CohKey) (n : Nat) (b : Barrier) : Prop :=
  ∃ c, t.cohort? ck = some c ∧ c.bar n = b ∧ ∀ c0, s.cohort? ck = some c0 → ∀ k, k ≠ n → c.bar k = c0.bar k
/-- BARRIER_OVERFLOW at barrier n (R336). -/
def overflow (n : Nat) : Trap := { rank := 7, cause := .barrierOverflow, info1 := BitVec.ofNat 64 n }
/-- The entry is blocked at its instruction (R135): it stands in its group's frontier there, and its slot is free. -/
def BlockedAs (t : State) (i : Iss) (w : Wait) : Prop :=
  ((t.core i.core).slot i.slot).run = none ∧ ∃ g', t.group? i.run.gk = some g' ∧ ∃ en ∈ g'.frontier,
    en.addr = i.run.addr ∧ en.pc = i.run.pc ∧ en.members = i.run.members ∧ en.wait = some w
/-- A thread in a phase. -/
def inPhase (ph : PhaseId) (m : Thread) : Thread := { m with phase := ph }
/-- The phase id of completion k of barrier n (R218): the device, the launch, the barrier and the number of the completion. -/
def barPhase (s : State) (i : Iss) (n k : Nat) : PhaseId :=
  .nb (match s.context? i.run.gk.ck.ctx with | some c => c.pod.podcfg.toNat % 1024 | none => 0) i.run.gk.ck.launch n k
/-- The arrival of member m by BAR or by NBAR.ARRIVE. -/
def arrivalOf (m : Thread) (waits : Bool) (op : BarOp) (x : W32) (d : Slot) : Arrival :=
  { tid := m.key.tid, addr := m.key.addr, waits := waits, op := op, x := x, d := d }

/-! Memory instructions. -/

/-- The form of a global or thread-private access: what its fields read gives its address and its data. -/
structure MemForm where
  stream : Stream
  fields : List Fld
  size : Nat
  kind : AccK
  addr : Context → Thread → Reads → W64
  inside : Context → Thread → Reads → Prop
/-- Bytes of a load or store kind (R230). -/
def ldBytes : LdKind → Nat | .n8 | .i8 => 1 | .n16 | .i16 => 2 | .n32 => 4 | .n64 => 8 | .n128 => 16
/-- Bytes of a store kind (R230). -/
def stBytes : StKind → Nat | .n8 => 1 | .n16 => 2 | .n32 => 4 | .n64 => 8 | .n128 => 16
/-- Slots that hold so many bytes. -/
def slotsFor (n : Nat) : Nat := (n + 3) / 4
/-- The offset of an access: off8 in units of its size, exact (R226). -/
def offsetBy (off : BitVec 8) (n : Nat) : Int := sx off * n
/-- A global access at pair A and an offset: Wrap64(A + off8 × size) (R226). -/
def globalForm (st : Stream) (data : Fld) (a : Slot) (n : Nat) (k : AccK) (off : BitVec 8) : MemForm :=
  { stream := st, fields := [data, .gs a 2], size := n, kind := k,
    addr := fun _ _ r => wrapTo 64 (ux (r.p 1) + offsetBy off n), inside := fun _ _ _ => True }
/-- A thread-private access at slot a and an offset, which must stay in the thread's block (R178, R226). -/
def privateForm (st : Stream) (data : Fld) (a : Slot) (n : Nat) (k : AccK) (off : BitVec 8) : MemForm :=
  { stream := st, fields := [data, .g a], size := n, kind := k,
    addr := fun c m r => wrapTo 64 (ux c.desc.privbase +
      (m.key.ck.coh % c.desc.privcohs * 2048 + m.key.tid : Nat) * 2 ^ c.desc.privshift + (ux (r.x 1) + offsetBy off n)),
    inside := fun c _ r => 0 ≤ ux (r.x 1) + offsetBy off n ∧ ux (r.x 1) + offsetBy off n + n ≤ 2 ^ c.desc.privshift }
/-- The words that a load kind writes of the bytes it reads (R230). -/
def loaded (k : LdKind) (b : Bytes) : List W32 :=
  match k with
  | .n8 | .n16 => [wrapTo 32 (leNat b)]
  | .i8 => [wrapTo 32 (sx (BitVec.ofNat 8 (leNat b)))]
  | .i16 => [wrapTo 32 (sx (BitVec.ofNat 16 (leNat b)))]
  | .n32 | .n64 | .n128 => (List.range (ldBytes k / 4)).map fun j => wrapTo 32 (leNat ((b.drop (4 * j)).take 4))
/-- A load: its form, the tag of the lines it uses, whether it writes a spectral register, its first destination, the
words it writes of its bytes, and the operation it asks of a slice. -/
structure LoadForm extends MemForm where
  tag : PathTag
  isW : Bool
  d : Slot
  words : Bytes → List W32
  op : ReqOp
/-- Whether a kind extends the sign. -/
def signs : LdKind → Bool | .i8 | .i16 => true | .n8 | .n16 | .n32 | .n64 | .n128 => false
/-- The loads of global and thread-private memory (R229 to R233). -/
def loadForms (d a : Slot) (k : LdKind) (off : BitVec 8) : List (Instr × LoadForm) :=
  let n := ldBytes k
  let dst := Fld.dgs d (slotsFor n)
  let gen := fun (m : MemForm) => ({ m with tag := .gen, isW := false, d := d, words := loaded k, op := .fillGen n (signs k) } : LoadForm)
  let wide := fun (m : MemForm) => ({ m with tag := .gen, isW := true, d := d, words := loaded .n128, op := .fillGen 16 false } : LoadForm)
  [(.ld d a k off, gen (globalForm .both dst a n .load off)),
   (.ldro d a k off, { globalForm .both dst a n .load off with
      tag := .ro, isW := false, d := d, words := loaded k, op := .fillRo n (signs k) }),
   (.ldp d a k off, gen (privateForm .both dst a n .load off)),
   (.ldw d a off, wide (globalForm .compute (.dw d) a 16 .load off)),
   (.ldwp d a off, wide (privateForm .compute (.dw d) a 16 .load off)),
   (.ldq d a off, { globalForm .address (.dg d) a 4 .load off with
      tag := .gen, isW := false, d := d, words := loaded .n32, op := .fillGen 4 false })]
/-- Byte j of a list of words, little-endian (R4). -/
def byteOf (ws : List W32) (j : Nat) : Byte := (ws.getD (j / 4) 0).extractLsb' (8 * (j % 4)) 8
/-- A store: its form and the words whose low bytes it writes. -/
structure StoreForm extends MemForm where
  words : Reads → List W32
/-- The stores of global and thread-private memory (R229 to R233). -/
def storeForms (d a : Slot) (k : StKind) (off : BitVec 8) : List (Instr × StoreForm) :=
  let n := stBytes k
  let src := Fld.gs d (slotsFor n)
  let four := fun (r : Reads) => [0, 1, 2, 3].map (sampleOf (r.pk 0))
  [(.st d a k off, { globalForm .both src a n .store off with words := fun r => r.l 0 }),
   (.stp d a k off, { privateForm .both src a n .store off with words := fun r => r.l 0 }),
   (.stw d a off, { globalForm .compute (.w d) a 16 .store off with words := four }),
   (.stwp d a off, { privateForm .compute (.w d) a 16 .store off with words := four }),
   (.stq d a off, { globalForm .address (.g d) a 4 .store off with words := fun r => r.l 0 })]

/-- Bytes an atomic acts on (R235). -/
def unitBytes (op : AtomOp) : Nat := if op = .cas ∨ op = .facc then 8 else 4
/-- The operand fields of an atomic before its address (R235, R236). -/
def unitFields (op : AtomOp) (d : Slot) : List Fld :=
  match op with
  | .cas => [.rwgs d 2, .gs (d + 2) 2]
  | .ld => [.dg d]
  | .st => [.g d]
  | .add | .minI | .minN | .maxI | .maxN | .and | .or | .xor | .xchg | .inc | .fadd | .bf16x2 | .facc => [.rwg d]
/-- The operand x of an atomic and the new value y of CAS. -/
def unitArgs (op : AtomOp) (r : Reads) : W64 × W64 := if op = .cas then (r.p 0, r.p 1) else ((r.x 0).zeroExtend 64, 0)
/-- FP32 addition in RNE, flags discarded (R235, R238). -/
def addF32 (x y : W32) : W32 := BitVec.ofNat 32 (arith2 .add parF32 .rne (num parF32 x) (num parF32 y)).2
/-- FP32 subtraction in RNE, flags discarded (R238). -/
def subF32 (x y : W32) : W32 := BitVec.ofNat 32 (arith2 .sub parF32 .rne (num parF32 x) (num parF32 y)).2
/-- The new contents of the unit m: the table of R235, CAS (R236), BF16X2 (R237) and FACC (R238). -/
def newUnit (op : AtomOp) (m x y : W64) : W64 :=
  let a : W32 := m.extractLsb' 0 32
  let c : W32 := m.extractLsb' 32 32
  let b : W32 := x.extractLsb' 0 32
  let word := fun (v : W32) => (v.zeroExtend 64 : W64)
  match op with
  | .add => word (wrapTo 32 (ux a + ux b))
  | .minI => word (smaller sx a b)
  | .minN => word (smaller ux a b)
  | .maxI => word (larger sx a b)
  | .maxN => word (larger ux a b)
  | .and => word (a &&& b)
  | .or => word (a ||| b)
  | .xor => word (a ^^^ b)
  | .xchg | .st => word b
  | .inc => word (if ux b ≤ ux a then 0 else wrapTo 32 (ux a + 1))
  | .fadd => word (addF32 a b)
  | .bf16x2 => word (BitVec.ofNat 32
      (both fun k => arith2 .add parBF16 .rne (elem16 parBF16 a k) (elem16 parBF16 b k)).2)
  | .cas => if m = x then y else m
  | .ld => m
  | .facc =>
    let t := addF32 a b
    let e := if b.toNat % 2 ^ 31 ≤ a.toNat % 2 ^ 31 then addF32 (subF32 a t) b else addF32 (subF32 b t) a
    addF32 c e ++ t
/-- The words an atomic returns of the old contents (R235, R236). -/
def oldWords (op : AtomOp) (m : W64) : List W32 :=
  if op = .cas then [m.extractLsb' 0 32, m.extractLsb' 32 32] else [m.extractLsb' 0 32]
/-- The atomics of global memory (R234 to R239). -/
def atomForms (d a : Slot) (ord : MOrder) (sc : MScope) : List (Instr × AtomOp) :=
  [(.atomAdd d a ord sc, .add), (.atomMinI32 d a ord sc, .minI), (.atomMinN32 d a ord sc, .minN), (.atomMaxI32 d a ord sc, .maxI),
   (.atomMaxN32 d a ord sc, .maxN), (.atomAnd d a ord sc, .and), (.atomOr d a ord sc, .or), (.atomXor d a ord sc, .xor),
   (.atomXchg d a ord sc, .xchg), (.atomCas d a ord sc, .cas), (.atomInc d a ord sc, .inc), (.atomFadd d a ord sc, .fadd),
   (.atomBf16x2 d a ord sc, .bf16x2), (.facc d a ord sc, .facc), (.atomLd d a ord sc, .ld), (.atomSt d a ord sc, .st)]
/-- The atomics of scratch (R234 to R237). -/
def atomsForms (d a : Slot) (ord : MOrder) (sc : MScope) : List (Instr × AtomOp) :=
  [(.atomsAdd d a ord sc, .add), (.atomsMinI32 d a ord sc, .minI), (.atomsMinN32 d a ord sc, .minN), (.atomsMaxI32 d a ord sc, .maxI),
   (.atomsMaxN32 d a ord sc, .maxN), (.atomsAnd d a ord sc, .and), (.atomsOr d a ord sc, .or), (.atomsXor d a ord sc, .xor),
   (.atomsXchg d a ord sc, .xchg), (.atomsCas d a ord sc, .cas), (.atomsInc d a ord sc, .inc), (.atomsFadd d a ord sc, .fadd),
   (.atomsBf16x2 d a ord sc, .bf16x2), (.atomsLd d a ord sc, .ld), (.atomsSt d a ord sc, .st)]
/-- The form of a global atomic: pair A without offset, after its operand fields (R226). -/
def atomForm (op : AtomOp) (d a : Slot) : MemForm :=
  { stream := .both, fields := unitFields op d ++ [.gs a 2], size := unitBytes op, kind := .atomic,
    addr := fun _ _ r => r.p (unitFields op d).length, inside := fun _ _ _ => True }

/-- Where the words of a result land (R101, R188, R227): a spectral register, a queue entry, or general registers; at slot
0 nowhere. -/
def landing (m : Thread) (id : Nat) (isW : Bool) (d : Slot) (ws : List W32) : List Dest :=
  if isW then [.w m.key d.toNat (ws.getD 3 0 ++ ws.getD 2 0 ++ ws.getD 1 0 ++ ws.getD 0 0)]
  else if d = 0 then []
  else if m.split && decide (120 ≤ d.toNat) then [.q m.key.ck m.key.tid (d.toNat - 120) id (ws.headD 0)]
  else (List.range ws.length).map fun j => .g m.key (m.wb + (d.toNat + j)) (ws.getD j 0)
/-- The destination a queued request carries for n words. -/
def landsAt (m : Thread) (id : Nat) (isW : Bool) (d : Slot) (n : Nat) : ReqDest :=
  if isW then .wreg d.toNat
  else if m.split && decide (120 ≤ d.toNat) then .queue (d.toNat - 120) id
  else if d = 0 then .none
  else .regs ((List.range n).map fun j => some (m.wb + (d.toNat + j)))
/-- A request of a member for its slice. -/
def request (s : State) (i : Iss) (j : Nat) (m : Thread) (pa : Nat) (op : ReqOp) (dest : ReqDest) : Req :=
  { id := s.nextId + j, src := .core i.core, key := m.key, merged := [], vdev := none, pa := pa, op := op, dest := dest,
    refusals := 0, refusedAt := 0, sentAt := s.clock, resp := none }

/-- Nothing stands in the way of an access: no request is open, no line pinned, no sector poisoned, and no watchpoint watches. -/
structure Calm (s : State) (i : Iss) (c : Context) : Prop where
  context : s.context? i.run.gk.ck.ctx = some c
  requests : s.reqs = []
  pins : s.pins = []
  poison : s.poison = []
  watch : c.dbg.dbgctl.getLsbD 31 = false
/-- Whether an address lies in the apertures of the copy engines (R264). -/
def aperture (c : Context) (va : W64) : Prop := c.desc.apbase.toNat ≤ va.toNat ∧ va.toNat < c.desc.apbase.toNat + 131072
/-- A member's access is legal and reaches physical address `pa` of this device, on a page that is CHECKED or not (R42,
R178, R200, R226, R264). -/
def Reaches (s : State) (i : Iss) (c : Context) (f : MemForm) (m : Thread) (pa : Nat) (checked : Bool) : Prop :=
  let r := s.readFields m f.fields
  let va := f.addr c m r
  f.inside c m r ∧ ¬aperture c va ∧ inRange va ∧ va.toNat % f.size = 0 ∧ ∃ pte size, Mapped s c i va pte size ∧
    permTrap va f.kind m.who pte = none ∧ pa = pteAddr pte + va.toNat % size ∧ pte.getLsbD 58 = checked
/-- Results are under way and nothing else has changed that software sees. -/
structure Lands (s t : State) (i : Iss) (dests : Nat → Thread → List Dest) : Prop where
  threads : ∀ k, t.thread? k = s.thread? k
  memory : t.mem = s.mem
  reqs : t.reqs = s.reqs
  continues : Continues s t i false (fall i)
  results : t.rets = s.rets ++ (s.members i).mapIdx fun n m =>
    { id := s.nextId + n, kind := .load, dests := dests (s.nextId + n) m }
/-- Requests are on their way to the slices and nothing else has changed that software sees. -/
structure Asks (s t : State) (i : Iss) (req : Nat → Thread → Req) : Prop where
  threads : t.threads = s.threads
  memory : t.mem = s.mem
  rets : t.rets = s.rets
  continues : Continues s t i false (fall i)
  requests : t.reqs = (s.members i).mapIdx req
/-- No set of the core's L1 is full, whatever lines the members add (R180). -/
def room (s : State) (i : Iss) : Prop := (s.core i.core).l1.length + i.run.members.length ≤ 15
/-- No GEN line of the core holds the line of a physical address. -/
def noLine (s : State) (i : Iss) (pa : Nat) : Prop := (s.core i.core).line? none (pa / 64) .gen = none
/-- The traps of an address before translation (R42, R45, R226, R264): PROTECTION of the first member whose address is outside its
space; where none is, MISALIGNED of the first whose address is not a multiple of the size. -/
def AddressTraps (x : Instr) (f : MemForm) : Prop :=
  x.wf = true → ∀ s i c, Ready s i f.stream f.fields → s.context? i.run.gk.ck.ctx = some c →
    let va := fun m => f.addr c m (s.readFields m f.fields)
    let out := fun m => ¬f.inside c m (s.readFields m f.fields) ∨ aperture c (va m) ∨ ¬inRange (va m)
    ∀ m,
      (First s i out m → exec x s = .next (s.takeTrap i m.key.tid
        { rank := 4, cause := .protection, addr := va m, write := f.kind.writes })) ∧
      ((∀ u ∈ s.members i, ¬out u) → First s i (fun m => (va m).toNat % f.size ≠ 0) m →
        exec x s = .next (s.takeTrap i m.key.tid
          { rank := 5, cause := .misaligned, addr := va m, write := f.kind.writes }))

/-- Whether an earlier record of a word conflicts with an access of an agent (R220). -/
def earlier (e : Option Agent × ReadSt) (x : Agent) (wr : Bool) : Prop :=
  (∃ y, e.1 = some y ∧ y ≠ x) ∨ (wr = true ∧ (e.2 = .several ∨ ∃ y, e.2 = .one y ∧ y ≠ x))
/-- Whether a member's checked access to n bytes at `pa` meets a conflicting record of its own phase and context (R218 to
R220). -/
def conflicts (s : State) (i : Iss) (m : Thread) (pa n : Nat) (wr : Bool) : Prop :=
  ∃ w, pa / 4 ≤ w ∧ w ≤ (pa + n - 1) / 4 ∧ ∃ sh, s.shadowOf (w / 8) = some sh ∧ sh.ctx = i.run.gk.ck.ctx ∧
    sh.phase = (s.chkOf m).phase ∧ ∃ e, sh.words[w % 8]? = some e ∧ earlier e (s.chkOf m).agent wr

/-! Scratch. -/

/-- A scratch access: the stream, the fields, the size and the offset of the address in slot a (R226). -/
structure ScratchForm where
  stream : Stream
  fields : List Fld
  size : Nat
  base : Nat
  off : BitVec 8
  write : Bool
/-- The offset of a member's scratch access, exact (R226). -/
def ScratchForm.at (f : ScratchForm) (r : Reads) : Int := ux (r.x f.base) + offsetBy f.off f.size
/-- An entry may access its cohort's scratch at the members' offsets `o` (R177, R226). -/
structure InScratch (s : State) (i : Iss) (f : ScratchForm) (c : Cohort) (o : Thread → Nat) : Prop where
  ready : Ready s i f.stream f.fields
  requests : s.reqs = []
  cohort : s.cohort? i.run.gk.ck = some c
  legal : ∀ m ∈ s.members i, f.at (s.readFields m f.fields) = o m ∧ o m + f.size ≤ c.scratchSize ∧ o m % f.size = 0
/-- Every read of a thread on a path sees every write of a cohort's scratch and tiles: each run of writes is on that path, or a FENCE.X of
the thread has bridged the two since (R204, R215). -/
def Sees (c : Cohort) (tid : Nat) (p : MemPath) : Prop := ∀ o ∈ c.older, o.path = p ∨ (tid, p) ∈ o.seen
/-- A value that a thread's read of a word on a path may give: the word's own, or one that it held before writes that the thread need not
see (R214, R215). -/
def MayRead (c : Cohort) (tid : Nat) (p : MemPath) (x : ScrCell) (v : W32) : Prop :=
  v = c.cell x ∨ ∃ o ∈ c.older, o.path ≠ p ∧ (tid, p) ∉ o.seen ∧ v = o.cell x
/-- A byte of a cohort's scratch (R177). -/
def scratchByte (c : Cohort) (a : Nat) : Byte := sget 0 c.scratch a
/-- n bytes of scratch from an offset up. -/
def scratchBytes (c : Cohort) (o n : Nat) : Bytes := (List.range n).map fun k => scratchByte c (o + k)
/-- The scratch loads: their form, spectral or general, destination and words (R229, R232, R233). -/
def scratchLoads (d a : Slot) (k : LdKind) (off : BitVec 8) : List (Instr × ScratchForm × Bool × (Bytes → List W32)) :=
  [(.lds d a k off, { stream := .both, fields := [.dgs d (slotsFor (ldBytes k)), .g a], size := ldBytes k, base := 1, off := off,
                      write := false }, false, loaded k),
   (.ldws d a off, { stream := .compute, fields := [.dw d, .g a], size := 16, base := 1, off := off, write := false }, true,
    loaded .n128),
   (.ldqs d a off, { stream := .address, fields := [.dg d, .g a], size := 4, base := 1, off := off, write := false }, false,
    loaded .n32)]
/-- The scratch stores with the words whose low bytes they write. -/
def scratchStores (d a : Slot) (k : StKind) (off : BitVec 8) : List (Instr × ScratchForm × (Reads → List W32)) :=
  [(.sts d a k off, { stream := .both, fields := [.gs d (slotsFor (stBytes k)), .g a], size := stBytes k, base := 1, off := off,
                      write := true }, fun r => r.l 0),
   (.stws d a off, { stream := .compute, fields := [.w d, .g a], size := 16, base := 1, off := off, write := true },
    fun r => [0, 1, 2, 3].map (sampleOf (r.pk 0))),
   (.stqs d a off, { stream := .address, fields := [.g d, .g a], size := 4, base := 1, off := off, write := true }, fun r => r.l 0)]
/-- The form of a scratch atomic (R226, R235). -/
def atomsForm (op : AtomOp) (d a : Slot) : ScratchForm :=
  { stream := .both, fields := unitFields op d ++ [.g a], size := unitBytes op, base := (unitFields op d).length, off := 0,
    write := true }
/-- The traps of a scratch address (R177, R226). -/
def ScratchTraps (x : Instr) (f : ScratchForm) : Prop :=
  x.wf = true → ∀ s i c, Ready s i f.stream f.fields → s.cohort? i.run.gk.ck = some c →
    let o := fun m => f.at (s.readFields m f.fields)
    let out := fun m => o m < 0 ∨ (c.scratchSize : Int) < o m + f.size
    ∀ m,
      (First s i out m → exec x s = .next (s.takeTrap i m.key.tid
        { rank := 4, cause := .protection, addr := wrapTo 64 (o m), write := f.write })) ∧
      ((∀ u ∈ s.members i, ¬out u) → First s i (fun m => o m % f.size ≠ 0) m →
        exec x s = .next (s.takeTrap i m.key.tid { rank := 5, cause := .misaligned, addr := wrapTo 64 (o m), write := f.write }))

/-! Units, matrices, copies and logical time. -/

/-- Mix32 of R114, in exact arithmetic. -/
def mixed (z : W32) : W32 :=
  let z1 := wrapTo 32 (ux (z ^^^ (z >>> 16)) * 0x6C8E9CF5)
  let z2 := wrapTo 32 (ux (z1 ^^^ (z1 >>> 15)) * 0xB5D31A4B)
  z2 ^^^ (z2 >>> 16)
/-- The element before scrambling (R114): the direction words of the index bits that are set. -/
def unscrambled (v : Nat → W32) (i : Nat) : W32 := (((List.range 48).filter fun j => i.testBit j).map v).foldl (· ^^^ ·) 0
/-- Bit k of QElement (R114). -/
def qBit (v : Nat → W32) (seed : W32) (i : Nat) (d : W32) (k : Nat) : Bool :=
  let x := unscrambled v i
  let node := wrapTo 32 (2 ^ (31 - k)) ||| (x >>> (k + 1))
  x.getLsbD k != (mixed (mixed (seed ^^^ mixed d) ^^^ node)).getLsbD 31
/-- A word of an entry of the sequence table: DIR words 0 to 47, SEED 48 (R43). -/
def entryWord (e : Bytes) (j : Nat) : W32 := wrapTo 32 (leNat ((e.drop (4 * j)).take 4))
/-- What QSAMP writes of an element (R115). -/
def qResult (f32 : Bool) (y : W32) : W32 :=
  if f32 then (if y = 0 then 0 else BitVec.ofNat 32 (roundFloat parF32 .rtz false false y.toNat (-32)).2) else y
/-- QSAMP completes where the core's table cache holds the members' entries `e` (R113 to R117). -/
def Samples (x : Instr) (f32 : Bool) (d a b : Slot) : Prop :=
  ∀ s i c (e : Thread → Bytes) (y : Thread → W32), let fs := [Fld.dg d, .gs a 2, .g b]
  Ready s i .compute fs → s.context? i.run.gk.ck.ctx = some c → s.reqs = [] →
  (∀ m ∈ s.members i, let r := s.readFields m fs
    (r.x 2).toNat < c.desc.seqn ∧
    (s.core i.core).seqCache.find? (fun k => k.1 == c.id && k.2.1 == (r.x 2).toNat) = some (c.id, (r.x 2).toNat, e m) ∧
    ∀ k < 32, (y m).getLsbD k = qBit (entryWord (e m)) (entryWord (e m) 48) ((r.p 1).toNat % 2 ^ 48) (r.x 2) k) →
  ∃ t, exec x s = .next t ∧ Hands s t i .qsamp id fun n m => landing m n false d [qResult f32 (y m)]
/-- A texture instruction completes where its fetches, of the members' entries `x` and texels `l`, need nothing from beyond the
core (R242, R243). -/
def Filters (ins : Instr) (fs : List Fld) (k0 k1 kind : Nat) (isW : Bool) (d : Slot)
    (res : Tex → List (Nat × Bytes) → Reads → List W32) : Prop :=
  ∀ s i c (x : Thread → Tex) (l : Thread → List (Nat × Bytes)), Ready s i .compute fs →
  s.context? i.run.gk.ck.ctx = some c → s.reqs = [] →
  (∀ m ∈ s.members i, let r := s.readFields m fs
    (x m).kind = kind ∧ s.texDesc i c m (r.x 1) k0 k1 = (.ok (x m), s) ∧
    s.texels i c m (x m) ((x m).taps (texCoords r)) = (.ok (l m), s)) →
  ∃ t, exec ins s = .next t ∧ Hands s t i .texture id fun n m => landing m n isW d (res (x m) (l m) (s.readFields m fs))
/-- A ray test completes where the members' entries `v` of the descriptor table are at hand, and the records `rec` that those with
a legal index name (R194 to R196, R243 to R248). -/
def Tests (ins : Instr) (d a b : Slot) (n : Nat) (place : Bvh → Nat → Nat × Nat) (count : Bvh → Nat)
    (budget : Bool) (res : Option (Bvh × Bytes) → List W32 → List W32) : Prop :=
  ∀ s i c (v : Thread → Bvh) (e rec : Thread → Bytes), let fs := [Fld.dgs d n, .gs a 8, .gs b 2]
  Ready s i .compute fs → s.context? i.run.gk.ck.ctx = some c → s.reqs = [] →
  (∀ m ∈ s.members i, let r := s.readFields m fs
    let idx := (r.p 2).toNat / 2 ^ 32
    (budget = true → m.visit ≠ 0) ∧
    s.dtEntry i c m.key ((r.p 2).toNat % 2 ^ 16) 6 6 = (.ok (e m), s) ∧ bvhEntry (e m) = some (v m) ∧
    (idx < count (v m) → s.threadRead i c m (place (v m) idx).1 (place (v m) idx).2 = (.ok (rec m), s))) →
  ∃ t, exec ins s = .next t ∧
    Hands s t i .ray (fun m => if budget then { m with visit := m.visit - 1 } else m) fun k m =>
      let r := s.readFields m fs
      landing m k false d (res (if (r.p 2).toNat / 2 ^ 32 < count (v m) then some (v m, rec m) else none) (r.l 1))

/-- No copy engine has a request. -/
def noCopies (s : State) : Prop := ∀ e ∈ s.engines, e.2.queue = []
/-- A core's matrix engine has no request. -/
def idleEngine (s : State) (core : Nat) : Prop := (s.core core).eng.queue = [] ∧ (s.core core).eng.running = none
/-- An element of a bound tile of a cohort (R157). -/
def element? (c : Cohort) (n row col : Nat) : W32 :=
  match c.tiles.find? fun x => x.no == n with
  | some x => sget 0 x.elems (64 * row + col)
  | none => 0
/-- The tile that a member names (R168, R169): (g[a] + t) mod 512. -/
def tileNamed (x : W32) (t : Nat) : Nat := (x.toNat + t) % 512
/-- Element j of the two elements of a lane in a slice: along a column or a row (R169). -/
def place (col : Bool) (x : W32) (imm : BitVec 6) (lane j : Nat) : Nat × Nat :=
  let sl := (x.toNat + imm.toNat) % 64
  if col then (2 * lane + j, sl) else (sl, 2 * lane + j)
/-- The entry may use the tiles `n` that its members name: they are bound, and nothing owns or holds a tile. -/
structure Tiles (s : State) (i : Iss) (g : Group) (c : Cohort) (n : Thread → Nat) : Prop where
  group : s.group? i.run.gk = some g
  lanes : g.members.Nodup ∧ g.members.length ≤ 32 ∧ i.run.members.Nodup ∧ ∀ u ∈ i.run.members, u ∈ g.members
  cohort : s.cohort? i.run.gk.ck = some c
  idle : idleEngine s i.core
  copies : noCopies s
  bound : ∀ m ∈ s.members i, ∃ x ∈ c.tiles, x.no = n m
  canonical : ∀ x ∈ c.tiles, swf 0 x.elems = true
/-- The sixteen words of row k of a fragment (R160): two rows per lane. -/
def fragRow (ms : List Reads) (fld k : Nat) : List W32 :=
  match ms[k / 2]? with
  | some r => ((r.l fld).drop (16 * (k % 2))).take 16
  | none => []

/-- No GEN line of the issuing core holds a dirty byte. -/
def cleanCore (s : State) (i : Iss) : Prop := ∀ l ∈ (s.core i.core).l1, l.dirty = List.replicate 64 false
/-- An entry of one member may act on its context's logical time: nothing is open, pinned or dirty, and no entry of the device
waits. -/
structure Alone (s : State) (i : Iss) (m : Thread) (c : Context) (h : Cohort) : Prop where
  member : s.members i = [m]
  context : s.context? i.run.gk.ck.ctx = some c
  cohort : s.cohort? i.run.gk.ck = some h
  requests : s.reqs = []
  pins : s.pins = []
  clean : cleanCore s i
  caps : (h.caps.map fun x => (x.loc, x.time)).Nodup
  quiet : ∀ g ∈ s.groups, ∀ en ∈ g.frontier, en.wait = none
/-- Counter k of a logical time (R283). -/
def counterOf (t : W64) (k : Nat) : Nat := t.toNat / 2 ^ (48 - 16 * k) % 2 ^ 16
/-- Product order on times (R284). -/
abbrev notAfter (t u : W64) : Prop := ∀ k < 4, counterOf t k ≤ counterOf u k
/-- A frontier has passed a time: no element of it is before or at the time (R298). -/
abbrev hasPassed (f : List W64) (t : W64) : Prop := ∀ x ∈ f, ¬notAfter x t
/-- A location exists and a time fits its depth (R283). -/
def keyOk (c : Context) (loc : Nat) (t : W64) : Prop :=
  loc < c.graph.depths.length ∧ ∀ k < 4, c.graph.depths.getD loc 0 ≤ k → counterOf t k = 0
/-- The counts of a capability table at a key (R289). -/
def capCount (l : List Cap) (loc : Nat) (t : W64) : Nat :=
  match l.find? fun x => x.loc == loc && decide (x.time = t) with
  | some x => x.count
  | none => 0
/-- A change of a count key (R287). -/
def change (loc : Nat) (t : W64) (d : Int) : CountChange := { loc := loc, time := t, delta := d }
/-- The batch that a core forms next of increments and decrements, at the node of the die on which it runs now (R295, R352). -/
def batchOf (c : Context) (h : Cohort) (incs decs : List CountChange) : Batch :=
  { srcId := h.vcore, vdev := c.pod.podcfg.toNat % 1024, seq := aget 0 c.batchSeq h.vcore, incs := incs, decs := decs,
    home := c.runsOn h.vcore, applied := [], peers := [], stepped := c.stepping.isSome }
/-- The issuing core forms a batch of increments and decrements (R295), and keeps its registers. -/
structure FormsBatch (s t : State) (i : Iss) (m : Thread) (c : Context) (h : Cohort) (incs decs : List CountChange) : Prop where
  batch : ∃ c', t.context? i.run.gk.ck.ctx = some c' ∧ c'.batches = c.batches ++ [batchOf c h incs decs]
  thread : t.thread? m.key = some m
  continues : Continues s t i false (fall i)
/-- TIME_ORDER with its subcause, the location and the time (R291, R336). -/
def TimeOrder (x : Instr) (s : State) (i : Iss) (m : Thread) (sub loc : Nat) (t : W64) : Prop :=
  ∃ k, exec x s = .next (s.takeTrap i m.key.tid
    { rank := k, cause := .timeOrder, sub := sub, addr := BitVec.ofNat 64 loc, info1 := t })
/-- Writes words from a slot up; a block at slot 0 takes none. -/
def toSlots (d : Slot) (ws : List W32) (m : Thread) : Thread :=
  if d = 0 then m else (List.range ws.length).foldl (fun u k => u.writeSlot (d.toNat + k) (ws.getD k 0)) m


/-! Events: results, issue, the matrix engines and the slices. -/

/-- The events in which a unit's result lands, each with its unit (R101, R112). -/
def landings : List (Instr × RetKind) :=
  [(.loadReturn, .load), (.qsampResult, .qsamp), (.packetResult, .packet), (.textureResult, .texture), (.rayTestResult, .ray)]
/-- A thread after the register destinations of a result that name it are written (R33, R37). -/
def landedOn (ds : List Dest) (m : Thread) : Thread :=
  ds.foldl (fun u d => match d with
    | .g k r v => if k = m.key then u.writeReg r v else u
    | .w k r v => if k = m.key then u.writeW r v else u
    | .q _ _ _ _ _ => u) m
/-- Slot `slot` of a core is free to begin a run. -/
def freeSlot (s : State) (core slot : Nat) : Prop := ((s.core core).slot slot).run = none ∧ slot < (s.core core).slots.length
/-- The run that an entry begins at its program counter (R131). -/
def newRun (gk : GrpKey) (en : Entry) : Run :=
  { gk := gk, addr := en.addr, members := en.members, pc := en.pc, startPc := en.pc, e := false, count := 0,
    noMatch := en.noMatch, single := false, stalledSince := none, waits := [] }
/-- Element (row, col) of a tile after the K groups from g0 up to g1 of a request that starts on the elements given (R30, R31, R163). -/
def afterGroups (d : TileDesc) (q : MmaReq) (g0 g1 : Nat) (start : Nat → W32) (row col : Nat) : W32 :=
  let part := fun (f : MFmt) (ws : List W32) (g : Nat) => (((f.row ws).getD []).drop (16 * g)).take 16
  (List.range (g1 - g0)).foldl (fun v g =>
      groupStep d v (part d.fa (q.a.getD row []) (g0 + g)) (part d.fb (q.b.getD col []) (g0 + g)))
    (if d.zero = true ∧ g0 = 0 then 0 else start (64 * row + col))
/-- The K groups of a request from those done up to g1 are applied to its tile as its reads may see it (R215), and to no other element of a
tile of its cohort. -/
def Accumulates (s t : State) (q : MmaReq) (g1 : Nat) : Prop :=
  q.a.length = 64 → q.b.length = 64 → ∀ c x d, s.cohort? q.gk.ck = some c → c.tiles.find? (fun y => y.no == q.tile) = some x → tileDesc q.desc = some d →
    ∃ c' start, t.cohort? q.gk.ck = some c' ∧
      (∀ e < 4096, MayRead c q.reader .acc (.tile q.tile e) (start e)) ∧
      ∀ n row col, row < 64 → col < 64 → element? c' n row col =
        if n = q.tile then afterGroups d q q.groupsDone g1 start row col else element? c n row col
/-- A thread after the rows of a gather that are its own are written (R174). -/
def rowsOn (g : Gather) (m : Thread) : Thread :=
  g.rows.foldl (fun u r => if r.key = m.key then
    (List.range 8).foldl (fun u j => match r.dst.getD j none with
      | some n => u.writeReg n ((vxmRow g.desc g.weights r.x).getD j 0)
      | none => u) u
    else u) m
/-- The one request that a core's threads have waiting for a slice. -/
def Waits (s : State) (core : Nat) (q : Req) : Prop :=
  s.reqs = [q] ∧ q.src = .core core ∧ q.vdev = none ∧ q.merged = []
/-- What a result that goes nowhere, or somewhere, adds to the results under way. -/
def returning (id : Nat) (ds : List Dest) : List Ret := if ds = [] then [] else [{ id := id, kind := .load, dests := ds }]

/-! Events: cohorts, copies, the Flue and the host channel. -/

/-- A source of a context forms a batch of increments and decrements (R295). -/
structure Formed (c d : Context) (src home : Nat) (incs decs : List CountChange) : Prop where
  batches : d.batches = c.batches ++
    [{ srcId := src, vdev := c.pod.podcfg.toNat % 1024, seq := aget 0 c.batchSeq src, incs := incs, decs := decs, home := home,
       applied := [], peers := [], stepped := c.stepping.isSome }]
  numbers : aget 0 d.batchSeq src = (aget 0 c.batchSeq src + 1) % 2 ^ 32
/-- One record enters the lowest free place of the record store, and nothing else of memory changes (R293). -/
def StoresRecord (s t : State) (c : Context) : Prop :=
  let va : W64 := wrapTo 64 (ux c.desc.rsbase + 128 * (c.freeSlots 1).headD 0)
  ∀ pte size, s.walk c deviceSrc va.toNat = .leaf pte size → (∀ e ∈ s.tlbHits c.id deviceSrc 0 va.toNat, e.pte = pte ∧ e.size = size) →
    let pa := pteAddr pte + va.toNat % size
    ∀ x, x < pa ∨ pa + 128 ≤ x → Memory.readByte t.mem x = Memory.readByte s.mem x
/-- A time fits a depth: its counters from there on are zero (R283). -/
abbrev fits (depth : Nat) (t : W64) : Prop := ∀ k < 4, depth ≤ k → counterOf t k = 0
/-- The count that a node holds of a key (R287). -/
def countAt (n : FlueNode) (loc : Nat) (t : W64) : Int :=
  match n.counts.find? fun x => x.loc == loc && decide (x.time = t) with
  | some x => x.n
  | none => 0
/-- What a list of changes adds to a key. -/
def netOf (l : List CountChange) (loc : Nat) (t : W64) : Int :=
  ((l.filter fun x => x.loc == loc && decide (x.time = t)).map (·.delta)).sum
/-- The time t(f) of a frame: its number is counter 0 (R303). -/
def atFrame (f : Nat) : W64 := BitVec.ofNat 64 (f % 2 ^ 16 * 2 ^ 48)
/-- A request of an engine, found by its context and number (R265). -/
def holdsReq (s : State) (e : Nat) (q : CopyReq) : Prop := ∃ x ∈ (s.engine e).queue, x = q
/-- An engine's queue without a request. -/
def without (l : List CopyReq) (q : CopyReq) : List CopyReq := l.filter fun r => !(r.ck.ctx == q.ck.ctx && r.seq == q.seq)
/-- An engine performs `q` of context `c`, a request of a whole template `tm` that is no collective. -/
structure Performs (s : State) (e : Nat) (q : CopyReq) (c : Context) (tm : Template) : Prop where
  op : s.op = .nat e ∨ s.op = .src (.engine e)
  current : s.current e = some q
  context : s.context? q.ck.ctx = some c
  template : q.tmpl = some tm
  single : q.ext = none
/-- A request fails with COPY_FAULT and a subcause (R267, R280): it is failed in its queue, its record joins the stop, and the
context's halt line is up. -/
def FailsCopy (s t : State) (e : Nat) (q : CopyReq) (c : Context) (sub : Nat) : Prop :=
  t = s.copyFail e q { rank := 7, cause := .copyFault, sub := sub } 0 ∧ t.mem = s.mem ∧
  (∃ x ∈ (t.engine e).queue, x.ck = q.ck ∧ x.seq = q.seq ∧ x.status = .failed 0x09 sub) ∧
  ∃ c' r, t.context? q.ck.ctx = some c' ∧ c'.traps = c.traps ++ [r] ∧ r.cause = 0x09 ∧ r.sub = sub ∧ r.req = true ∧
    (c.st = .running → c'.st = .halting)
/-- The unit that a frame trigger event names, with its fields (R303). -/
def unitOf (s : State) (k : Nat) : FrameUnit := aget FrameUnit.fresh s.units k

/-! Events: stops, context commands and debugging. -/

/-- ERR and SUB that CTXSTAT shows for a context (R348). -/
def errOf (s : State) (ctx : Nat) : Nat × Nat :=
  match s.mgmt.errs.find? fun e => e.1 == ctx with
  | some e => e.2
  | none => (0, 0)
/-- No command and no step is in progress (R348, R370). -/
def noCommand (s : State) : Prop := s.mgmt.busy = false ∧ ∀ c ∈ s.contexts, c.stepping = none
/-- A refused command leaves everything but what CTXSTAT shows: PROTECTION with SUB 4 (R349). -/
def CommandRefused (s : State) (x : Instr) (ctx : Nat) : Prop :=
  ∃ t, exec x s = .next t ∧ t = { s with mgmt := t.mgmt } ∧ t.mgmt.ctxNamed = ctx ∧ errOf t ctx = (0x05, 4) ∧
    t.mgmt.busy = s.mgmt.busy
/-- A unit's stop record joins a context's stop, and the unit stops (R340). -/
def RecordsStop (s t : State) (c : Context) (u : StopUnit) (n : Nat) : Prop :=
  ∃ d r, t.context? c.id = some d ∧ d.stopped = c.stopped ++ [u] ∧ d.stopRecs = c.stopRecs ++ [r] ∧ r.unit = u ∧
    r.clock = s.clock ∧ r.entries.length = n ∧ t.mem = s.mem ∧ t.threads = s.threads
/-- A cause joins a context's stop, and the halt line is up (R337). -/
def Halts (t : State) (c : Context) (cause : Nat) (p : TrapRec → Prop) : Prop :=
  ∃ d r, t.context? c.id = some d ∧ d.traps = c.traps ++ [r] ∧ r.cause = cause ∧ p r ∧ (c.st = .running → d.st = .halting)
/-- A number in the bytes of a record. -/
def field (b : Bytes) (off n : Nat) : Nat := leNat ((b.drop off).take n)

/-! Events: pods and the device. -/

/-- The context that DBGSEL names (R348, R414). -/
def Selected (s : State) (c : Context) : Prop := s.context? (s.mgmt.dbgsel.toNat % 2 ^ 16) = some c
/-- Bit `n` of the DEVMAP entry of a virtual device (R383). -/
def devBit (c : Context) (v n : Nat) : Bool := (sget 0 c.pod.devmap v).getLsbD n
/-- A member of the job that is not fenced (R383). -/
def isLive (c : Context) (v : Nat) : Prop := devBit c v 31 = true ∧ devBit c v 30 = false
/-- SELF, ROOT and JOBID of PODCFG (R383). -/
def selfOf (c : Context) : Nat := c.pod.podcfg.toNat % 2 ^ 10
/-- ROOT (R383). -/
def rootOf (c : Context) : Nat := c.pod.podcfg.toNat / 2 ^ 12 % 2 ^ 10
/-- JOBID (R383). -/
def jobOf (c : Context) : Nat := c.pod.podcfg.toNat / 2 ^ 32
/-- A control message of a live member of the context's job, next in its order and whole, comes in (R382). -/
structure Hears (s : State) (c : Context) (m : CtlMsg) : Prop where
  op : s.op = .ctl m
  job : s.jobContext m.jobid = some c
  context : s.context? c.id = some c
  member : isLive c m.src
  next : aget m.cseq c.pod.cseqIn m.src = m.cseq
  last : m.last = true
/-- A control message with a body has gone out to a member. -/
def Told (t : State) (v : Nat) (p : CtlBody → Prop) : Prop := ∃ m, .ctl v m ∈ t.outputs ∧ p m.body
/-- The nine control messages (R382). -/
def messages : List Instr :=
  [.haltMessage, .causeMessage, .prepMessage, .confirmMessage, .resentMessage, .releaseMessage, .flueMessage, .digestMessage, .fenceMessage]
/-- The context after an event, with the machine's memory, threads and groups as they were. -/
def Becomes (s t : State) (id : Nat) (p : Context → Prop) : Prop :=
  t.mem = s.mem ∧ t.groups = s.groups ∧ ∃ d, t.context? id = some d ∧ p d
/-- A context changes as its remap tables are rewritten, with memory and threads as they were. -/
def Turns (s t : State) (id : Nat) (p : Context → Prop) : Prop :=
  t.mem = s.mem ∧ t.threads = s.threads ∧ ∃ d, t.context? id = some d ∧ p d
/-- The page of the stop area lies on this device, and nothing pins a line or translates it otherwise, so that the stop header can be
cleared at once (R342). -/
def HeaderOpen (s : State) (c : Context) : Prop :=
  s.pins = [] ∧ c.desc.stopbase.toNat % 4096 = 0 ∧ c.desc.stopbase.toNat < 2 ^ 56 ∧
  ∃ pte size, s.walk c deviceSrc c.desc.stopbase.toNat = .leaf pte size ∧ pte.getLsbD 59 = false ∧
    ∀ e ∈ s.tlbHits c.id deviceSrc 0 c.desc.stopbase.toNat, e.pte = pte ∧ e.size = size
/-- A member is fenced (R392, R397). -/
def IsFenced (t : State) (id v : Nat) : Prop := ∃ d, t.context? id = some d ∧ devBit d v 30 = true
/-- A data message of a live member of the context's job, next in its order, comes in, and no line it addresses is pinned
(R389). -/
structure Receives (s : State) (c : Context) (m : DataMsg) : Prop where
  op : s.op = .data m
  job : s.jobContext m.jobid = some c
  context : s.context? c.id = some c
  member : isLive c m.src
  taken : c.pod.damper = .run
  next : ∀ n, (m.src, n) ∈ c.pod.lastApplied → m.seq = (n + 1) % 2 ^ 32
  pins : s.pins = []
end Sys2Proof.Claims

open Sys2Proof Sys2Proof.Machine Sys2Proof.Claims

/-- R68: every INTA form completes with the result of the table, in every form of its operands, and changes nothing else.
R69: every INTB form. -/
def Obligations.IntArith : Prop :=
  (∀ d a b : Slot,
  Does (.add d a b) (form3 d a b fun a b => wrapTo 32 (ux a + ux b)) ∧
  Does (.sub d a b) (form3 d a b fun a b => wrapTo 32 (ux a - ux b)) ∧
  Does (.mullo d a b) (form3 d a b fun a b => wrapTo 32 (ux a * ux b)) ∧
  Does (.mulhiI32 d a b) (form3 d a b fun a b => (wrapTo 64 (sx a * sx b)).extractLsb' 32 32) ∧
  Does (.mulhiN32 d a b) (form3 d a b fun a b => wrapTo 32 (ux a * ux b / 2 ^ 32)) ∧
  Does (.minI32 d a b) (form3 d a b (smaller sx)) ∧
  Does (.minN32 d a b) (form3 d a b (smaller ux)) ∧
  Does (.maxI32 d a b) (form3 d a b (larger sx)) ∧
  Does (.maxN32 d a b) (form3 d a b (larger ux)) ∧
  Does (.and d a b) (form3 d a b fun a b => a &&& b) ∧
  Does (.or d a b) (form3 d a b fun a b => a ||| b) ∧
  Does (.xor d a b) (form3 d a b fun a b => a ^^^ b) ∧
  Does (.shl d a b) (form3 d a b fun a b => wrapTo 32 (ux a * 2 ^ amt b)) ∧
  Does (.shr d a b) (form3 d a b fun a b => wrapTo 32 (ux a / 2 ^ amt b)) ∧
  Does (.sra d a b) (form3 d a b fun a b => wrapTo 32 (sx a / 2 ^ amt b)) ∧
  Does (.rol d a b) (form3 d a b fun a b => a.rotateLeft (amt b))) ∧
  (∀ d a b : Slot,
  Does (.ror d a b) (form3 d a b fun a b => a.rotateRight (amt b)) ∧
  Does (.abs d a) (form2 d a fun a => wrapTo 32 (sx a).natAbs) ∧
  Does (.clz d a) (form2 d a fun a => wrapTo 32 (firstOne (31 - ·) a)) ∧
  Does (.ctz d a) (form2 d a fun a => wrapTo 32 (firstOne id a)) ∧
  Does (.popc d a) (form2 d a fun a => wrapTo 32 ((List.range 32).countP a.getLsbD)) ∧
  Does (.brev d a) (form2 d a BitVec.reverse) ∧
  Does (.bswap d a) (form2 d a fun a =>
      a.extractLsb' 0 8 ++ a.extractLsb' 8 8 ++ a.extractLsb' 16 8 ++ a.extractLsb' 24 8) ∧
  Does (.andn d a b) (form3 d a b fun a b => a &&& ~~~b) ∧
  Does (.mad d a b) (form3d d a b fun d a b => wrapTo 32 (ux a * ux b + ux d)) ∧
  Does (.sel d a b) (form3d d a b fun d a b => if ux d ≠ 0 then a else b) ∧
  Does (.seq d a b) (form3 d a b fun a b => bit (a = b)) ∧
  Does (.sne d a b) (form3 d a b fun a b => bit (a ≠ b)) ∧
  Does (.sltI32 d a b) (form3 d a b fun a b => bit (sx a < sx b)) ∧
  Does (.sltN32 d a b) (form3 d a b fun a b => bit (ux a < ux b)) ∧
  Does (.sleI32 d a b) (form3 d a b fun a b => bit (sx a ≤ sx b)) ∧
  Does (.sleN32 d a b) (form3 d a b fun a b => bit (ux a ≤ ux b)))
/-- R70: every INT64 form, and ADDI.i64 of R71. R71 to R74 and R84. -/
def Obligations.IntWide : Prop :=
  (∀ d a b : Slot,
  Does (.addI64 d a b) (formP d a b fun a b => wrapTo 64 (ux a + ux b)) ∧
  Does (.subI64 d a b) (formP d a b fun a b => wrapTo 64 (ux a - ux b)) ∧
  Does (.mulloI64 d a b) (formP d a b fun a b => wrapTo 64 (ux a * ux b)) ∧
  Does (.mulwI32 d a b) (formW d a b fun a b => wrapTo 64 (sx a * sx b)) ∧
  Does (.mulwN32 d a b) (formW d a b fun a b => wrapTo 64 (ux a * ux b)) ∧
  Does (.minI64 d a b) (formP d a b (smaller sx)) ∧
  Does (.minN64 d a b) (formP d a b (smaller ux)) ∧
  Does (.maxI64 d a b) (formP d a b (larger sx)) ∧
  Does (.maxN64 d a b) (formP d a b (larger ux)) ∧
  Does (.shlI64 d a b) (formPs d a b fun a b => wrapTo 64 (ux a * 2 ^ amt6 b)) ∧
  Does (.shrI64 d a b) (formPs d a b fun a b => wrapTo 64 (ux a / 2 ^ amt6 b)) ∧
  Does (.sraI64 d a b) (formPs d a b fun a b => wrapTo 64 (sx a / 2 ^ amt6 b)) ∧
  Does (.seqI64 d a b) (formPc d a b fun a b => bit (a = b)) ∧
  Does (.sltI64 d a b) (formPc d a b fun a b => bit (sx a < sx b)) ∧
  Does (.sltN64 d a b) (formPc d a b fun a b => bit (ux a < ux b)) ∧
  Does (.addx d a b) (formPs d a b fun a b => wrapTo 64 (ux a + sx b)) ∧
  (∀ (imm : BitVec 11), Does (.addiI64 d a imm)
      { fields := [.dgs d 2, .gs a 2], new := fun r => toPair d (wrapTo 64 (ux (r.p 1) + sx imm)) })) ∧
  (∀ d a b : Slot,
  (∀ (imm : BitVec 11), Does (.addi d a imm) (form2 d a fun a => wrapTo 32 (ux a + sx imm))) ∧
  (∀ (imm : BitVec 11), Does (.andi d a imm) (form2 d a fun a => a &&& imm.zeroExtend 32)) ∧
  (∀ (imm : BitVec 11), Does (.ori d a imm) (form2 d a fun a => a ||| imm.zeroExtend 32)) ∧
  (∀ (imm : BitVec 11), Does (.xori d a imm) (form2 d a fun a => a ^^^ imm.zeroExtend 32)) ∧
  (∀ (imm : BitVec 11), Does (.sltiI32 d a imm) (form2 d a fun a => bit (sx a < sx imm))) ∧
  (∀ (imm : BitVec 11), Does (.sltiN32 d a imm) (form2 d a fun a => bit (ux a < ux (wrapTo 32 (sx imm))))) ∧
  (∀ (n : BitVec 5), Does (.shli d a n) (form2 d a fun a => wrapTo 32 (ux a * 2 ^ n.toNat))) ∧
  (∀ (n : BitVec 5), Does (.shri d a n) (form2 d a fun a => wrapTo 32 (ux a / 2 ^ n.toNat))) ∧
  (∀ (n : BitVec 5), Does (.srai d a n) (form2 d a fun a => wrapTo 32 (sx a / 2 ^ n.toNat))) ∧
  (∀ (n : BitVec 5), Does (.rori d a n) (form2 d a fun a => a.rotateRight n.toNat)) ∧
  (∀ (signed : Bool) (pos len1 : BitVec 5), Does (.bfx d a signed pos len1) (form2 d a fun a =>
      let f := bitsAt a pos.toNat (len1.toNat + 1)
      wrapTo 32 (if signed && decide (2 ^ len1.toNat ≤ f) then f - 2 ^ (len1.toNat + 1) else f))) ∧
  (∀ (pos len1 : BitVec 5), Does (.bfi d a pos len1)
      { fields := [.rwg d, .g a],
        new := fun r => toSlot d (wrapTo 32 (ux (r.x 0) - bitsAt (r.x 0) pos.toNat (len1.toNat + 1) * 2 ^ pos.toNat +
                                             bitsAt (r.x 1) 0 (len1.toNat + 1) * 2 ^ pos.toNat)) }) ∧
  (∀ (imm : BitVec 18), Does (.lui d imm)
      { fields := [.dg d], new := fun _ => toSlot d (wrapTo 32 (ux imm * 2 ^ 14)) }) ∧
  (∀ (imm : BitVec 14), Does (.loi d imm)
      { fields := [.rwg d], new := fun r => toSlot d (wrapTo 32 (ux (r.x 0) / 2 ^ 14 * 2 ^ 14 + ux imm)) }) ∧
  (∀ (sat sa sb : Bool), Does (.idp4 d a b sat sa sb) (formDot 8 d a b sat sa sb)) ∧
  (∀ (sat sa sb : Bool), Does (.idp8 d a b sat sa sb) (formDot 4 d a b sat sa sb)))
/-- R75: FADD, FSUB, FMUL and FFMA in both types and every rounding mode. -/
def Obligations.FpArith : Prop := ∀ d a b ty rm, ∀ p ∈ fpArith d a b ty rm, DoesFp p.1 p.2
/-- R76, R78, R81 to R83: minima, maxima, compares and packed pairs. -/
def Obligations.FpForms : Prop := ∀ d a b, ∀ p ∈ fpForms d a b, DoesFp p.1 p.2
/-- R77, R79: sign operations and special functions. R85, R86: conversions. -/
def Obligations.FpUnary : Prop :=
  (∀ d a b, ∀ p ∈ fpUnary d a b, DoesFp p.1 p.2) ∧
  (∀ d a dst src k fmt sat rm, ∀ p ∈ fpConvert d a dst src k fmt sat rm, DoesFp p.1 p.2)
/-- R104 to R111: packets. R107, R111, R112: the packet forms of more than one clock. -/
def Obligations.Packets : Prop :=
  ((∀ d a b, ∀ p ∈ packetForms d a b, DoesFp p.1 p.2) ∧ (∀ d a k, ∀ p ∈ packetElem d a k, DoesFp p.1 p.2)) ∧
  (∀ d a b : Slot,
  HandsPacket (.watt d a b) [.dw d, .w a, .w b] (fun m r =>
    let q := fourSamples fun k => watt m.dyn (sampleOf (r.pk 1) k).toNat (sampleOf (r.pk 2) k).toNat
    (q.1, [(d.toNat, q.2)])) ∧
  HandsPacket (.wmuellerG d a b) [.dw d 4, .w a 4, .gs b 16] (fun m r =>
    muellerRes d (muellerRow m (fun i j _ => num parF32 ((r.l 2).getD (4 * i + j) 0)) (r.pks 1))) ∧
  HandsPacket (.wmuellerW d a b) [.dw d 4, .w a 4, .w b 16] (fun m r =>
    muellerRes d (muellerRow m (fun i j k => numAt ((r.pks 2).getD (4 * i + j) 0) k) (r.pks 1))))
/-- R41, R67: an enabled flag traps and no part of the result is written. -/
def Obligations.FpException : Prop :=
  ∀ d a b ty rm dst src k fmt sat,
    ∀ p ∈ fpArith d a b ty rm ++ fpForms d a b ++ fpUnary d a b ++ fpConvert d a dst src k fmt sat rm ++ packetForms d a b,
      TrapsFp p.1 p.2
/-- R55, R87 to R89: the program counter after an instruction, the targets of branches and calls, the link of CALL, and the
jumps. R55: a jump to an illegal target traps, is not taken, and writes no link. -/
def Obligations.Branches : Prop :=
  ((∀ pc, nextPc pc = nextWord pc) ∧
  (∀ c off, Transfers (.br c off) [.g c] false (fun _ => True)
    (fun i r => if c = 0 ∨ r.x 0 ≠ 0 then some (targetOf i.run.pc off) else none) fun _ _ m => m) ∧
  (∀ c off, Transfers (.brz c off) [.g c] false (fun _ => True)
    (fun i r => if r.x 0 = 0 then some (targetOf i.run.pc off) else none) fun _ _ m => m) ∧
  (∀ d off, Transfers (.call d off) [.dgs d 2] true (fun _ => True) (fun i _ => some (targetOf i.run.pc off))
    fun i _ => toPair d (nextWord i.run.pc)) ∧
  (∀ a, Transfers (.jmp a) [.gs a 2] true (fun r => inRange (r.p 0) ∧ aligned4 (r.p 0)) (fun _ r => some (r.p 0))
    fun _ _ m => m) ∧
  (∀ a, Transfers (.ret a) [.gs a 2] true (fun r => inRange (r.p 0) ∧ aligned4 (r.p 0)) (fun _ r => some (r.p 0))
    fun _ _ m => m) ∧
  (∀ d a, Transfers (.callr d a) [.dgs d 2, .gs a 2] true (fun r => inRange (r.p 1) ∧ aligned4 (r.p 1))
    (fun _ r => some (r.p 1)) fun i _ => toPair d (nextWord i.run.pc))) ∧
  ((∀ a, JumpTraps (.jmp a) [.gs a 2] 0) ∧ (∀ a, JumpTraps (.ret a) [.gs a 2] 0) ∧
  (∀ d a, JumpTraps (.callr d a) [.dgs d 2, .gs a 2] 1))
/-- R34, R99, R100: the three ways to move the window. R38, R98: RDSR of every special register, outside RECORD and REPLAY
for the two clocks (R367). R40, R99: WRSR to %status and %visit; a read-only register raises PROTECTION and nothing is
written. -/
def Obligations.SpecialRegisters : Prop :=
  ((∀ v : BitVec 7, SetsBase (.wbase v) [] fun _ _ => 8 * ux v) ∧
  (∀ v : BitVec 7, SetsBase (.wbadd v) [] fun m _ => m.wb + 8 * sx v) ∧
  (∀ a, SetsBase (.wrsr a .wb) [.g a] fun _ r => ux (r.x 0) % 1024)) ∧
  (∀ d (r : SReg), (Instr.rdsr d r).wf = true → ∀ s i,
  Ready s i .both [if r.wide then .dgs d 2 else .dg d] →
  (r = .clock ∨ r = .ptptime → ∀ m ∈ s.members i, m.status.toNat / 2 ^ 26 % 4 = 0) →
  ∃ t, exec (.rdsr d r) s = .next t ∧
    Acts s t i false
      (fun m => if r.wide then toPair d (BitVec.ofNat 64 (specialValue s i m r)) m
                else toSlot d (BitVec.ofNat 32 (specialValue s i m r)) m) (fall i)) ∧
  (∀ a (r : SReg), (Instr.wrsr a r).wf = true → ∀ s i,
  let field := [if r.wide then Fld.gs a 2 else .g a]
  Ready s i .both field →
  let v := fun m => (s.readFields m field).x 0
  let badMode := fun m => 5 ≤ rmOf (v m)
  let badEn := fun m => ¬supervisor m ∧ (v m).extractLsb' 16 5 ≠ enabled m
  (r = .visit → ∃ t, exec (.wrsr a r) s = .next t ∧ Acts s t i false (fun m => { m with visit := v m }) (fall i)) ∧
  (r = .status → (∀ m ∈ s.members i, ¬badMode m ∧ ¬badEn m) → ∃ t, exec (.wrsr a r) s = .next t ∧
    ∃ new : Thread → W32, Acts s t i false (fun m => { m with status := new m }) (fall i) ∧
      ∀ m ∈ s.members i, ∀ k < 32, (new m).getLsbD k = if statusBit k then (v m).getLsbD k else m.status.getLsbD k) ∧
  (∀ m, r = .status → First s i badMode m →
    exec (.wrsr a r) s = .next (s.takeTrap i m.key.tid { rank := 1, cause := .illegalEncoding })) ∧
  (∀ m, r = .status → (∀ u ∈ s.members i, ¬badMode u) → First s i badEn m →
    exec (.wrsr a r) s = .next (s.takeTrap i m.key.tid privileged)) ∧
  (r ≠ .wb → r ≠ .visit → r ≠ .status → ∀ m, (s.members i).head? = some m →
    exec (.wrsr a r) s = .next (s.takeTrap i m.key.tid privileged)))
/-- R90, R92: NOP changes nothing but the program counter; YIELD ends the run and changes no architectural state. R93,
R97: TRAP, BRK and HALT raise their cause against the lowest lane, with the immediate, and the thread continues at PC + 4
when it resumes. -/
def Obligations.NopYieldTraps : Prop :=
  (∀ s i, Ready s i .both [] →
  (∃ t, exec .nop s = .next t ∧ Acts s t i false id (fall i)) ∧
  ∃ t, exec .yield s = .next t ∧ Continues s t i true (fall i) ∧ Frame s t i ∧ t.threads = s.threads ∧
    t.cohorts = s.cohorts ∧ t.rets = s.rets) ∧
  (∀ s i, Ready s i .both [] → ∀ m, (s.members i).head? = some m →
  (∀ n, exec (.trap n) s = .next (s.takeTrap i m.key.tid
    { rank := 7, cause := .software, info1 := n.zeroExtend 64 } true)) ∧
  (∀ n, exec (.brk n) s = .next (s.takeTrap i m.key.tid
    { rank := 7, cause := .breakpoint, info1 := n.zeroExtend 64 } true)) ∧
  ((∀ u ∈ s.members i, supervisor u) →
    exec .halt s = .next (s.takeTrap i m.key.tid { rank := 7, cause := .software, info1 := 0xFF } true)))
/-- R54: HALT, ERET and TLW in user mode. -/
def Obligations.UserMode : Prop := ∀ s i m, First s i (fun m => ¬supervisor m) m →
  (Ready s i .both [] → exec .halt s = .next (s.takeTrap i m.key.tid privileged) ∧
    exec .eret s = .next (s.takeTrap i m.key.tid privileged)) ∧
  ∀ a b, (Instr.tlw a b).wf = true → Ready s i .compute [.gs a 2, .g b] →
    exec (.tlw a b) s = .next (s.takeTrap i m.key.tid privileged)
/-- R95: ERET returns to XPC with SUP := XSUP. -/
def Obligations.Return : Prop := ∀ s i, Ready s i .both [] → (∀ m ∈ s.members i, supervisor m) →
  ∃ t, exec .eret s = .next t ∧ ∃ status : Thread → W32,
    Acts s t i true (fun m => { m with status := status m }) (fun m => m.xpc) ∧
    ∀ m, ∀ k < 32, (status m).getLsbD k = if k = 31 then m.xsup else m.status.getLsbD k
/-- R45, R334, R335, R337: what taking a trap does. -/
def Obligations.TakeTrap : Prop := ∀ (s : State) i tid x after, s.issuing = some i →
  let t := s.takeTrap i tid x after
  let stops := fun (k : ThKey) => k.ck = i.run.gk.ck ∧ k.addr = i.run.addr ∧ k.tid ∈ i.run.members
  (∀ k, stops k → t.thread? k = (s.thread? k).map fun u => { u with trap := BitVec.ofNat 8 x.cause.code }) ∧
  (∀ k, ¬stops k → t.thread? k = s.thread? k) ∧
  ((t.core i.core).slot i.slot).run = none ∧
  (∀ g, s.group? i.run.gk = some g → ∃ g', t.group? i.run.gk = some g' ∧ ∃ en ∈ g'.frontier, stoppedEntry i en x after) ∧
  (∀ c, s.context? i.run.gk.ck.ctx = some c → c.st = .running → ∃ c', t.context? i.run.gk.ck.ctx = some c' ∧
    c'.st = .halting ∧ ∃ r, c'.traps = c.traps ++ [r] ∧ r.cause = x.cause.code ∧ r.pc = i.run.pc ∧ r.tid = tid ∧
      r.launch = i.run.gk.ck.launch ∧ r.coh = i.run.gk.ck.coh ∧ r.gid = i.run.gk.gid ∧ r.addr = x.addr ∧
      r.info1 = x.info1 ∧ r.info2 = x.info2 ∧ r.write = x.write ∧ r.clock = s.clock) ∧
  (∀ a, Memory.readByte t.mem a = Memory.readByte s.mem a) ∧ t.cohorts = s.cohorts ∧ t.rets = s.rets ∧
  (∀ r ∈ t.reqs, r ∈ s.reqs) ∧ ∀ r ∈ s.reqs, r.vdev = none → r.op ≠ .probe → r ∈ t.reqs
/-- R33, R35, R37: slot 0, the mapping of a slot by the window base, and which fields raise REGISTER_RANGE. -/
def Obligations.SlotRules : Prop := ∀ (m : Thread),
  (m.slot 0 = 0 ∧ ∀ v, m.writeSlot 0 v = m) ∧
  (∀ n < 128, n ≠ 0 → ¬(m.split = true ∧ 120 ≤ n) → m.slot n = m.reg (m.wb + n) ∧
    ∀ v, swf 0 m.regs = true → (m.writeSlot n v).slot n = v ∧
      ∀ r, r ≠ m.wb + n → (m.writeSlot n v).reg r = m.reg r) ∧
  (∀ (d : Slot), m.fieldWords (.gs 0 2) = [0, 0] ∧ (d.toNat ≠ 0 → m.fieldWords (.gs d 2) = [m.slot d.toNat, m.slot (d.toNat + 1)])) ∧
  ∀ st fs, m.mayRun st = true → fs.any m.badQueue = false →
    (m.operandTrap st fs = none ↔
      ∀ f ∈ fs, ∀ k < f.n, if f.isW then f.first + k < m.wallot
        else f.first + k = 0 ∨ (m.split = true ∧ 120 ≤ f.first + k) ∨ m.wb + (f.first + k) < m.gallot) ∧
    ∀ x, m.operandTrap st fs = some x → x.cause = .registerRange ∧ x.rank = 2
/-- R46 to R53: words of the manual's examples and of each family decode to the instructions they stand for; words with a
reserved field set, an unassigned major or an odd pair are no instruction. -/
def Obligations.DecodeWords : Prop :=
  decodeWord 0x02014407#32 = .ok (.add 5 8 7) ∧
  decodeWord 0x3C000000#32 = .ok .nop ∧
  decodeWord 0x3E010009#32 = .ok (.rdsr 4 .clock) ∧
  decodeWord 0x14143043#32 = .ok (.srai 5 6 3) ∧
  decodeWord 0x2B814307#32 = .ok (.bdot2 5 6 7) ∧
  decodeWord 0x44A14307#32 = .ok (.shflXor 5 6 7) ∧
  decodeWord 0x45014300#32 = .ok (.voteBallot 5 6) ∧
  decodeWord 0x3E400008#32 = .ok (.wbase 8) ∧
  decodeWord 0x3E60007E#32 = .ok (.wbadd 0x7E) ∧
  decodeWord 0#32 = .error .unassignedMajor ∧
  decodeWord 0x3C000001#32 = .error .reservedField ∧
  decodeWord 0x50203680#32 = .ok (.ld 8 6 .n128 0x80) ∧
  decodeWord 0x7000D004#32 = .ok (.emit 3 32 4) ∧
  decodeWord 0x6A210806#32 = .ok (.trit 4 16 6) ∧
  decodeWord 0x06004082#32 = .error .badOperand
/-- Decoding reads back what the encoder writes: for every well-formed word instruction and either run-end flag. -/
def Obligations.EncodeDecode : Prop := ∀ (i : Instr) (e : Bool) (w : W32), i.wf = true → encode e i = some w →
  decodeWord w = .ok i ∧ runEnd w = e
/-- Each word has one meaning: a word that decodes is the encoding of what it decodes to, with its run-end flag, so that no
bit of it is passed over (R46, R53). -/
def Obligations.DecodeEncode : Prop := ∀ (w : W32) (i : Instr), decodeWord w = .ok i →
  i.wf = true ∧ encode (runEnd w) i = some w
/-- A step in which a slot issues: the word its run stands at is read through the members' translations, and the step is the
decoded instruction at that state, or the trap of a word that is none (R46, R53, R87), after which clocks pass. The clock itself goes on
by one where the core's slots of this clock have had their turn (R312). -/
def Obligations.StepDecoded : Prop := ∀ s s0 core slot i c pte size,
  s.choose = (some (.slot core slot), s0) → (s0.forSlot core slot).issuing = some i → s0.members i ≠ [] →
  s0.context? i.run.gk.ck.ctx = some c → ¬aperture c i.run.pc → Mapped s0 c i i.run.pc pte size →
  (∀ m ∈ s0.members i, permTrap i.run.pc .fetch m.who pte = none) →
  let pa := pteAddr pte + i.run.pc.toNat % size
  (∀ q ∈ s0.reqs, q.ofCore core = true → sliceOf q.pa ≠ sliceOf pa) →
  s0.refused (.core i.core) (pa / 64) = false → s0.poisoned pa 4 = false →
  (∀ e ∈ (s0.core i.core).fetchBuf, e.1 = c.id → e.2.1 = i.run.pc.toNat → e.2.2 = w32 (leNat (Memory.read s0.mem pa 4))) →
  let w := w32 (leNat (Memory.read s0.mem pa 4))
  ∃ s1 : State,
    (s1.cur = some (core, slot) ∧ s1.mem = s0.mem ∧ s1.threads = s0.threads ∧ s1.groups = s0.groups ∧
      s1.cohorts = s0.cohorts ∧ s1.contexts = s0.contexts ∧ s1.rets = s0.rets ∧
      (s1.clock = s0.clock ∨ s1.clock = s0.clock + 1) ∧
      s1.issuing = some { i with run := { i.run with e := w.getLsbD 31 } }) ∧
    (∀ x, decodeWord w = .ok x → step s = ticked (exec x s1)) ∧
    ∀ e, decodeWord w = .error e →
      step s = ticked (.next (s1.takeTrap i (i.run.members.headD 0) { rank := 1, cause := .illegalEncoding }))
/-- A step in which an event of another agent takes place is that event at the state it is due in, after which clocks pass. -/
def Obligations.StepEvent : Prop := ∀ s s0 x op, s.choose = (some (.event x op), s0) →
  step s = ticked (exec x (s0.forEvent x op)) ∧ (s0.forEvent x op).op = op ∧
  (∃ n, s0.forEvent x op = { s0 with cur := none, op := op, clock := s0.clock + n }) ∧
  ∀ t, ∃ u, ticked (.next t) = .next u ∧ t.clock ≤ u.clock ∧ t.time.ns ≤ u.time.ns ∧ (u.moved = t.moved ∨ u.moved = t.clock) ∧
    u = { t with clock := u.clock, time := { t.time with ns := u.time.ns }, free := u.free, moved := u.moved }
/-- No instruction and no event stops the machine but an access of the host or of a context command to a physical address
beyond the capacity, which no slice holds (R183): every other step answers a next state. What comes from outside are events,
never words. -/
def Obligations.StepsGoOn : Prop := ∀ s, (∀ x ∈ s.inputs, ∀ e, encode e x.1 = none) → match step s with
  | .next _ => True
  | .fault f => f = .badPhysicalAddress
  | .refused _ => False
/-- Memory keeps its canonical form in every step (log entry 3), so that equal memories are equal lists. -/
def Obligations.MemoryCanonical : Prop := ∀ s t, s.memOk → step s = .next t → t.memOk
/-- The device right after reset, before it boots: the values the manual gives (R137, R154, R348, R356, R360, R383, R399,
R411, R412) and the canonical form of memory; the other values are the model's (log entries 2 to 8). -/
def Obligations.Reset : Prop :=
  State.reset.memOk ∧ State.reset.contexts = [] ∧ State.reset.mgmt.bootstat = 0 ∧ State.reset.mgmt.ctxarg = 0 ∧
  State.reset.mgmt.dbgsel = 0 ∧ State.reset.mgmt.pwrlim = 3100 ∧ State.reset.time.ctl = 0 ∧ State.reset.frozen = false ∧
  (∀ n, (State.reset.core n).isctl = 0xA2010200#32 ∧ (State.reset.core n).smpctl = 0 ∧ (State.reset.core n).rdctl = 0 ∧
    (State.reset.core n).rdhist = List.replicate 16 0) ∧
  (∀ n, (State.reset.engine n).queue = []) ∧
  ∀ a, Memory.readByte State.reset.mem a = 0
/-- R94, R415: SYS in user mode reads its entry of the system-call table as supervisor and enters it, saving PC + 4 and SUP; an
entry that cannot be entered and a SYS in supervisor mode raise PROTECTION. -/
def Obligations.SystemCall : Prop := ∀ s i (n : BitVec 7) c pte size, Ready s i .both [] →
  s.context? i.run.gk.ck.ctx = some c →
  (∀ m, First s i supervisor m → exec (.sys n) s = .next (s.takeTrap i m.key.tid privileged)) ∧
  let va : W64 := wrapTo 64 (ux c.desc.syscall + 8 * ux n)
  let pa := pteAddr pte + va.toNat % size
  let entry := w64 (leNat (Memory.read s.mem pa 8))
  let legal := entry ≠ 0 ∧ aligned4 entry ∧ inRange entry
  ((∀ m ∈ s.members i, ¬supervisor m) → s.reqs = [] → s.pins = [] → va.toNat % 8 = 0 → inRange va →
    Mapped s c i va pte size → permTrap va .load .device pte = none → s.poisoned pa 8 = false →
    ∀ m, (s.members i).head? = some m →
    (legal → ∃ t, exec (.sys n) s = .next t ∧
      Acts s t i true (fun u => { u with xpc := nextPc i.run.pc, xsup := false, status := u.status ||| 0x80000000#32 })
        (fun _ => entry)) ∧
    (¬legal → exec (.sys n) s = .next (s.takeTrap i m.key.tid { rank := 7, cause := .protection })))
/-- R91, R128, R129, R147, R148, R153: where no barrier of the cohort holds an arrival, EXIT ends its members, JOIN makes them
pending with their keys at their JOIN, and LEAVE makes each a group of its own at the next instruction; each leaves its group. -/
def Obligations.ExitJoinLeave : Prop := ∀ s i, noArrivals s i → i.run.members.Nodup →
  (Ready s i .both [] → ∃ t, exec .exit s = .next t ∧ KeepsRest s t i ∧
    (∀ m ∈ s.members i, t.thread? m.key = some { m with exited := true }) ∧
    ∀ g, s.group? i.run.gk = some g →
      let rest := if i.run.addr then g.members else remaining g i
      t.group? i.run.gk = if rest = [] ∧ g.frontier = [] then none else some { g with members := rest, since := s.clock }) ∧
  (∀ a, Ready s i .unsplit [.g a] → i.run.addr = false → ∃ t, exec (.join a) s = .next t ∧ KeepsRest s t i ∧
    (∀ m ∈ s.members i, t.thread? m.key =
      some { m with join := some (JoinWait.mk (((s.readFields m [.g a]).x 0).extractLsb' 0 16) i.run.pc s.clock) }) ∧
    ∀ g, s.group? i.run.gk = some g → i.run.gk.gid < 2048 →
      t.group? i.run.gk = if remaining g i = [] ∧ g.frontier = [] then none
                          else some { g with members := remaining g i, since := s.clock }) ∧
  (Ready s i .unsplit [] → i.run.addr = false → i.run.gk.gid < 2048 →
    (∀ m ∈ s.members i, s.group? { i.run.gk with gid := 2048 + m.key.tid } = none) →
    ∃ t, exec .leave s = .next t ∧ KeepsRest s t i ∧
    (∀ m ∈ s.members i, t.thread? m.key = some { m with gid := 2048 + m.key.tid, join := none } ∧
      ∃ g', t.group? { i.run.gk with gid := 2048 + m.key.tid } = some g' ∧ g'.members = [m.key.tid] ∧ g'.role = m.role ∧
        ∃ en, g'.frontier = [en] ∧ en.pc = nextPc i.run.pc ∧ en.members = [m.key.tid] ∧ en.addr = false ∧ en.wait = none) ∧
    ∀ g, s.group? i.run.gk = some g →
      t.group? i.run.gk = if remaining g i = [] ∧ g.frontier = [] then none
                          else some { g with members := remaining g i, since := s.clock })
/-- R96, R208, R215, R216, R240, R241: FENCE.I, a FENCE of each scope and FENCE.X, where no request is open and no
line is pinned. -/
def Obligations.Fences : Prop := ∀ s i, Ready s i .both [] → s.reqs = [] → s.pins = [] → LinesOk s i.core →
  (∃ t, exec .fenceI s = .next t ∧ Continues s t i true (fall i) ∧ WrittenBack s t i.core ∧ t.threads = s.threads ∧
    (t.core i.core).fetchBuf = [] ∧ (t.core i.core).seqCache = []) ∧
  (∀ sc, wideScope sc = true → ∃ t, exec (.fence sc) s = .next t ∧ Continues s t i false (fall i) ∧
    WrittenBack s t i.core ∧ t.threads = s.threads ∧ t.pins = [] ∧ ∀ l ∈ (t.core i.core).l1, l.tag = .ro) ∧
  (∀ sc, wideScope sc = false → (s.dirtyLines i.core).length ≤ 8 →
    ∃ t, exec (.fence sc) s = .next t ∧ Continues s t i false (fall i) ∧ t.threads = s.threads ∧
      (∀ a, Memory.readByte t.mem a = Memory.readByte s.mem a) ∧ (t.core i.core).l1 = (s.core i.core).l1 ∧
      ∀ n, (∃ p ∈ t.pins, p.line = n ∧ p.core = i.core) ↔
        ∃ l ∈ (s.core i.core).l1, l.tag = .gen ∧ l.isDirty = true ∧ l.line = n) ∧
  ∀ sc (paths : BitVec 5), ∃ t, exec (.fenceX sc paths) s = .next t ∧ Continues s t i false (fall i) ∧
    WrittenBack s t i.core ∧ t.threads = s.threads ∧ t.pins = [] ∧
    (wideScope sc = true → ∀ l ∈ (t.core i.core).l1, l.tag = .ro) ∧
    (paths.getLsbD 1 = true → ∀ l ∈ (t.core i.core).l1, l.tag = .gen)
/-- R150: SHFL takes g[a] of the lane it names where that lane is in the entry, else the member's own. R151: every member
of the entry receives the outcome of the vote, and no lane outside the entry has a part in it. -/
def Obligations.Shuffles : Prop :=
  (∀ d a b : Slot,
  Exchanges (.shflIdx d a b) [.dg d, .g a, .g b] d (ShflRule fun _ x => x) ∧
  Exchanges (.shflUp d a b) [.dg d, .g a, .g b] d (ShflRule fun l x => l - x) ∧
  Exchanges (.shflDown d a b) [.dg d, .g a, .g b] d (ShflRule fun l x => l + x) ∧
  Exchanges (.shflXor d a b) [.dg d, .g a, .g b] d (ShflRule fun l x => (l.toNat ^^^ x : Nat))) ∧
  (∀ d a : Slot,
  Exchanges (.voteAny d a) [.dg d, .g a] d (fun _ ms read _ v =>
    ((∃ q ∈ ms, votes read q) → v = 1) ∧ ((∀ q ∈ ms, ¬votes read q) → v = 0)) ∧
  Exchanges (.voteAll d a) [.dg d, .g a] d (fun _ ms read _ v =>
    ((∀ q ∈ ms, votes read q) → v = 1) ∧ ((∃ q ∈ ms, ¬votes read q) → v = 0)) ∧
  Exchanges (.voteBallot d a) [.dg d, .g a] d (fun g ms read _ v =>
    ∀ k < 32, v.getLsbD k = true ↔ ∃ q ∈ ms, laneIn g q = (k : Nat) ∧ votes read q))
/-- R152 to R155: a BAR that is not its group's last arrival blocks its entry and leaves its operands with the barrier; an
op that differs from one present raises BARRIER_OVERFLOW. R135, R152, R154, R155: a BAR that completes its phase, where one
group is expected and it arrives whole: the phase bit flips, every participant receives its result by the tree, in
ascending %tid, and the run goes on at the next word. Where no group is expected the arrival overflows. -/
def Obligations.BarPhases : Prop :=
  (∀ d a nb, ∀ p ∈ ((Instr.barSync nb, BarOp.sync) :: barForms d a nb), ∀ s i c g,
  let n := nb.toNat
  let fs := if p.2 = .sync then [] else [Fld.dg d, .g a]
  Ready s i .compute fs → MayArrive s i n c g →
  ((∀ x ∈ (c.bar n).arrivals, x.waits = true → x.op ≠ .sync → p.2 ≠ .sync → x.op = p.2) →
    (∃ u ∈ g.members, u ∉ i.run.members ∧ ∀ x ∈ (c.bar n).arrivals, x.tid ≠ u) →
    ∃ t, exec p.1 s = .next t ∧ BlockedAs t i (.bar n) ∧ t.threads = s.threads ∧ t.mem = s.mem ∧
      let new := (s.members i).map fun m => arrivalOf m true p.2 ((s.readFields m fs).x 1) (if p.2 = .sync then 0 else d)
      BarIs s t i.run.gk.ck n { (c.bar n) with arrivals := (c.bar n).arrivals ++ new }) ∧
  ∀ m, (s.members i).head? = some m → (∃ x ∈ (c.bar n).arrivals, x.waits = true ∧ x.op ≠ .sync ∧ x.op ≠ p.2) →
    p.2 ≠ .sync → exec p.1 s = .next (s.takeTrap i m.key.tid (overflow n))) ∧
  (∀ d a nb, ∀ p ∈ ((Instr.barSync nb, BarOp.sync) :: barForms d a nb), ∀ s i c g,
  let n := nb.toNat
  let fs := if p.2 = .sync then [] else [Fld.dg d, .g a]
  let b := c.bar n
  Ready s i .compute fs → MayArrive s i n c g → g.members = i.run.members → b.arrivals = [] → b.deferred = [] →
  b.arr = 0 → b.groups = [] →
  (b.expa = 1 → b.pend = 0 → ∃ t, exec p.1 s = .next t ∧ t.mem = s.mem ∧ Continues s t i false (fall i) ∧
    BarIs s t i.run.gk.ck n { b with phase := !b.phase, expb := 0, k := b.k + 1, lastCredit := none } ∧
    (∀ j m, (s.members i)[j]? = some m → ∃ v, t.thread? m.key =
        some (inPhase (barPhase s i n (b.k + 1)) (if p.2 = .sync then m else toSlot d v m)) ∧
      (p.2 ≠ .sync → received p.2 ((s.members i).map fun m => (s.readFields m fs).x 1) j v))) ∧
  (b.expa = 0 → ∀ m, (s.members i).head? = some m → exec p.1 s = .next (s.takeTrap i m.key.tid (overflow n))))
/-- R311 to R317: NBAR.INIT, ARRIVE, EXPECT, WAIT and TEST on barrier n of the cohort. -/
def Obligations.NamedBarriers : Prop := ∀ (d a : Slot) (nb : BitVec 4) s i c,
  let n := nb.toNat
  let b := c.bar n
  s.cohort? i.run.gk.ck = some c → c.bars.length = 16 →
  (Ready s i .compute [.g a] →
    let v := fun m => (s.readFields m [.g a]).x 0
    let total : Int := ((s.members i).map fun m => ux (v m)).sum
    -- INIT
    (∀ m, (s.members i).getLast? = some m → b.arr = 0 → b.expb = 0 → b.pend = 0 → b.arrivals = [] →
      ∃ t, exec (.nbarInit a nb) s = .next t ∧ Continues s t i false (fall i) ∧ t.threads = s.threads ∧ t.mem = s.mem ∧
        BarIs s t i.run.gk.ck n { b with expa := (v m).toNat % 2 ^ 12 }) ∧
    (∀ m, (s.members i).head? = some m → (b.arr ≠ 0 ∨ b.expb ≠ 0 ∨ b.pend ≠ 0 ∨ b.arrivals ≠ []) →
      exec (.nbarInit a nb) s = .next (s.takeTrap i m.key.tid (overflow n))) ∧
    -- EXPECT
    (b.expb + total ≤ 2 ^ 32 - 1 → b.pend + total ≤ 2 ^ 31 - 1 →
      ∃ t, exec (.nbarExpect a nb) s = .next t ∧ Continues s t i false (fall i) ∧ t.threads = s.threads ∧ t.mem = s.mem ∧
        BarIs s t i.run.gk.ck n { b with expb := b.expb + total.toNat, pend := b.pend + total }) ∧
    (∀ m, (s.members i).head? = some m → (2 ^ 32 - 1 < b.expb + total ∨ 2 ^ 31 - 1 < b.pend + total) →
      exec (.nbarExpect a nb) s = .next (s.takeTrap i m.key.tid (overflow n))) ∧
    -- WAIT
    ((∀ m ∈ s.members i, (v m).getLsbD 0 ≠ b.phase) →
      ∃ t, exec (.nbarWait a nb) s = .next t ∧ Continues s t i false (fall i) ∧ t.mem = s.mem ∧
        ∀ m ∈ s.members i, t.thread? m.key = some (if b.k = 0 then m else inPhase (barPhase s i n b.k) m)) ∧
    ((∃ m ∈ s.members i, (v m).getLsbD 0 = b.phase) → (s.group? i.run.gk).isSome = true →
      ∃ t par, exec (.nbarWait a nb) s = .next t ∧ BlockedAs t i (.nbar n par) ∧ t.threads = s.threads ∧ t.mem = s.mem ∧
        par = (s.members i).map fun m => (m.key.tid, (v m).getLsbD 0))) ∧
  -- ARRIVE
  (∀ g, Ready s i .compute [] → MayArrive s i n c g →
    (∃ u ∈ g.members, u ∉ i.run.members ∧ ∀ x ∈ b.arrivals, x.tid ≠ u) →
    ∃ t, exec (.nbarArrive nb) s = .next t ∧ Continues s t i false (fall i) ∧ t.threads = s.threads ∧ t.mem = s.mem ∧
      BarIs s t i.run.gk.ck n { b with arrivals := b.arrivals ++ (s.members i).map fun m => arrivalOf m false .sync 0 0 }) ∧
  -- TEST
  (Ready s i .compute [.dg d, .g a] → (∀ m ∈ s.members i, m.status.toNat / 2 ^ 26 % 4 = 0) → b.arr < 2 ^ 12 → b.expa < 2 ^ 12 →
    ∃ t, exec (.nbarTest d a nb) s = .next t ∧
      Acts s t i false (fun m =>
        let sel := ux ((s.readFields m [.dg d, .g a]).x 1) % 4
        toSlot d (wrapTo 32 (if sel = 0 then (if b.phase then 2 ^ 31 else 0) + b.arr * 2 ^ 16 + b.expa
          else if sel = 1 then b.expb else if sel = 2 then b.pend else 0)) m) (fall i))
/-- R42, R45, R178, R226: the traps of an effective address, for every load, store and atomic. -/
def Obligations.Addresses : Prop := ∀ d a kl ks off ord sc,
  (∀ p ∈ loadForms d a kl off, AddressTraps p.1 p.2.toMemForm) ∧
  (∀ p ∈ storeForms d a ks off, AddressTraps p.1 p.2.toMemForm) ∧
  (∀ p ∈ atomForms d a ord sc, AddressTraps p.1 (atomForm p.2 d a)) ∧
  (∀ p ∈ scratchLoads d a kl off, ScratchTraps p.1 p.2.1) ∧
  (∀ p ∈ scratchStores d a ks off, ScratchTraps p.1 p.2.1) ∧
  (∀ p ∈ atomsForms d a ord sc, ScratchTraps p.1 (atomsForm p.2 d a))
/-- R180, R229 to R233: a load of an unchecked page whose bytes the core's L1 holds hands them, by kind, to its
destination. R181, R184, R227: a load of an unchecked page that misses L1 sends one request of each member to its slice,
in membership order, and waits for none. -/
def Obligations.Loads : Prop :=
  (∀ d a k off, ∀ p ∈ loadForms d a k off, p.1.wf = true → ∀ s i c (pa : Thread → Nat) (b : Thread → Bytes),
  let f := p.2
  Ready s i f.stream f.fields → Calm s i c → (∀ m ∈ s.members i, Reaches s i c f.toMemForm m (pa m) false ∧
    (b m).length = f.size ∧ s.l1Read i.core none (pa m) f.size f.tag = some (b m)) →
  ∃ t, exec p.1 s = .next t ∧ Lands s t i fun id m => landing m id f.isW f.d (f.words (b m))) ∧
  (∀ d a k off, ∀ p ∈ loadForms d a k off, p.1.wf = true → ∀ s i c (pa : Thread → Nat),
  let f := p.2
  Ready s i f.stream f.fields → Calm s i c → (∀ m ∈ s.members i, Reaches s i c f.toMemForm m (pa m) false ∧
    s.l1Read i.core none (pa m) f.size f.tag = none) →
  ∃ t, exec p.1 s = .next t ∧ Asks s t i fun j m =>
    request s i j m (pa m) f.op (landsAt m (s.nextId + j) f.isW f.d (slotsFor f.size)))
/-- R181, R202, R230: a store to an unchecked page sets its bytes dirty in the GEN line of its core, the highest lane last; every
other dirty byte, all of memory and all registers stay. -/
def Obligations.Stores : Prop := ∀ d a k off, ∀ p ∈ storeForms d a k off, p.1.wf = true → ∀ s i c (pa : Thread → Nat),
  let f := p.2
  Ready s i f.stream f.fields → Calm s i c → LinesOk s i.core → room s i →
  (∀ m ∈ s.members i, Reaches s i c f.toMemForm m (pa m) false) →
  ∃ t, exec p.1 s = .next t ∧ t.threads = s.threads ∧ t.mem = s.mem ∧ t.rets = s.rets ∧ t.reqs = s.reqs ∧
    Continues s t i false (fall i) ∧
    (∀ pre m post, s.members i = pre ++ m :: post → (∀ q ∈ post, pa q ≠ pa m) → ∀ j < f.size,
      dirtyByte t i.core (pa m + j) (byteOf (f.words (s.readFields m f.fields)) j)) ∧
    ∀ a, (∀ m ∈ s.members i, a < pa m ∨ pa m + f.size ≤ a) → ∀ v, dirtyByte t i.core a v ↔ dirtyByte s i.core a v
/-- R219 to R222: an ordinary store to a CHECKED page that meets no conflicting record writes memory at its execution, the highest
lane last, and every other byte of memory stays; a load of a CHECKED page that its core holds no line of reads memory at its
execution; an access that meets one raises MEMORY_RACE against the first such member and performs nothing. -/
def Obligations.CheckedPages : Prop := ∀ d a kl ks off,
  (∀ p ∈ storeForms d a ks off, p.1.wf = true → ∀ s i c (pa : Thread → Nat),
    let f := p.2
    Ready s i f.stream f.fields → Calm s i c → s.memOk → (∀ m ∈ s.members i, Reaches s i c f.toMemForm m (pa m) true) →
    ((∀ m ∈ s.members i, ¬conflicts s i m (pa m) f.size true) →
      ∃ t, exec p.1 s = .next t ∧ t.threads = s.threads ∧ t.rets = s.rets ∧ t.reqs = s.reqs ∧ Continues s t i false (fall i) ∧
        (∀ pre m post, s.members i = pre ++ m :: post → (∀ q ∈ post, pa q ≠ pa m) → ∀ j < f.size,
          Memory.readByte t.mem (pa m + j) = byteOf (f.words (s.readFields m f.fields)) j) ∧
        ∀ a, (∀ m ∈ s.members i, a < pa m ∨ pa m + f.size ≤ a) → Memory.readByte t.mem a = Memory.readByte s.mem a) ∧
    ∀ m, First s i (fun m => conflicts s i m (pa m) f.size true) m →
      ∃ x : Trap, x.cause = .memoryRace ∧ x.write = true ∧ exec p.1 s = .next (s.takeTrap i m.key.tid x)) ∧
  ∀ p ∈ loadForms d a kl off, p.1.wf = true → ∀ s i c (pa : Thread → Nat),
    let f := p.2
    f.tag = .gen → Ready s i f.stream f.fields → Calm s i c → (∀ m ∈ s.members i, Reaches s i c f.toMemForm m (pa m) true) →
    (room s i → (∀ m ∈ s.members i, noLine s i (pa m)) → (∀ m ∈ s.members i, ¬conflicts s i m (pa m) f.size false) →
      ∃ t, exec p.1 s = .next t ∧ Lands s t i fun id m => landing m id f.isW f.d (f.words (Memory.read s.mem (pa m) f.size))) ∧
    ∀ m, First s i (fun m => conflicts s i m (pa m) f.size false) m →
      ∃ x : Trap, x.cause = .memoryRace ∧ x.write = false ∧ exec p.1 s = .next (s.takeTrap i m.key.tid x)
/-- R184, R207, R227, R234 to R239: an atomic sends one request of each member to its slice, with its operand, its order and the
destination of the old value; registers and memory are as they were until the slice performs it. The members of a BF16X2 that name one word
send one request, with the addend merged in lane order and every member's destination (R237). -/
def Obligations.AtomicRequests : Prop := ∀ d a ord sc, ∀ p ∈ atomForms d a ord sc, p.1.wf = true → ∀ s i c (pa : Thread → Nat),
  let f := atomForm p.2 d a
  let wide : Prop := sc = .die ∨ sc = .device ∨ sc = .pod
  let x := fun m => unitArgs p.2 (s.readFields m f.fields)
  let asks := fun j m y => request s i j m (pa m) (.atom p.2 y (x m).2 (decide (ord = .acq ∨ ord = .acqrel)) (decide ¬wide))
    (if p.2 = .st then .none else landsAt m (s.nextId + j) false d (oldWords p.2 0).length)
  Ready s i f.stream f.fields → Calm s i c → (∀ m ∈ s.members i, Reaches s i c f m (pa m) false) → s.dirtyLines i.core = [] →
  ((p.2 = .bf16x2 → ((s.members i).map pa).Nodup) → ∃ t, exec p.1 s = .next t ∧ Asks s t i fun j m => asks j m (x m).1) ∧
  ∀ m rest, p.2 = .bf16x2 → s.members i = m :: rest → (∀ u ∈ rest, pa u = pa m) →
    ∃ t, exec p.1 s = .next t ∧ t.threads = s.threads ∧ t.mem = s.mem ∧ t.rets = s.rets ∧ Continues s t i false (fall i) ∧
      t.reqs = [{ asks 0 m ((rest.foldl (fun y u => addBf16x2 y (lo32 (x u).1)) (lo32 (x m).1)).zeroExtend 64) with
        merged := rest.map fun u => (u.key, landsAt u s.nextId false d 1) }]
/-- R177, R229 to R233: loads from and stores to a cohort's scratch; the highest lane of a store takes effect last, and
every other byte of scratch stays. R234 to R237: an atomic on scratch changes each member's unit by the table and hands
its old value to the member's destination, for members with units of their own; every other byte of scratch stays. -/
def Obligations.Scratch : Prop :=
  (∀ d a kl ks off,
  (∀ p ∈ scratchLoads d a kl off, p.1.wf = true → ∀ s i c o, InScratch s i p.2.1 c o → (∀ m ∈ s.members i, Sees c m.key.tid .gen) →
    ∃ t, exec p.1 s = .next t ∧ Hands s t i .load id fun k m =>
      landing m k p.2.2.1 d (p.2.2.2 (scratchBytes c (o m) p.2.1.size))) ∧
  ∀ p ∈ scratchStores d a ks off, p.1.wf = true → ∀ s i c o, InScratch s i p.2.1 c o → swf 0 c.scratch = true →
    ∃ t, exec p.1 s = .next t ∧ t.threads = s.threads ∧ t.mem = s.mem ∧ t.rets = s.rets ∧ Continues s t i false (fall i) ∧
      ∃ c', t.cohort? i.run.gk.ck = some c' ∧
        (∀ pre m post, s.members i = pre ++ m :: post → (∀ q ∈ post, o q ≠ o m) → ∀ j < p.2.1.size,
          scratchByte c' (o m + j) = byteOf (p.2.2 (s.readFields m p.2.1.fields)) j) ∧
        ∀ a, (∀ m ∈ s.members i, a < o m ∨ o m + p.2.1.size ≤ a) → scratchByte c' a = scratchByte c a) ∧
  (∀ d a ord sc, ∀ p ∈ atomsForms d a ord sc, p.1.wf = true → ∀ s i c o,
  let f := atomsForm p.2 d a
  InScratch s i f c o → swf 0 c.scratch = true → ((s.members i).map o).Nodup → s.dirtyLines i.core = [] →
  let old := fun m => w64 (leNat (scratchBytes c (o m) f.size))
  let x := fun m => unitArgs p.2 (s.readFields m f.fields)
  ∃ t, exec p.1 s = .next t ∧ (∀ k, t.thread? k = s.thread? k) ∧ t.mem = s.mem ∧ Continues s t i false (fall i) ∧
    (t.rets = if p.2 = .st then s.rets else s.rets ++ (s.members i).mapIdx fun n m =>
      { id := s.nextId + n, kind := .load, dests := landing m (s.nextId + n) false d (oldWords p.2 (old m)) }) ∧
    ∃ c', t.cohort? i.run.gk.ck = some c' ∧
      (∀ m ∈ s.members i, leNat (scratchBytes c' (o m) f.size) = (newUnit p.2 (old m) (x m).1 (x m).2).toNat) ∧
      ∀ a, (∀ m ∈ s.members i, a < o m ∨ o m + f.size ≤ a) → scratchByte c' a = scratchByte c a)
/-- R43, R113 to R117: QSAMP computes its element from the entry of its dimension and hands it to the sequence unit; a dimension
outside the table raises PROTECTION. -/
def Obligations.Sampling : Prop := ∀ d a b : Slot,
  Samples (.qsampF32 d a b) true d a b ∧ Samples (.qsampN32 d a b) false d a b ∧
  ∀ s i c m, let fs := [Fld.dg d, .gs a 2, .g b]
    Ready s i .compute fs → s.context? i.run.gk.ck.ctx = some c → s.reqs = [] → s.members i = [m] →
    c.desc.seqn ≤ ((s.readFields m fs).x 2).toNat →
    let x : Trap := { rank := 4, cause := .protection, info1 := ((s.readFields m fs).x 2).zeroExtend 64 }
    exec (.qsampF32 d a b) s = .next (s.takeTrap i m.key.tid x) ∧ exec (.qsampN32 d a b) s = .next (s.takeTrap i m.key.tid x)
/-- R190 to R193, R242: TEX, TEXW and TEXL hand the values they filter (`Tex.channel`, `Tex.spectral`, `upsample`) to the
texture unit. -/
def Obligations.Textures : Prop := ∀ d a b : Slot,
  Filters (.tex d a) [.dgs d 4, .gs a 4] 2 2 2 false d (fun x l _ =>
    [0, 1, 2, 3].map fun k => if k < x.nch then BitVec.ofNat 32 (x.channel parF32 l k) else 0) ∧
  Filters (.texw d a b) [.dw d, .gs a 4, .w b] 3 4 4 true d (fun x l r =>
    [0, 1, 2, 3].map fun k => upsample ([0, 1, 2].map (x.channel parF32 l)) (sampleOf (r.pk 2) k)) ∧
  Filters (.texl d a) [.dgs d 4, .gs a 4] 5 5 5 false d (fun x l _ =>
    [0, 1, 2, 3].map fun j => BitVec.ofNat 32 (x.channel parBF16 l (2 * j + 1) * 2 ^ 16 + x.channel parBF16 l (2 * j))) ∧
  -- TEXW on a spectral table: the wavelength list is read beside the texels
  ∀ s i c (x : Thread → Tex) (w : Thread → Bytes) (l : Thread → List (Nat × Bytes)), let fs := [Fld.dw d, .gs a 4, .w b]
    Ready s i .compute fs → s.context? i.run.gk.ck.ctx = some c → s.reqs = [] →
    (∀ m ∈ s.members i, let r := s.readFields m fs
      (x m).kind = 3 ∧ s.texDesc i c m (r.x 1) 3 4 = (.ok (x m), s) ∧
      s.threadRead i c m (x m).wlist (4 * (x m).nch) = (.ok (w m), s) ∧
      s.texels i c m (x m) ((x m).taps (texCoords r)) = (.ok (l m), s)) →
    ∃ t, exec (.texw d a b) s = .next t ∧ Hands s t i .texture id fun n m => landing m n true d ([0, 1, 2, 3].map fun k =>
      BitVec.ofNat 32 ((x m).spectral (wlList (w m) (x m).nch) (l m) (sampleOf ((s.readFields m fs).pk 2) k)))
/-- R194 to R196, R244 to R249: BOXT spends budget and hands the test of its node, TRIT its triangle's, XFRM the
transformed ray; an index outside the structure gives the empty result. BOXT without budget raises TRAVERSAL_BUDGET where
ETB is set, else it hands an empty result. -/
def Obligations.RayTests : Prop := ∀ d a b : Slot,
  Tests (.boxt d a b) d a b 8 (fun v n => (v.node + 128 * n, 128)) Bvh.nnodes true (fun p ray => match p with
    | some (v, e) => boxResult v e ray
    | none => [0x1000#32, posInf, posInf, posInf, posInf, 0, 0, 0]) ∧
  Tests (.trit d a b) d a b 4 (fun v n => (v.tri + 48 * n, 48)) Bvh.ntris false (fun p ray => match p with
    | some (_, e) => triTest e ray
    | none => [posInf, 0, 0, 4]) ∧
  Tests (.xfrm d a b) d a b 8 (fun v n => (v.inst + 64 * n, 64)) Bvh.ninst false (fun p ray => match p with
    | some (_, e) => transform e ray
    | none => List.replicate 6 0x7FC00000#32 ++ [ray.getD 6 0, ray.getD 7 0]) ∧
  ∀ s i c m v e, let fs := [Fld.dgs d 8, .gs a 8, .gs b 2]
    Ready s i .compute fs → s.context? i.run.gk.ck.ctx = some c → s.reqs = [] → s.members i = [m] → m.visit = 0 →
    s.dtEntry i c m.key (((s.readFields m fs).p 2).toNat % 2 ^ 16) 6 6 = (.ok e, s) → bvhEntry e = some v →
    (m.status.getLsbD 21 = true →
      exec (.boxt d a b) s = .next (s.takeTrap i m.key.tid { rank := 7, cause := .traversalBudget })) ∧
    (m.status.getLsbD 21 = false → ∃ t, exec (.boxt d a b) s = .next t ∧
      Hands s t i .ray id fun n m => landing m n false d [0x100#32, posInf, posInf, posInf, posInf, 0, 0, 0])
/-- R158 to R164, R170 to R173: MMA hands its fragments and descriptor to the matrix engine and its registers stay; a
group that is not whole raises GROUP_SHAPE and a bad descriptor BLOCK_FORMAT. VXM opens a gather with its row. -/
def Obligations.MatrixRequests : Prop := ∀ d a b : Slot,
  (∀ s i g c, let fs := [Fld.g d, .gs a 32, .gs b 32]
    Ready s i .compute fs → s.group? i.run.gk = some g → s.cohort? i.run.gk.ck = some c → ∀ m, (s.members i).head? = some m →
    let desc := (s.readFields m fs).x 0
    let whole := (s.members i).length = 32 ∧ g.members.length = 32 ∧ ∀ u ∈ s.members i, (s.readFields u fs).x 0 = desc
    let rs := (s.members i).map fun u => s.readFields u fs
    (¬whole → exec (.mma d a b) s = .next (s.takeTrap i m.key.tid
      { rank := 7, cause := .groupShape, info1 := BitVec.ofNat 64 (s.members i).length })) ∧
    (whole → tileDesc desc = none → exec (.mma d a b) s = .next (s.takeTrap i m.key.tid { rank := 7, cause := .blockFormat })) ∧
    ∀ td, whole → tileDesc desc = some td →
      (∀ k < 64, (td.fa.row (fragRow rs 1 k)).isSome = true ∧ (td.fb.row (fragRow rs 2 k)).isSome = true) →
      noCopies s → (∃ x ∈ c.tiles, x.no = td.tile) →
      ∃ t q, exec (.mma d a b) s = .next t ∧ Continues s t i false (fall i) ∧ t.threads = s.threads ∧ t.mem = s.mem ∧
        (t.core i.core).eng.queue = (s.core i.core).eng.queue ++ [q] ∧ q.gk = i.run.gk ∧ q.tile = td.tile ∧ q.desc = desc ∧
        q.issue = s.clock ∧ q.slot = i.slot ∧ q.seq = g.mmaSeq + 1 ∧ q.vxm = false ∧
        (∀ k < 64, q.a.getD k [] = fragRow rs 1 k ∧ q.b.getD k [] = fragRow rs 2 k) ∧
        ∃ g', t.group? i.run.gk = some g' ∧ g'.mmaSeq = g.mmaSeq + 1) ∧
  ∀ s i c m, let fs := [Fld.dgs d 8, .gs a 8, .g b]
    Ready s i .compute fs → s.cohort? i.run.gk.ck = some c → s.members i = [m] → Sees c m.key.tid .acc →
    let desc := (s.readFields m fs).x 2
    (s.core i.core).eng.gathers = [] →
    vxmTrap c.scratchSize desc (wordsOf (scratchBytes c (64 * (desc.toNat % 2 ^ 14)) ((weightSize desc).getD 0))) = none →
    ∃ t q, exec (.vxm d a b) s = .next t ∧ Continues s t i false (fall i) ∧ t.threads = s.threads ∧ t.mem = s.mem ∧
      (t.core i.core).eng.gathers = [q] ∧ q.ck = c.key ∧ q.desc = desc ∧ q.opened = s.clock ∧
      q.weights = wordsOf (scratchBytes c (64 * (desc.toNat % 2 ^ 14)) ((weightSize desc).getD 0)) ∧
      q.rows = [{ key := m.key, x := (s.readFields m fs).l 1,
                  dst := (List.range 8).map fun k => if d = 0 ∧ k = 0 then none else some (m.wb + (d.toNat + k)) }]
/-- R203, R204, R214, R215: what one path writes to a cohort's scratch or tiles, a read of a thread on another path sees for certain only
after a FENCE.X of the thread that names both. A scratch load or ACCRD gives words that the thread may read; an element that a copy writes to
scratch leaves what was there before as what a GEN read may give; and a FENCE.X lets the reads of its members on each path that it names see
what the other paths that it names wrote before. -/
def Obligations.CrossPath : Prop :=
  (∀ d a kl off, ∀ p ∈ scratchLoads d a kl off, p.1.wf = true → ∀ s i c o, InScratch s i p.2.1 c o →
    ∃ t, ∃ v : Thread → Nat → W32, exec p.1 s = .next t ∧ Continues s t i false (fall i) ∧ t.mem = s.mem ∧
      (t.rets = s.rets ++ (s.members i).mapIdx fun n m =>
        { id := s.nextId + n, kind := .load, dests := landing m (s.nextId + n) p.2.2.1 d
            (p.2.2.2 ((List.range p.2.1.size).map fun j => byteOf [v m ((o m + j) / 4)] ((o m + j) % 4))) }) ∧
      ∀ m ∈ s.members i, ∀ w, MayRead c m.key.tid .gen (.scratch w) (v m w)) ∧
  (∀ (d a : Slot) (t : BitVec 4) col (imm : BitVec 6) s i g c, let fs := [Fld.dgs d 2, .g a, .g (a + 1)]
    let n := fun m => tileNamed ((s.readFields m fs).x 1) t.toNat
    let at' := fun m j => place col ((s.readFields m fs).x 2) imm (laneIn g m).toNat j
    Ready s i .compute fs → Tiles s i g c n → ∃ u, ∃ v : Thread → Nat → W32, exec (.accrd d a t col imm) s = .next u ∧ Continues s u i false (fall i) ∧
      u.mem = s.mem ∧ (∀ m ∈ s.members i, u.thread? m.key = some (toPair d (v m 1 ++ v m 0) m)) ∧
      ∀ m ∈ s.members i, ∀ j < 2, MayRead c m.key.tid .acc (.tile (n m) (64 * (at' m j).1 + (at' m j).2)) (v m j)) ∧
  (∀ s e q c tm h, Performs s e q c tm → s.op = .src (.engine e) → q.status = .active → tm.op = 0 → q.idx < tm.box.foldl (· * ·) 1 →
    s.cohort? q.ck = some h → (q.line.getD 4 0).toNat % 16 = 5 → (q.line.getD 4 0).getLsbD 5 = false → h.older = [] →
    let x := tm.elem (lineOrg q.line) q.idx 0
    let src : Int := leAt q.line 8 8 + x.src * tm.esz
    let dst : Int := leAt q.line 16 8 + x.dst * tm.esz
    x.valid = true → x.write = true → 0 ≤ src → src + tm.esz ≤ h.scratchSize → 0 ≤ dst → dst + tm.esz ≤ h.scratchSize →
    ∃ t h', exec .l2Request s = .next t ∧ t.cohort? q.ck = some h' ∧
      h'.older = [{ path := .copy, scratch := h.scratch, tiles := h.tiles, seen := [], read := [] }]) ∧
  ∀ sc (paths : BitVec 5) s i c, Ready s i .both [] → s.reqs = [] → s.pins = [] → LinesOk s i.core → s.cohort? i.run.gk.ck = some c →
    ∃ t c', exec (.fenceX sc paths) s = .next t ∧ t.cohort? i.run.gk.ck = some c' ∧ c'.scratch = c.scratch ∧ c'.tiles = c.tiles ∧
      c'.older.map (fun o => (o.path, o.scratch, o.tiles)) = c.older.map (fun o => (o.path, o.scratch, o.tiles)) ∧
      ∀ m ∈ s.members i, ∀ p ∈ pathsOf paths, ∀ o ∈ c'.older, o.path ∈ pathsOf paths → o.path = p ∨ (m.key.tid, p) ∈ o.seen
/-- R166 to R169: ACCRD, ACCWR, ACCZ and ACCWAIT on bound tiles that nothing owns; ACCWAIT blocks while an MMA owns a tile. -/
def Obligations.Accumulators : Prop := ∀ s i g c,
  (∀ (d a : Slot) (t : BitVec 4) col (imm : BitVec 6), let fs := [Fld.dgs d 2, .g a, .g (a + 1)]
    let n := fun m => tileNamed ((s.readFields m fs).x 1) t.toNat
    let at' := fun m j => place col ((s.readFields m fs).x 2) imm (laneIn g m).toNat j
    Ready s i .compute fs → Tiles s i g c n → (∀ m ∈ s.members i, Sees c m.key.tid .acc) → ∃ u, exec (.accrd d a t col imm) s = .next u ∧
      Acts s u i false (fun m => toPair d (element? c (n m) (at' m 1).1 (at' m 1).2 ++ element? c (n m) (at' m 0).1 (at' m 0).2) m)
        (fall i)) ∧
  (∀ (d a : Slot) (t : BitVec 4) col (imm : BitVec 6), let fs := [Fld.gs d 2, .g a, .g (a + 1)]
    let n := fun m => tileNamed ((s.readFields m fs).x 1) t.toNat
    let at' := fun m j => place col ((s.readFields m fs).x 2) imm (laneIn g m).toNat j
    Ready s i .compute fs → Tiles s i g c n → ∃ u, exec (.accwr d a t col imm) s = .next u ∧ Continues s u i false (fall i) ∧
      u.threads = s.threads ∧ u.mem = s.mem ∧ ∃ c', u.cohort? i.run.gk.ck = some c' ∧
        (∀ m ∈ s.members i, ∀ j < 2, element? c' (n m) (at' m j).1 (at' m j).2 = ((s.readFields m fs).l 0).getD j 0) ∧
        ∀ k row col', row < 64 → col' < 64 → (∀ m ∈ s.members i, ∀ j < 2, n m ≠ k ∨ at' m j ≠ (row, col')) →
          element? c' k row col' = element? c k row col') ∧
  (∀ (a : Slot) (t : BitVec 9), Ready s i .compute [.g a] →
    let n := fun m => tileNamed ((s.readFields m [.g a]).x 0) t.toNat
    (Tiles s i g c n → ∃ u, exec (.accz a t) s = .next u ∧ Continues s u i false (fall i) ∧ u.threads = s.threads ∧
      u.mem = s.mem ∧ ∃ c', u.cohort? i.run.gk.ck = some c' ∧
        ∀ k row col, element? c' k row col = if ∃ m ∈ s.members i, n m = k then 0 else element? c k row col) ∧
    (idleEngine s i.core → ∃ u, exec (.accwait a t) s = .next u ∧ Continues s u i false (fall i) ∧ u.threads = s.threads ∧
      u.mem = s.mem) ∧
    ((∃ q ∈ (s.core i.core).eng.queue, q.vxm = false ∧ q.gk.ck = i.run.gk.ck ∧ ∃ m ∈ s.members i, q.tile = n m) →
      (s.group? i.run.gk).isSome = true →
      ∃ u ts, exec (.accwait a t) s = .next u ∧ BlockedAs u i (.accwait ts) ∧ u.threads = s.threads ∧ u.mem = s.mem))
/-- R264 to R266, R268, R305 to R310, R325, R380: CPYREQ and CPYREQW hand a request line to the engine of the aperture they address, in
a DET launch when their core's turn has come there; TLW copies a line into the descriptor table with the context's identifier, and every other byte of memory stays. -/
def Obligations.RequestsAndTable : Prop := ∀ s i m c h, Alone s i m c h →
  (∀ (d a : Slot) (off : BitVec 8), ∀ p ∈ [(Instr.cpyreq d a off, [Fld.gs d 16, .gs a 2], fun (r : Reads) => r.l 0),
      (.cpyreqw d a off, [.w d 4, .gs a 2], fun r => (r.pks 0).flatMap fun v => [0, 1, 2, 3].map (sampleOf v))],
    ∀ e : Nat, e < 32 → Ready s i .both p.2.1 →
    let r := s.readFields m p.2.1
    let line := (List.range 64).map (byteOf (p.2.2 r))
    let va : W64 := wrapTo 64 (ux (r.p 1) + offsetBy off 64)
    let k := 32 * c.id + e
    inRange va → va.toNat = c.desc.apbase.toNat + 4096 * e →
    (line.getD 4 0).getLsbD 6 = false → ((s.engine k).queue.filter fun q => q.ck.ctx == c.id && q.open).length < 64 →
    c.id = i.run.gk.ck.ctx →
    (∀ l, s.launch? i.run.gk.ck.ctx i.run.gk.ck.launch = some l → l.hdr.det = true → l.due (.engine e) = h.vcore) →
    ∃ t q, exec p.1 s = .next t ∧ t.thread? m.key = some m ∧ t.mem = s.mem ∧ Continues s t i false (fall i) ∧
      (t.engine k).queue = (s.engine k).queue ++ [q] ∧ (∀ j, j ≠ k → t.engine j = s.engine j) ∧ q.ck = i.run.gk.ck ∧
      q.tid = m.key.tid ∧ q.gid = m.gid ∧ q.line = line ∧ q.status = .queued ∧ q.phase = (s.chkOf m).phase ∧
      q.seq = aget 0 (s.engine k).nextSeq c.id + 1) ∧
  ∀ (a b : Slot) pte size pte2 size2, let fs := [Fld.gs a 2, .g b]
    (Instr.tlw a b).wf = true → Ready s i .compute fs → supervisor m → s.poison = [] → s.memOk → c.dbg.dbgctl.getLsbD 31 = false →
    let r := s.readFields m fs
    let n : Nat := (r.x 1).toNat % 2 ^ 16
    let va := r.p 0
    let ea : W64 := wrapTo 64 (ux c.desc.dtbase + 64 * n)
    let src := pteAddr pte + va.toNat % size
    let dst := pteAddr pte2 + ea.toNat % size2
    inRange va → va.toNat % 64 = 0 → ¬aperture c va → n < c.desc.dtcount → inRange ea → ea.toNat % 64 = 0 → Mapped s c i va pte size → Mapped s c i ea pte2 size2 →
    permTrap va .load m.who pte = none → permTrap ea .store m.who pte2 = none → pte.getLsbD 58 = false → noLine s i src →
    ∃ t, exec (.tlw a b) s = .next t ∧ (∀ k, t.thread? k = s.thread? k) ∧ Continues s t i false (fall i) ∧
      (∀ k < 64, Memory.readByte t.mem (dst + k) =
        if k = 2 then BitVec.ofNat 8 c.id else if k = 3 then BitVec.ofNat 8 (c.id / 2 ^ 8) else Memory.readByte s.mem (src + k)) ∧
      ∀ x, x < dst ∨ dst + 64 ≤ x → Memory.readByte t.mem x = Memory.readByte s.mem x
/-- R288 to R293, R319 to R321: EMIT leaves a record in the lowest free place of the store and a count, CAPK, CAPD and CAPX move the capabilities of the cohort and form
the batch of the changes; a location that does not exist, a time that does not fit and a record that no capability covers raise
TIME_ORDER. -/
def Obligations.Records : Prop := ∀ s i m c h, Alone s i m c h → c.id = i.run.gk.ck.ctx → h.key = i.run.gk.ck →
  let l := s.launch? i.run.gk.ck.ctx i.run.gk.ck.launch
  (∀ d a b : Slot, let fs := [Fld.g d, .gs a 16, .gs b 2]
    Ready s i .compute fs →
    let loc := ((s.readFields m fs).x 0).toNat
    let u := (s.readFields m fs).p 2
    (keyOk c loc u → c.covered l h.caps loc u = true → s.keyRoom c [change loc u 1] = true → c.records.length < c.desc.rscount →
      let slot := (c.freeSlots 1).headD 0
      let va : W64 := wrapTo 64 (ux c.desc.rsbase + 128 * slot)
      ∃ t, exec (.emit d a b) s = .next t ∧ FormsBatch s t i m c h [change loc u 1] [] ∧
        (∃ c', t.context? i.run.gk.ck.ctx = some c' ∧ c'.nextRecord = c.nextRecord + 1 ∧ ∃ q, c'.records = c.records ++ [q] ∧
          q.id = c.nextRecord ∧ q.slot = slot ∧ q.loc = loc ∧ q.time = u ∧
          q.payload = (List.range 64).map (byteOf ((s.readFields m fs).l 1)) ∧ q.counted = true ∧ q.delivered = false) ∧
        ∀ pte size, s.walk c deviceSrc va.toNat = .leaf pte size →
          (∀ e ∈ s.tlbHits c.id deviceSrc 0 va.toNat, e.pte = pte ∧ e.size = size) →
          let pa := pteAddr pte + va.toNat % size
          ∀ x, x < pa ∨ pa + 128 ≤ x → Memory.readByte t.mem x = Memory.readByte s.mem x) ∧
    (¬loc < c.graph.depths.length → TimeOrder (.emit d a b) s i m 9 loc u) ∧
    (loc < c.graph.depths.length → ¬keyOk c loc u → TimeOrder (.emit d a b) s i m 4 loc u) ∧
    (keyOk c loc u → c.covered l h.caps loc u = false → TimeOrder (.emit d a b) s i m 1 loc u)) ∧
  ∀ a b : Slot,
    (Ready s i .compute [.g a, .gs b 2] →
      let loc := ((s.readFields m [.g a, .gs b 2]).x 0).toNat
      let u := (s.readFields m [.g a, .gs b 2]).p 1
      (keyOk c loc u → c.covered l h.caps loc u = true → capsFit (c.recvsOf h.key) (capAdd h.caps loc u 1) = true →
        s.keyRoom c [change loc u 1] = true →
        ∃ t, exec (.capk a b) s = .next t ∧ FormsBatch s t i m c h [change loc u 1] [] ∧ t.mem = s.mem ∧ ∃ h', t.cohort? h.key = some h' ∧
          ∀ k v, capCount h'.caps k v = capCount h.caps k v + if k = loc ∧ v = u then 1 else 0) ∧
      (keyOk c loc u → capCount h.caps loc u ≠ 0 →
        ∃ t, exec (.capx a b) s = .next t ∧ FormsBatch s t i m c h [] [change loc u (-1)] ∧ t.mem = s.mem ∧ ∃ h', t.cohort? h.key = some h' ∧
          ∀ k v, capCount h'.caps k v = capCount h.caps k v - if k = loc ∧ v = u then 1 else 0) ∧
      (keyOk c loc u → (∀ x ∈ h.caps, ¬(x.loc = loc ∧ x.time = u)) → TimeOrder (.capx a b) s i m 3 loc u)) ∧
    (Ready s i .compute [.g a, .gs b 2, .gs (b + 2) 2] →
      let r := s.readFields m [.g a, .gs b 2, .gs (b + 2) 2]
      let loc := (r.x 0).toNat
      keyOk c loc (r.p 1) → keyOk c loc (r.p 2) → capCount h.caps loc (r.p 1) ≠ 0 → notAfter (r.p 1) (r.p 2) →
      capsFit (c.recvsOf h.key) (capAdd (capTake h.caps loc (r.p 1)) loc (r.p 2) 1) = true →
      s.keyRoom c [change loc (r.p 2) 1, change loc (r.p 1) (-1)] = true →
      ∃ t, exec (.capd a b) s = .next t ∧ FormsBatch s t i m c h [change loc (r.p 2) 1] [change loc (r.p 1) (-1)] ∧
        t.mem = s.mem ∧ ∃ h', t.cohort? h.key = some h' ∧ ∀ k v, capCount h'.caps k v =
          capCount h.caps k v - (if k = loc ∧ v = r.p 1 then 1 else 0) + if k = loc ∧ v = r.p 2 then 1 else 0)
/-- R210, R218, R320, R322: FWAIT goes on once its time has passed, with a phase of its own and no clean GEN line left, and blocks
before; FTEST says whether it has; RECV takes the first delivered record that matches, and blocks where there is none. -/
def Obligations.FrontierWaits : Prop := ∀ s i c h, s.context? i.run.gk.ck.ctx = some c → s.cohort? i.run.gk.ck = some h →
  let f := fun loc => (c.node (c.runsOn h.vcore)).f.getD loc []
  (∀ a b : Slot, let fs := [Fld.g a, .gs b 2]
    let loc := fun m => ((s.readFields m fs).x 0).toNat
    let u := fun m => (s.readFields m fs).p 1
    Ready s i .compute fs → i.run.addr = false → i.run.members.Nodup → (∀ m ∈ s.members i, keyOk c (loc m) (u m)) →
    ((∀ m ∈ s.members i, hasPassed (f (loc m)) (u m)) → ∃ t, exec (.fwait a b) s = .next t ∧ t.mem = s.mem ∧
      Continues s t i false (fall i) ∧ (∀ m ∈ s.members i, t.thread? m.key = some (inPhase (.fw (loc m) (u m)) m)) ∧
      ∀ x ∈ (t.core i.core).l1, x.tag = .ro ∨ x.isDirty = true) ∧
    ((∃ m ∈ s.members i, ¬hasPassed (f (loc m)) (u m)) → (s.group? i.run.gk).isSome = true → ∃ t, exec (.fwait a b) s = .next t ∧ t.mem = s.mem ∧
      t.threads = s.threads ∧ BlockedAs t i (.fwait ((s.members i).map fun m => (m.key.tid, loc m, u m))))) ∧
  (∀ d a b : Slot, let fs := [Fld.dg d, .g a, .gs b 2]
    let loc := fun m => ((s.readFields m fs).x 1).toNat
    let u := fun m => (s.readFields m fs).p 2
    Ready s i .compute fs → (∀ m ∈ s.members i, keyOk c (loc m) (u m) ∧ m.status.toNat / 2 ^ 26 % 4 = 0) →
    ∃ t, exec (.ftest d a b) s = .next t ∧ Acts s t i false (fun m => toSlot d (bit (hasPassed (f (loc m)) (u m))) m) (fall i)) ∧
  ∀ m (d b : Slot) l, let fs := [Fld.dgs d 16, .dgs b 2]
    Alone s i m c h → c.id = i.run.gk.ck.ctx → (∃ v, h.st = .resident v) → Ready s i .compute fs → c.recvs = [] →
    s.launch? i.run.gk.ck.ctx i.run.gk.ck.launch = some l →
    (l.binding = .none → TimeOrder (.recv d b) s i m 8 0 0) ∧
    ∀ loc (u : Option W64), (l.binding = .host ∧ loc = c.desc.hostch ∧ u = none ∨ ∃ v, l.binding = .fixed loc v ∧ u = some v) →
      capsFit [{ key := m.key, loc := loc, t := u, d := d, b := b }] h.caps = true →
      let takes := fun (q : Record) => q.delivered = true ∧ q.loc = loc ∧ ∀ v, u = some v → q.time = v
      (∀ pre q post, c.records = pre ++ q :: post → takes q → (∀ x ∈ pre, ¬takes x) → (∀ x ∈ pre ++ post, x.id ≠ q.id) →
        q.payload.length = 64 →
        ∃ t, exec (.recv d b) s = .next t ∧ t.mem = s.mem ∧ Continues s t i false (fall i) ∧
          t.thread? m.key = some { toPair b q.time (toSlots d ((List.range 16).map fun k =>
            wrapTo 32 (leNat ((q.payload.drop (4 * k)).take 4))) m) with time := q.time } ∧
          (∃ c', t.context? i.run.gk.ck.ctx = some c' ∧ c'.records = pre ++ post ∧ c'.recvs = []) ∧
          ∃ h', t.cohort? i.run.gk.ck = some h' ∧ ∀ k v, capCount h'.caps k v =
            capCount h.caps k v + if q.counted = true ∧ k = q.loc ∧ v = q.time then 1 else 0) ∧
      ((∀ x ∈ c.records, ¬takes x) → (s.group? i.run.gk).isSome = true → ∃ t, exec (.recv d b) s = .next t ∧ t.mem = s.mem ∧ t.threads = s.threads ∧
        BlockedAs t i (.recv d b [m.key.tid]) ∧ ∃ c', t.context? i.run.gk.ck.ctx = some c' ∧
          c'.recvs = [{ key := m.key, loc := loc, t := u, d := d, b := b }])
/-- R122, R124, R300, R323, R324: LAUNCH creates the launch of the header it names, with the next identifier of its context; TRIG
arms the lowest free counter. Neither writes a register; where the header names a location, the launch or the counter holds a
capability there, which one of the cohort covers, and the core forms the batch of that count. -/
def Obligations.Launches : Prop := ∀ s i m c h, Alone s i m c h → c.id = i.run.gk.ck.ctx → ∀ (a : Slot) b hdr,
  parseHeader b.1 b.2 = some hdr → (hdr.supl = true → supervisor m) →
  let depth := fun k => c.graph.depths.getD k 0
  let holds := fun v => hdr.donech < c.graph.depths.length ∧ s.keyRoom c [change hdr.donech v 1] = true ∧
    c.covered (s.launch? i.run.gk.ck.ctx i.run.gk.ck.launch) h.caps hdr.donech v = true
  let formed := fun v (c' : Context) => c'.batches = c.batches ++ if hdr.donech = 0xFFFF then [] else
    [batchOf c h [change hdr.donech v 1] []]
  (Ready s i .compute [.gs a 2] → timeOk hdr.tdepth hdr.intime = true →
    (hdr.donech ≠ 0xFFFF → holds hdr.intime ∧ hdr.tdepth = depth hdr.donech) →
    s.fetchHeader i c m ((s.readFields m [.gs a 2]).p 0) = (.ok b, s) →
    ∃ t q, exec (.launch a) s = .next t ∧ t.launches = s.launches ++ [q] ∧ q.ctx = c.id ∧ q.id = c.nextLaunch ∧ q.hdr = hdr ∧
      q.sup = hdr.supl ∧ q.nextCoh = 0 ∧ q.remaining = hdr.gx * hdr.gy * hdr.gz ∧ t.thread? m.key = some m ∧ t.mem = s.mem ∧
      Continues s t i false (fall i) ∧ ∃ c', t.context? i.run.gk.ck.ctx = some c' ∧ formed hdr.intime c' ∧
        c'.nextLaunch = if c.nextLaunch + 1 = 2 ^ 32 then 1 else c.nextLaunch + 1) ∧
  ∀ k n, Ready s i .compute [.gs a 8] → armBlock ((s.readFields m [.gs a 8]).l 0) = some k → keyOk c k.loc k.time →
    (hdr.donech ≠ 0xFFFF → holds k.time ∧ depth hdr.donech = depth k.loc) →
    s.fetchHeader i c m k.hdr = (.ok b, s) → n < 1024 → (∀ x ∈ c.counters, x.idx ≠ n) →
    (∀ j < n, ∃ x ∈ c.counters, x.idx = j) →
    ∃ t q, exec (.trig a) s = .next t ∧ t.thread? m.key = some m ∧ t.mem = s.mem ∧ Continues s t i false (fall i) ∧
      (∃ c', t.context? i.run.gk.ck.ctx = some c' ∧ c'.counters = c.counters ++ [q] ∧ formed k.time c') ∧ q.idx = n ∧
      q.loc = k.loc ∧ q.ctime = k.time ∧ q.ccount = k.count ∧ q.cnt = k.cnt ∧ q.frn = k.frn ∧ q.hdr = hdr ∧ q.die = c.runsOn h.vcore

/-- R101, R112, R188, R227: the event in which a result lands writes each register it names, fills the queue entry
reserved for it, and takes the result from those under way; nothing else changes. -/
def Obligations.ResultsLand : Prop := ∀ p ∈ landings, ∀ s id r, s.op = .nat id →
  s.rets.find? (fun r => r.id == id && decide (r.kind = p.2)) = some r →
  ∃ t, exec p.1 s = .next t ∧ t = { s with threads := t.threads, cohorts := t.cohorts, rets := t.rets } ∧
    t.rets = s.rets.filter (fun q => q.id != id) ∧ (∀ k, t.thread? k = (s.thread? k).map (landedOn r.dests)) ∧
    ((∀ d ∈ r.dests, ∀ ck tid q n v, d ≠ .q ck tid q n v) → t.cohorts = s.cohorts) ∧
    ∀ ck tid q n v c y, r.dests = [.q ck tid q n v] → s.cohort? ck = some c → c.queues.find? (fun y => y.tid == tid) = some y →
      ∃ c' y', t.cohort? ck = some c' ∧ c'.queues.find? (fun y => y.tid == tid) = some y' ∧
        y'.q = y.q.set q ((y.q.getD q []).map fun e => if e = .reserved n then .full v else e)
/-- R127, R128: which pending threads form, and GROUP_FORMATION of one group of up to 32 of them: its %gid follows its
lowest %tid, its members stand after their JOINs, and they are pending no more. R131 to R133, R138, R140, R142, R350,
R357, R365, R411: a free slot begins the run of the entry that its order picks, a ready one of a group bound to it whose
cohort may begin runs, and the entry leaves its frontier; a slot that is busy, delayed or throttled picks none. In
deterministic mode a group offers the head of its ready entries. -/
def Obligations.GroupsIssue : Prop :=
  ((∀ clock det ts, formNow clock det true ts = ts) ∧ (∀ clock ts, formNow clock true false ts = []) ∧
  (∀ clock ts, (∃ m ∈ ts, ∃ j, m.join = some j ∧ j.since + 512 ≤ clock) → formNow clock false false ts = ts) ∧
  (∀ clock ts, (∀ m ∈ ts, ∃ j, m.join = some j ∧ clock < j.since + 512) →
    (formNow clock false false ts).length = ts.length / 32 * 32 ∧ (formNow clock false false ts).Subset ts) ∧
  ∀ s ck role ts, s.op = .nat3 ck.ctx ck.launch ck.coh → s.cohortRuns ck = true → s.formable ck = [(role, ts)] →
    ts.length ≤ 32 → (∀ m ∈ ts, s.thread? m.key = some m ∧ m.key.ck = ck ∧ m.key.addr = false) →
    (ts.map fun m => m.key.tid).Nodup → ∀ low ∈ ts, (∀ m ∈ ts, low.key.tid ≤ m.key.tid) →
    let gk : GrpKey := { ck := ck, gid := 2048 + low.key.tid }
    s.group? gk = none → ∃ t g, exec .groupFormation s = .next t ∧ t.group? gk = some g ∧ g.role = role ∧ g.score = 0 ∧
      (∀ u, u ∈ g.members ↔ ∃ m ∈ ts, m.key.tid = u) ∧ g.members.Pairwise (· < ·) ∧
      (∀ m ∈ ts, t.thread? m.key = some { m with gid := gk.gid, join := none } ∧
        ∀ j, m.join = some j → ∃ en ∈ g.frontier, en.pc = nextPc j.pc ∧ m.key.tid ∈ en.members ∧ en.wait = none) ∧
      (∀ k, (∀ m ∈ ts, m.key ≠ k) → t.thread? k = s.thread? k) ∧ (∀ k, k ≠ gk → t.group? k = s.group? k) ∧
      t = { s with threads := t.threads, groups := t.groups }) ∧
  (∀ s core slot,
  (∀ b en, s.arbitrate core slot = some (b, en) →
    freeSlot s core slot ∨ (s.core core).slots.length ≤ slot) ∧
  (∀ b en, s.arbitrate core slot = some (b, en) → b ∈ s.boundTo core slot ∧ s.mayBegin b.g.key.ck = true ∧
    en ∈ b.g.frontier ∧ en.addr = b.addr ∧ en.wait = none ∧ s.mgmt.thr = false ∧ ((s.core core).slot slot).idleUntil ≤ s.clock) ∧
  (s.op = .nat2 core slot →
    (s.arbitrate core slot = none → exec .slotArbitration s = .next s) ∧
    ∀ b en c, s.arbitrate core slot = some (b, en) → freeSlot s core slot → s.context? b.g.key.ck.ctx = some c →
      c.dbg.dbgctl.getLsbD 31 = false → c.dbg.cxctl.getLsbD 31 = false →
      ∃ t, exec .slotArbitration s = .next t ∧ ((t.core core).slot slot).run = some (newRun b.g.key en) ∧
        (∀ g, s.group? b.g.key = some g → t.group? b.g.key = some { g with frontier := g.frontier.erase en, since := s.clock }) ∧
        (∀ gk, gk ≠ b.g.key → t.group? gk = s.group? gk) ∧ t = { s with groups := t.groups, cores := t.cores }) ∧
  (∀ b, s.boundTo core slot = [b] → b.det = true → s.mayBegin b.g.key.ck = true → s.mgmt.thr = false → freeSlot s core slot →
    ((s.core core).slot slot).idleUntil ≤ s.clock →
    s.arbitrate core slot = ((b.g.frontier.filter fun en => en.addr == b.addr && en.wait.isNone).head?).map fun en => (b, en)) ∧
  -- SCORE_DECAY: the scores of the groups on a core, at the next multiple of 1,024 clocks
  (s.op = .nat core → ∃ t, exec .scoreDecay s = .next t ∧ t = { s with groups := t.groups } ∧ ∀ gk g, s.group? gk = some g →
    s.clock / 1024 = g.decayed + 1 → (∃ c ∈ s.cohortsOn core, c.key = gk.ck) → g ∈ s.groups →
    let dsh := ((s.core core).isctl.toNat / 2 ^ 28) % 8
    ∃ g', t.group? gk = some g' ∧ g'.score = if dsh = 0 then g.score else g.score - max (g.score / 2 ^ dsh) (min g.score 1)) ∧
  -- QUEUE_DEADLOCK: a pair whose streams have both waited 65,536 clocks on its queues
  ∀ r tid q r', s.op = .nat2 core slot → ((s.core core).slot slot).run = some r → r.addr = false → r.waits = [(tid, q)] →
    (∃ c, r.stalledSince = some c ∧ c + 65536 ≤ s.clock) →
    (∃ y ∈ (s.core core).slots, y.run = some r') → r'.addr = true → r'.gk = r.gk → (∃ q', (tid, q') ∈ r'.waits) →
    (∃ c, r'.stalledSince = some c ∧ c + 65536 ≤ s.clock) →
    (∀ l ∈ s.pairQueues { ck := r.gk.ck, tid := tid, addr := false }, ∀ e ∈ l, ∃ v, e = .full v) →
    exec .queueDeadlock s = .next (s.takeTrap { core := core, slot := slot, run := r } tid
      { rank := 7, cause := .queueDeadlock, info1 := BitVec.ofNat 64 q }))
/-- R144, R163 to R168, R173, R174: the events of a matrix engine. It starts the request of the highest class, the
earliest of them, that no earlier one of its tile holds back, among those issued before this clock; a higher class suspends an MMA where a K group ends; a
completed MMA has applied its K groups and owns its tile no more; a gather closes at 64 clocks or 64 rows, and its rows
are written when it completes. -/
def Obligations.MatrixEvents : Prop := ∀ s core, let e := (s.core core).eng
  (∀ q, e.pick s.clock = some q → q ∈ e.queue ∧ q.issue < s.clock ∧ e.canStart q = true ∧
    ∀ p ∈ e.queue, p.issue < s.clock → e.canStart p = true → p.cls ≤ q.cls ∧ (p.cls = q.cls → p.before q = false)) ∧
  (s.op = .nat core →
    (∀ q, e.running = none → e.pick s.clock = some q → ∃ t, exec .mmaStart s = .next t ∧
      (t.core core).eng.running = some (q, s.clock) ∧ (t.core core).eng.queue = e.queue.filter (fun p => p.id != q.id) ∧
      t = { s with cores := t.cores }) ∧
    (∀ q start, e.running = some (q, start) → q.vxm = false → q.occupied + (s.clock - start) < q.clocks → start < s.clock →
      let at' := q.occupied + (s.clock - start)
      q.endedBy (at' - 1) < q.endedBy at' → (∃ p ∈ e.queue, q.cls < p.cls ∧ p.issue < s.clock ∧ e.canStart p = true) →
      ∃ t, exec .mmaSuspend s = .next t ∧ (t.core core).eng.running = none ∧
        (t.core core).eng.queue = { q with groupsDone := q.endedBy at', occupied := at' } :: e.queue ∧
        Accumulates s t q (q.endedBy at') ∧ t = { s with cores := t.cores, cohorts := t.cohorts, free := t.free }) ∧
    (∀ q start, e.running = some (q, start) → q.vxm = false → start + (q.clocks - q.occupied) ≤ s.clock →
      ∃ t, exec .mmaComplete s = .next t ∧ (t.core core).eng = { e with running := none } ∧ Accumulates s t q q.groups ∧
        t.threads = s.threads ∧ t.mem = s.mem) ∧
    ∀ q start g, e.running = some (q, start) → q.vxm = true → start + 8 ≤ s.clock → e.closed.find? (fun g => g.id == q.id) = some g →
      ∃ t, exec .vxmComplete s = .next t ∧ (∀ k, t.thread? k = (s.thread? k).map (rowsOn g)) ∧
        (t.core core).eng = { e with running := none, closed := e.closed.filter fun x => x.id != q.id } ∧
        t = { s with threads := t.threads, cores := t.cores }) ∧
  ∀ id g, s.op = .nat2 core id → e.gathers.find? (fun g => g.id == id) = some g →
    (g.opened + 64 ≤ s.clock ∨ 64 ≤ g.rows.length) → ∃ t q, exec .gatherClose s = .next t ∧
      (t.core core).eng = { e with queue := e.queue ++ [q], gathers := e.gathers.filter fun x => x.id != g.id,
                                   closed := e.closed ++ [g] } ∧
      q.id = g.id ∧ q.vxm = true ∧ q.cls = g.cls ∧ q.issue = g.opened ∧ t = { s with cores := t.cores }
/-- R180, R181, R184, R227, R235: a slice performs a core's waiting request: a load miss is filled from memory, an atomic
replaces its unit and returns the old one, after the core's dirty bytes of the line, whose copy leaves the cache; an acquire
at a wide scope leaves no clean GEN line, and a narrow scope pins the line. R197 to R200, R217, R335, R343, R385: a walker
caches the leaf of the table for every core that waits for it, and a walk that finds none is over; a refused request is
sent again after 64 clocks, refused once more while the line is pinned, and at the 2^20th refusal its thread traps with
NARROW_SCOPE_STALL, with WRITE set for a store or an atomic; a request of an instruction without an answer in RTO ends as
the read of a poisoned sector. -/
def Obligations.SlicesServe : Prop :=
  (∀ s core q m, s.op = .src (.core core) → Waits s core q → s.memOk → q.key = m.key →
  s.refused (.core core) (q.pa / 64) = false → s.detLaunch q.key.ck = none →
  (∀ k isW d, (isW = true → k = .n128) → q.dest = landsAt m q.id isW d (slotsFor (ldBytes k)) →
    q.pa % 64 + ldBytes k ≤ 64 → (s.core core).l1.length ≤ 15 →
    let back := returning q.id (landing m q.id isW d (loaded k (Memory.read s.mem q.pa (ldBytes k))))
    (q.op = .fillGen (ldBytes k) (signs k) → (s.core core).line? none (q.pa / 64) .gen = none →
      ∃ t, exec .l2Request s = .next t ∧ t.reqs = [] ∧ t.rets = s.rets ++ back ∧ t.threads = s.threads ∧ t.mem = s.mem ∧
        ∃ l, (t.core core).line? none (q.pa / 64) .gen = some l) ∧
    (q.op = .fillRo (ldBytes k) (signs k) → (s.core core).line? none (q.pa / 64) .ro = none →
      ∃ t, exec .l2Request s = .next t ∧ t.reqs = [] ∧ t.rets = s.rets ++ back ∧ t.threads = s.threads ∧ t.mem = s.mem)) ∧
  ∀ op x y acq pins d, q.op = .atom op x y acq pins → q.dest = landsAt m q.id false d (if op = .cas then 2 else 1) →
    let n := unitBytes op
    let before := match (s.core core).line? none (q.pa / 64) .gen with
      | some l => Memory.writeMasked s.mem (64 * (q.pa / 64)) l.masked
      | none => s.mem
    let old := BitVec.ofNat 64 (leNat (Memory.read before q.pa n))
    ∃ t, exec .l2Request s = .next t ∧ t.reqs = [] ∧ t.threads = s.threads ∧
      leNat (Memory.read t.mem q.pa n) = (newUnit op old x y).toNat % 2 ^ (8 * n) ∧
      (∀ a, (a < q.pa ∨ q.pa + n ≤ a) → Memory.readByte t.mem a = Memory.readByte before a) ∧
      (t.core core).line? none (q.pa / 64) .gen = none ∧
      (acq = true → pins = false → ∀ l ∈ (t.core core).l1, l.tag = .gen → l.isDirty = true) ∧
      (op ≠ .st → t.rets = s.rets ++ returning q.id (landing m q.id false d (oldWords op old))) ∧
      (op = .st → q.dest = .none → t.rets = s.rets) ∧
      (pins = true → s.pins = [] → ∀ src, t.refused src (q.pa / 64) = true ↔ src ≠ .core core)) ∧
  (∀ s id, s.op = .nat id →
  (∀ w c, s.walks = [w] → w.id = id → w.failed = false → s.context? w.ctx = some c →
    (∀ pte size, s.walk c (.core (w.waiters.headD 136)) w.va.toNat = .leaf pte size → 0 < size →
      ∃ t, exec .tableWalk s = .next t ∧ t.walks = [] ∧ t.mem = s.mem ∧ t.threads = s.threads ∧
        ∀ n ∈ w.waiters, ∃ e ∈ t.tlbHits c.id (.core n) w.die w.va.toNat, e.pte = pte ∧ e.size = size) ∧
    ∀ m, s.walk c (.core (w.waiters.headD 136)) w.va.toNat = .fault m →
      exec .tableWalk s = .next { s with walks := [{ w with failed := true }] }) ∧
  (∀ q, s.reqs = [q] → q.id = id → q.op = .probe → q.resp = none → q.refusedAt + 64 ≤ s.clock →
    (s.refused q.src (q.pa / 64) = false → exec .retryResend s = .next { s with reqs := [] }) ∧
    (s.refused q.src (q.pa / 64) = true → q.refusals + 1 < 2 ^ 20 →
      exec .retryResend s = .next { s with reqs := [{ q with refusals := q.refusals + 1, refusedAt := s.clock }] }) ∧
    ∀ core i, s.refused q.src (q.pa / 64) = true → 2 ^ 20 ≤ q.refusals + 1 → q.src = .core core → s.waiting q.key = some i →
      exec .retryResend s = .next (({ s with reqs := [] } : State).takeTrap i q.key.tid
        { rank := 7, cause := .narrowScopeStall, addr := BitVec.ofNat 64 (64 * (q.pa / 64)), write := s.waitsToWrite i })) ∧
  ∀ q v c, s.reqs = [q] → q.id = id → q.vdev = some v → q.resp = none → q.key.tid < 16384 → s.context? q.key.ck.ctx = some c →
    q.sentAt + (c.pod.podtmo.toNat / 2 ^ 16) * 1800 ≤ s.clock →
    exec .remoteResponseTimeout s = .next { s with reqs := [{ q with resp := some (.error 0 .poison) }] })

/-- R36, R39, R124 to R127, R154, R182, R217, R288, R289: a new cohort starts on a core that has room, with its threads,
registers, groups and barriers as the manual starts them; a cohort whose threads have exited completes, and everything it
held is free; the last one completes its launch, whose record then enters the record store. -/
def Obligations.Cohorts : Prop := ∀ s ctx c, s.context? ctx = some c → c.st = .running →
  (∀ l, s.toPlace ctx true = some (.fresh l) → l ∈ s.launches ∧ l.ctx = ctx ∧ l.nextCoh < l.hdr.gx * l.hdr.gy * l.hdr.gz ∧
    ∀ k ∈ s.launches, k.ctx = ctx → k.nextCoh < k.hdr.gx * k.hdr.gy * k.hdr.gz → l.order ≤ k.order) ∧
  (∀ core v l r, s.op = .nat2 ctx core → s.toPlace ctx true = some (.fresh l) → s.launch? ctx l.id = some l → l.hdr.roles = [r] → l.hdr.rpl < 4 →
    s.vacating core = false → s.inPartition c core = true → c.vacant = [] → c.vcoreAt core = some v → s.roomOn core l.hdr 0 = true →
    let ck : CohKey := { ctx := ctx, launch := l.id, coh := l.nextCoh }
    (∀ m ∈ s.threads, m.key.ck ≠ ck) → (∀ g ∈ s.groups, g.key.ck ≠ ck) →
    ∃ t h, exec .cohortPlacement s = .next t ∧ t.mem = s.mem ∧ t.contexts = s.contexts ∧ t.launch? ctx l.id = some { l with nextCoh := l.nextCoh + 1 } ∧
      t.cohort? ck = some h ∧ h.st = .resident v ∧ h.scratchSize = l.hdr.scratch ∧ h.scratch = [] ∧ h.tiles = [] ∧ h.caps = [] ∧
      (∀ n < 16, h.bars[n]? = some (Barrier.fresh r.ngroups)) ∧
      (∀ k : ThKey, k.ck ≠ ck → t.thread? k = s.thread? k) ∧ (∀ k : GrpKey, k.ck ≠ ck → t.group? k = s.group? k) ∧
      (∀ tid < r.ngroups * r.gsize, ∀ a, (a = true → r.split = true) → ∃ m, t.thread? { ck := ck, tid := tid, addr := a } = some m ∧
        m.regs = [] ∧ m.wregs = [] ∧ m.wb = 0 ∧ m.trap = 0 ∧ m.visit = 0x00100000#32 ∧ m.gallot = r.gallot ∧ m.exited = false ∧
        m.wallot = (if a then 0 else r.wallot) ∧ m.status.getLsbD 31 = l.sup ∧ m.gid = tid / r.gsize ∧ m.join = none ∧
        ∀ k < 4, counterOf m.time k = if k < l.hdr.tdepth then counterOf l.hdr.intime k else 0) ∧
      ∀ n < r.ngroups, 0 < r.gsize → ∃ g, t.group? { ck := ck, gid := n } = some g ∧ g.score = 0 ∧
        g.members = (List.range r.gsize).map (fun k => n * r.gsize + k) ∧
        ∃ en ∈ g.frontier, en.addr = false ∧ en.pc = pc56 (l.hdr.textbase + BitVec.ofNat 64 r.entry) ∧ en.members = g.members) ∧
  (∀ ck h v l, ck.ctx = ctx → s.op = .nat3 ctx ck.launch ck.coh → s.cohort? ck = some h → h.st = .resident v → c.stopped = [] →
    (∀ m ∈ s.threads, m.key.ck = ck → m.exited = true) → s.cohortBusy ck = false → c.pre = [] →
    (∀ x ∈ (s.core (c.phys v)).l1, x.isDirty = false) → (∀ q ∈ s.reqs, q.src ≠ .core (c.phys v) ∧ q.key ≠ backKey ctx (c.phys v)) →
    (∀ p ∈ s.pins, p.ck = ck → p.dev = none → p.vdev = none) → s.launch? ctx ck.launch = some l →
    let gone := fun (t : State) => exec .cohortComplete s = .next t ∧ t.cohort? ck = none ∧ t.mem = s.mem ∧
      (∀ k : ThKey, t.thread? k = if k.ck = ck then none else s.thread? k) ∧
      (∀ k : GrpKey, t.group? k = if k.ck = ck then none else s.group? k) ∧ (∀ p ∈ t.pins, p.dev = none → p.ck ≠ ck)
    (2 ≤ l.remaining → ∃ t c', gone t ∧ t.launch? ctx ck.launch = some { l with remaining := l.remaining - 1 } ∧
      t.context? ctx = some c' ∧ (h.caps = [] → c' = c) ∧
      ∀ x, h.caps = [x] → 0 < x.count → Formed c c' v (c.runsOn v) [] [change x.loc x.time (-(x.count : Int))]) ∧
    (l.remaining = 1 → h.caps = [] → ∃ t c', gone t ∧ t.context? ctx = some c' ∧
      (l.hdr.donech = 0xFFFF → t.launch? ctx ck.launch = none) ∧
      (l.hdr.donech ≠ 0xFFFF → t.launch? ctx ck.launch = some { l with remaining := 0, holdsCap := false, recordPending := true }) ∧
      (l.holdsCap = true → Formed c c' v (c.runsOn v) [] [change l.hdr.donech l.hdr.intime (-1)]))) ∧
  ∀ id l, s.op = .nat2 ctx id → s.launch? ctx id = some l → l.recordPending = true → c.records.length < c.desc.rscount → c.recvs = [] →
    ∃ t c' r, exec .completionRecord s = .next t ∧ t.launch? ctx id = none ∧ StoresRecord s t c ∧ t.context? ctx = some c' ∧ r ∈ c'.records ∧
      r.id = c.nextRecord ∧ r.loc = l.hdr.donech ∧ r.time = l.hdr.intime ∧ r.counted = false ∧ r.delivered = true ∧
      c'.nextRecord = c.nextRecord + 1
/-- R265, R267, R270, R272, R276 to R281, R312: an engine takes up a request that passes its checks, and fails one that
does not; it copies one element of a box; the last beat credits its barrier and, where ARRIVE asks it, arrives, completes
the phase or overflows; a multicast is parked and each receiver drains it. -/
def Obligations.Copies : Prop := ∀ s e q c,
  (s.op = .nat e → s.current e = some q → s.context? q.ck.ctx = some c → q.status = .queued → q.tmpl = none →
    (∀ tm, s.takeUpChecks c e q = (.ok (tm, none), s) → lineTiles q.line = [] → (q.line.getD 4 0).getLsbD 5 = false →
      ∃ t x, exec .copyTakeUp s = .next t ∧ x ∈ (t.engine e).queue ∧ x.ck = q.ck ∧ x.seq = q.seq ∧ x.line = q.line ∧
        x.status = .active ∧ x.tmpl = some tm ∧ x.credit = tm.esz * tm.box.foldl (· * ·) 1 ∧ t.mem = s.mem ∧
        t.threads = s.threads ∧ ∀ k, k ≠ e → t.engine k = s.engine k) ∧
    (∀ x, s.takeUpChecks c e q = (.trap x, s) → exec .copyTakeUp s = .next (s.copyFail e q x 0)) ∧
    (q.lineOk = false → ∃ t, exec .copyTakeUp s = .next t ∧ FailsCopy s t e q c 12) ∧
    (q.lineOk = true → c.desc.dtcount ≤ leNat (q.line.take 2) → ∃ t, exec .copyTakeUp s = .next t ∧ FailsCopy s t e q c 1)) ∧
  (∀ tm h, Performs s e q c tm → s.op = .src (.engine e) → q.status = .active → tm.op = 0 → q.idx < tm.box.foldl (· * ·) 1 →
    s.cohort? q.ck = some h → swf 0 h.scratch = true → Sees h q.tid .copy → (q.line.getD 4 0).toNat % 16 = 5 → (q.line.getD 4 0).getLsbD 5 = false →
    let x := tm.elem (lineOrg q.line) q.idx 0
    let src : Int := leAt q.line 8 8 + x.src * tm.esz
    let dst : Int := leAt q.line 16 8 + x.dst * tm.esz
    x.valid = true → x.write = true → 0 ≤ src → src + tm.esz ≤ h.scratchSize → 0 ≤ dst → dst + tm.esz ≤ h.scratchSize →
    ∃ t h', exec .l2Request s = .next t ∧ t.mem = s.mem ∧ t.threads = s.threads ∧ t.cohort? q.ck = some h' ∧
      (∀ o : Nat, scratchByte h' o = if dst ≤ o ∧ (o : Int) < dst + tm.esz then scratchByte h (src.toNat + (o - dst.toNat))
        else scratchByte h o) ∧
      ∃ y ∈ (t.engine e).queue, y.ck = q.ck ∧ y.seq = q.seq ∧ y.idx = q.idx + 1) ∧
  (let n := (q.line.getD 2 0).toNat % 16
   let b := s.bar q.ck n
   let arrives := if (q.line.getD 4 0).getLsbD 4 then 1 else 0
   (s.cohort? q.ck).isSome = true → (∀ h, s.cohort? q.ck = some h → h.bars.length = 16) → c.st = .running → s.op = .nat e →
   (s.performedOn e false = some (c, q) → q.ext = none →
     (b.arr + arrives < b.expa → ∃ t, exec .copyLastBeat s = .next t ∧ t.mem = s.mem ∧ (t.engine e).queue = without (s.engine e).queue q ∧
       (t.bar q.ck n).pend = b.pend - q.credit ∧ (t.bar q.ck n).arr = b.arr + arrives ∧ (t.bar q.ck n).phase = b.phase) ∧
     (b.arr + arrives = b.expa → 0 < b.expa → b.pend = q.credit → b.arrivals = [] → b.deferred = [] →
       ∃ t, exec .copyLastBeat s = .next t ∧ (t.engine e).queue = without (s.engine e).queue q ∧
         (t.bar q.ck n).pend = 0 ∧ (t.bar q.ck n).arr = 0 ∧ (t.bar q.ck n).phase = !b.phase ∧ (t.bar q.ck n).k = b.k + 1) ∧
     (b.arr = b.expa → 0 < b.expa → b.pend < q.credit →
       exec .copyLastBeat s = .next (s.copyFail e q { rank := 7, cause := .barrierOverflow } (n * 2 ^ 16)))) ∧
   (s.performedOn e true = some (c, q) → q.ext = none → b.arr + arrives < b.expa → ∀ cl k h, s.holds = [(cl, k, h)] → h.eng = e →
     h.seq = q.seq → h.ck = q.ck → h.receivers ≠ [] →
     ∃ t h', exec .multicastParked s = .next t ∧ t.mem = s.mem ∧ (t.engine e).queue = without (s.engine e).queue q ∧
       (t.bar q.ck n).pend = b.pend ∧ (t.bar q.ck n).arr = b.arr + arrives ∧ t.holds = [(cl, k, h')] ∧
       h' = { h with parked := true, order := h'.order })) ∧
  ∀ cl k h coh x v, s.op = .nat3 cl k coh → s.holds = [(cl, k, h)] → h.parked = true → coh ∈ h.receivers →
    let ck : CohKey := { h.ck with coh := coh }
    s.cohort? ck = some x → x.st = .resident v → s.context? ck.ctx = some c → c.st = .running → c.stopped = [] → h.dnb < 16 →
    x.bars.length = 16 → swf 0 x.scratch = true → (h.data.map (·.1)).Nodup → 0 < (x.bar h.dnb).pend →
    (x.bar h.dnb).arr < (x.bar h.dnb).expa → ∃ t y, exec .multicastDrain s = .next t ∧ t.mem = s.mem ∧ t.cohort? ck = some y ∧
      (∀ o, scratchByte y o = aget (scratchByte x o) h.data o) ∧ (y.bar h.dnb).pend = (x.bar h.dnb).pend - h.bytes ∧
      (y.bar h.dnb).phase = (x.bar h.dnb).phase ∧
      (∀ p ∈ t.holds, p.2.2.receivers = h.receivers.filter (fun r => r != coh)) ∧ ((∀ r ∈ h.receivers, r = coh) → t.holds = [])
/-- R287, R293 to R295, R301: a node applies the batch that it expects of a source, whole, and no other, and no decrement ahead of an
increment of its count key that was formed before it; a launch counter
whose condition holds fires once, the lowest first, as a launch bound to its key. -/
def Obligations.FlueEvents : Prop := ∀ s ctx c, s.context? ctx = some c →
  (∀ die src b, c.nextBatch die (src / 65536) (src % 65536) = some b → b ∈ c.batches ∧ die ∉ b.applied ∧
    (b.seq = (c.node die).expects (src / 65536) (src % 65536) ∨ ∀ p ∈ (c.node die).next, p.1 ≠ (src / 65536, src % 65536)) ∧
    ∀ x ∈ c.batches.takeWhile (fun x => !x.same b), die ∉ x.applied → ∀ y ∈ x.incs, ∀ z ∈ b.decs, ¬(y.loc = z.loc ∧ y.time = z.time)) ∧
  (∀ die src b, s.op = .nat3 ctx die src → die < 4096 → c.nextBatch die (src / 65536) (src % 65536) = some b → c.recvs = [] →
    ((c.node die).counts.map fun x => (x.loc, x.time)).Nodup →
    ∃ t c', exec .flueBatchApply s = .next t ∧ t.mem = s.mem ∧ t.context? ctx = some c' ∧ c'.nodes.length = c.nodes.length ∧
      (∀ loc u, countAt (c'.node die) loc u = countAt (c.node die) loc u + netOf (b.incs ++ b.decs) loc u) ∧
      (c'.node die).expects b.vdev b.srcId = (b.seq + 1) % 2 ^ 32 ∧
      (∀ d, d ≠ die → ∀ loc u, countAt (c'.node d) loc u = countAt (c.node d) loc u) ∧
      ∀ x ∈ c'.batches, x.vdev = b.vdev → x.srcId = b.srcId → x.seq = b.seq → die ∈ x.applied) ∧
  (∀ k, c.nextFire = some k → k ∈ c.counters ∧
    ((k.cnt = true ∧ k.ccount = 0) ∨ (k.frn = true ∧ hasPassed ((c.node k.die).i.getD k.loc []) k.ctime)) ∧
    ∀ x ∈ c.counters, x.idx < k.idx → ¬(x.cnt = true ∧ x.ccount = 0 ∧ .flue x.die ∉ c.stopped)) ∧
  ∀ k, s.op = .nat2 ctx k.idx → c.nextFire = some k → ∃ t c' l, exec .counterFire s = .next t ∧ t.mem = s.mem ∧
    t.threads = s.threads ∧ t.context? ctx = some c' ∧ c'.counters = c.counters.filter (fun x => x.idx != k.idx) ∧
    c'.nextLaunch = (if c.nextLaunch + 1 = 2 ^ 32 then 1 else c.nextLaunch + 1) ∧ t.launches = s.launches ++ [l] ∧ l.ctx = ctx ∧
    l.id = c.nextLaunch ∧ l.binding = .fixed k.loc k.ctime ∧ l.hdr.intime = k.ctime ∧ l.hdr.tdepth = c.graph.depths.getD k.loc 0 ∧
    l.hdr.roles = k.hdr.roles ∧ l.nextCoh = 0 ∧ l.sup = k.hdr.supl
/-- R294, R295, R302, R303, R401: the host channel moves its capability forward, closes for good, and takes records whose slot the
doorbell names; a frame trigger unit holds the capability of its next frame, emits a record at each, and gives it back when it
ends or is disabled. What the channel refuses raises MSI-X vector 1. -/
def Obligations.HostAndTriggers : Prop := ∀ s c,
  (s.context? (s.mgmt.dbgsel.toNat % 2 ^ 16) = some c →
    (∀ u : W64, s.op = .word u →
      let legal := fits (c.graph.depths.getD c.desc.hostch 0) u ∧ notAfter c.hostpt u ∧ c.hostClosed = false
      (¬legal → exec .hostpt s = .next { s with outputs := s.outputs ++ [.msix 1] }) ∧
      (legal → u ≠ c.hostpt → s.keyRoom c [change c.desc.hostch u 1, change c.desc.hostch c.hostpt (-1)] = true →
        ∃ t c', exec .hostpt s = .next t ∧ t.mem = s.mem ∧ t.context? c.id = some c' ∧ c'.hostpt = u ∧
          Formed c c' 0x6000 0 [change c.desc.hostch u 1] [change c.desc.hostch c.hostpt (-1)])) ∧
    (c.hostClosed = false → ∃ t c', exec .hostClose s = .next t ∧ t.mem = s.mem ∧ t.context? c.id = some c' ∧ c'.hostClosed = true ∧
      Formed c c' 0x6000 0 [] [change c.desc.hostch c.hostpt (-1)])) ∧
  (∀ v : W64, s.op = .word v → exec .hostDoorbell s = .next { s with bells := s.bells ++ [v.toNat % 8192] }) ∧
  (∀ slot rest, s.bells = slot :: rest → (∀ x ∈ s.contexts, x.hostHold = []) →
    let byte := fun k => sget 0 s.ring (128 * slot + k)
    let u : W64 := BitVec.ofNat 64 (leNat ((List.range 8).map fun k => byte (8 + k)))
    let id := leNat [byte 0, byte 1]
    (s.context? id = none → ∃ t, exec .hostRecord s = .next t ∧ t.bells = rest ∧ t.contexts = s.contexts ∧
      (swf 0 s.ring = true → sget 0 t.ring (128 * slot + 2) = 3)) ∧
    (s.context? id = some c →
      let legal := fits (c.graph.depths.getD c.desc.hostch 0) u ∧ notAfter c.hostpt u ∧ c.hostClosed = false
      (¬legal → ∃ t, exec .hostRecord s = .next t ∧ t.bells = rest ∧ t.contexts = s.contexts ∧
        t.outputs = s.outputs ++ [.msix 1] ∧ (swf 0 s.ring = true → sget 0 t.ring (128 * slot + 2) = 2)) ∧
      (legal → c.st = .running → c.records.length < c.desc.rscount → s.keyRoom c [change c.desc.hostch u 1] = true →
        ∃ t c' r, exec .hostRecord s = .next t ∧ t.bells = rest ∧ StoresRecord s t c ∧ (swf 0 s.ring = true → sget 0 t.ring (128 * slot + 2) = 1) ∧
          t.context? id = some c' ∧ c'.records = c.records ++ [r] ∧ r.loc = c.desc.hostch ∧ r.time = u ∧ r.counted = true ∧
          r.payload = (List.range 64).map (fun k => byte (64 + k)) ∧ Formed c c' 0x6000 0 [change c.desc.hostch u 1] []))) ∧
  ∀ k, k < 16 → let x := unitOf s k
    (∀ v : W64, s.op = .natWord k v → s.context? (v.toNat % 2 ^ 16) = some c → x.stat.getLsbD 0 = false →
      let loc := v.toNat / 2 ^ 16 % 2 ^ 10
      let legal := 1000 ≤ x.period.toNat ∧ x.period.toNat ≤ 1000000000 ∧ loc < c.graph.depths.length ∧ c.graph.depths.getD loc 0 ≠ 0
      (¬legal → ∃ t, exec .frameTriggerEnable s = .next t ∧ t.mem = s.mem ∧ (unitOf t k).ctl.getLsbD 31 = false ∧
        (unitOf t k).stat.getLsbD 4 = true ∧ (unitOf t k).stat.getLsbD 0 = false) ∧
      (legal → s.keyRoom c [change loc (atFrame x.frame.toNat) 1] = true → ∃ t c', exec .frameTriggerEnable s = .next t ∧
        t.mem = s.mem ∧ t.context? c.id = some c' ∧ Formed c c' (0x4000 + k) 0 [change loc (atFrame x.frame.toNat) 1] [] ∧
        (unitOf t k).ctl.getLsbD 31 = v.getLsbD 31 ∧ (unitOf t k).stat.getLsbD 0 = true ∧
        (unitOf t k).f0 = x.frame.toNat % 2 ^ 16)) ∧
    (s.context? (x.ctl.toNat % 2 ^ 16) = some c → x.stat.getLsbD 0 = true →
      let loc := x.ctl.toNat / 2 ^ 16 % 2 ^ 10
      let f : Nat := x.frame.toNat % 2 ^ 16
      (∀ v : W64, s.op = .natWord k v → ∃ t c', exec .frameTriggerDisable s = .next t ∧ t.mem = s.mem ∧ t.context? c.id = some c' ∧
        Formed c c' (0x4000 + k) 0 [] [change loc (atFrame x.capNo) (-1)] ∧ (unitOf t k).ctl.getLsbD 31 = false ∧
        (unitOf t k).stat.getLsbD 0 = false) ∧
      (s.op = .nat k → x.ctl.getLsbD 31 = true → c.st = .running → (x.start.toNat : Int) + ((f : Int) - x.f0) * x.period.toNat ≤ s.time.ns →
        c.records.length < c.desc.rscount →
        s.keyRoom c (change loc (atFrame f) 1 :: if f = 0xFFFF then [] else [change loc (atFrame (f + 1)) 1]) = true →
        ∃ t c' r, exec .frameTriggerFire s = .next t ∧ StoresRecord s t c ∧ t.context? c.id = some c' ∧ c'.records = c.records ++ [r] ∧
          r.loc = loc ∧ r.time = atFrame f ∧ r.counted = true ∧ r.payload.length = 64 ∧ leNat (r.payload.take 2) = f ∧
          (f < 0xFFFF → Formed c c' (0x4000 + k) 0 [change loc (atFrame f) 1, change loc (atFrame (f + 1)) 1] [change loc (atFrame x.capNo) (-1)] ∧
            (unitOf t k).frame.toNat = f + 1 ∧ (unitOf t k).capNo = f + 1 ∧ (unitOf t k).ctl = x.ctl) ∧
          (f = 0xFFFF → Formed c c' (0x4000 + k) 0 [change loc (atFrame f) 1] [change loc (atFrame x.capNo) (-1)] ∧
            (unitOf t k).ctl.getLsbD 31 = false ∧ (unitOf t k).stat.getLsbD 2 = true ∧ (unitOf t k).stat.getLsbD 0 = false)))

/-- R335, R337 to R340, R343, R347: the halt line reaches each unit of a context, which writes its record; once all have,
the context is STOPPED and the host is signalled; a trap record has the layout of R335; a storage error is corrected and
counted, or spoils its word, its line, its sector or its entry, and stops the thread whose register it spoils; an uncorrectable scratch word kills the cohort, and stops the context
unless the cohort is to be launched again. -/
def Obligations.Stops : Prop := ∀ s,
  (∀ c u, s.op = .stop c.id u → s.context? c.id = some c → c.stopped.contains u = false →
    (c.st ≠ .halting → exec .haltLineArrival s = .next s) ∧
    (c.st = .halting →
      (∀ e, u = .engine e → e < 32 →
        (s.midBeat (32 * c.id + e) = true → exec .haltLineArrival s = .next (s.engineStep (32 * c.id + e))) ∧
        (s.midBeat (32 * c.id + e) = false → ∃ t, exec .haltLineArrival s = .next t ∧
          RecordsStop s t c u ((s.engine (32 * c.id + e)).queue.filter fun q => q.ck.ctx == c.id).length)) ∧
      (∀ d, u = .flue d → d < 4 → ∃ t, exec .haltLineArrival s = .next t ∧ RecordsStop s t c u
        ((c.batches.filter fun b => !b.applied.contains d).length + (c.counters.filter fun k => k.die == d).length)) ∧
      (∀ v core, u = .core v → (v, core) ∈ c.cores → c.phys v = core → c.pre = [] → (s.core core).eng.gathers = [] →
        (∀ x ∈ (s.core core).slots, x.run = none) → s.coreBusy c.id core (c.haltClock s.clock) = false → (s.cohortsAt c.id v) = [] →
        ∃ t, exec .haltLineArrival s = .next t ∧ RecordsStop s t c u 0 ∧ t.groups = s.groups))) ∧
  (∀ c c0 s1 c1, s.op = .nat c.id → s.context? c.id = some c → c.st = .halting → (∀ u ∈ c.unitsOf, u ∈ c.stopped) → s.mgmt.saving = none →
    s.mgmt.haltCmd = none → c.pod.damper = .none → (s.refreshUnits c.id).context? c.id = some c0 →
    (s.refreshUnits c.id).writeStop c0 (s.clock, s.ptp) = (.ok (), s1) → s1.context? c.id = some c1 → c1.pod.damper = .none →
    leAt (s1.mgmt.parts.getD c.desc.part []) 40 2 = 0 →
    ∃ t d, exec .stopComplete s = .next t ∧ t.context? c.id = some d ∧ d.st = .stopped ∧ d.traps = c1.traps ∧
      d.stopAt = some (s.clock, s.ptp) ∧ t.outputs = s1.outputs ++ [.msix 0] ∧ t.mem = s1.mem ∧ t.threads = s1.threads) ∧
  (∀ (r : TrapRec) first, let b := r.bytes first
    b.length = 64 ∧ field b 0 1 = r.cause % 256 ∧ field b 1 1 = r.sub % 256 ∧ field b 4 4 = r.launch % 2 ^ 32 ∧
    field b 8 4 = r.coh % 2 ^ 32 ∧ field b 12 2 = r.tid % 2 ^ 16 ∧ field b 14 2 = r.gid % 2 ^ 16 ∧ field b 16 8 = r.pc.toNat ∧
    field b 24 8 = r.addr.toNat ∧ field b 32 8 = r.info1.toNat ∧ field b 40 8 = r.info2.toNat ∧ field b 48 8 = r.ptptime.toNat ∧
    field b 56 8 = r.ltime.toNat ∧
    ∀ k, (field b 2 2).testBit k = ([first, r.sup, r.write, r.malformed, r.cow, r.poison, r.req].getD k false)) ∧
  (∀ site corrected, s.op = .err site corrected →
    (∀ pa, site = .sector pa → corrected = false → pa / 32 ∉ s.poison →
      exec .softError s = .next { s with poison := s.poison ++ [pa / 32] }) ∧
    (∀ core line, site = .l1 core line false → ∃ t, exec .softError s = .next t ∧ t.mem = s.mem ∧
      (∀ l ∈ (t.core core).l1, l.line = line → l.isDirty = true) ∧
      ∀ l ∈ (s.core core).l1, (l.line ≠ line ∨ l.isDirty = true) → l ∈ (t.core core).l1) ∧
    (∀ core, site = .tlb core → ∃ t, exec .softError s = .next t ∧ t.mem = s.mem ∧
      let mine := fun (e : TlbEntry) => e ∈ s.tlb ∧ e.lvl.serves (.core core) (core / 34) = true
      ((∃ e, mine e) → ∃ e, mine e ∧ t.tlb = s.tlb.erase e) ∧ ((∀ e, ¬mine e) → t.tlb = s.tlb)) ∧
    (∀ core, site = .table core → ∃ t, exec .softError s = .next t ∧ t.mem = s.mem ∧
      ((s.core core).seqCache ≠ [] → ∃ e ∈ (s.core core).seqCache, (t.core core).seqCache = (s.core core).seqCache.erase e)) ∧
    (∀ ctx launch coh tid addr reg, site = .general ctx launch coh tid addr reg → let ck : CohKey := { ctx := ctx, launch := launch, coh := coh }
      ∀ core, s.coreOf ck = some core →
      (corrected = true → ∃ t, exec .softError s = .next t ∧ t.threads = s.threads ∧ (t.core core).ecccor = (s.core core).ecccor + 1) ∧
      (corrected = false → ∀ c, s.context? ctx = some c → ∃ t v, exec .softError s = .next t ∧
        (t.core core).eccunc = (s.core core).eccunc + 1 ∧ Halts t c 0x04 (fun r => r.poison = true ∧ r.launch = launch ∧ r.coh = coh ∧ r.tid = tid) ∧
        let k : ThKey := { ck := ck, tid := tid, addr := addr }
        (∀ k' m, s.thread? k' = some m → ∃ m', t.thread? k' = some m' ∧ m'.regs = if k' = k then sput 0 m.regs reg v else m.regs) ∧
        ∀ m en, s.thread? k = some m → s.waiting k = none → s.entryOf k = some en → en.wait = none → en.stat = .plain →
          ∃ m', t.thread? k = some m' ∧ m'.trap = 0x04))) ∧
  ∀ ctx launch coh off tid addr engine h l c v, s.op = .scratchErr ctx launch coh off tid addr engine →
    let ck : CohKey := { ctx := ctx, launch := launch, coh := coh }
    s.cohort? ck = some h → s.launch? ctx launch = some l → s.context? ctx = some c → h.st = .resident v → h.key = ck → c.id = ctx →
    (∃ t h', exec .scratchUncorrectable s = .next t ∧ t.cohort? ck = some h' ∧ h'.st = .killed v ∧ t.mem = s.mem ∧
      (l.hdr.idem = true → h.relaunches < 3 → t.inputs = (.scratchUncorrectable, s.op) :: s.inputs) ∧
      ((l.hdr.idem = false ∨ 3 ≤ h.relaunches) → Halts t c 0x12 fun r => r.addr = BitVec.ofNat 64 off ∧
        (engine = none → r.req = false ∧ r.launch = launch ∧ r.coh = coh ∧ r.tid = tid) ∧
        ∀ e q, engine = some e → s.current (32 * ctx + e) = some q → r.req = true ∧ r.launch = q.ck.launch ∧ r.coh = q.ck.coh ∧
          r.tid = q.tid))
/-- R201, R334, R337, R342, R345, R348, R349: the context commands. Each is refused while another runs or in a state it is
not for, and then only CTXSTAT tells of it; CREATE checks the descriptor and brings the context to CREATING, its
completion to RUNNING; RESUME clears the stop header and sets every entry going, past an instruction whose trap comes after it; HALT stops with
SOFTWARE; DESTROY leaves nothing of the context; an invalidation takes every translation of its range. -/
def Obligations.Commands : Prop := ∀ s ctx,
  (s.op = .nat ctx → (∀ p ∈ [(Instr.resume, [CtxSt.stopped]), (.switchout, [.running, .stopped]), (.switchin, [.saved]),
      (.destroy, [.stopped, .saved]), (.ctxHalt, [.running])],
      (s.context? ctx = none ∨ s.mgmt.busy = true ∨ ∃ c, s.context? ctx = some c ∧ c.st ∉ p.2) → CommandRefused s p.1 ctx) ∧
    (((s.context? ctx).isSome = true ∨ s.mgmt.busy = true) → CommandRefused s .create ctx)) ∧
  (s.op = .nat ctx → noCommand s → s.context? ctx = none →
    let pa := s.mgmt.ctxarg.toNat
    let b := Memory.read s.mem pa 256
    pa + 256 ≤ s.capacity → s.pins = [] → s.poison = [] →
    ((pa % 256 ≠ 0 ∨ descOk b ctx = false) → ∃ t, exec .create s = .next t ∧ t.contexts = s.contexts ∧ t.launches = s.launches ∧
      t.mgmt.creating = some (ctx, 0x0101) ∧ t.mgmt.busy = true) ∧
    ∀ c h, s.checkCreate ctx b = (.ok c h, s) → ∃ t l d, exec .create s = .next t ∧ t.mgmt.creating = some (ctx, 0) ∧
      t.mgmt.busy = true ∧ t.mem = s.mem ∧ c.id = ctx ∧ t.context? ctx = some d ∧ d.st = .creating ∧ d.traps = [] ∧ d.nextLaunch = 2 ∧
      d.nodes.length = 4 ∧ t.launches = s.launches ++ [l] ∧ l.ctx = ctx ∧ l.id = 1 ∧ l.hdr = h ∧ l.sup = true ∧ l.binding = .host ∧
      (h.donech = 0xFFFF → ∀ die < 4, countAt (d.node die) d.desc.hostch 0 = 1)) ∧
  (∀ code, s.op = .nat ctx → s.mgmt.creating = some (ctx, code) → ∃ t, exec .createComplete s = .next t ∧ t.mgmt.creating = none ∧
    t.mgmt.busy = false ∧ t.mem = s.mem ∧
    (code = 0 → ∀ c, s.context? ctx = some c → ∃ d, t.context? ctx = some d ∧ d.st = .running) ∧
    (code ≠ 0 → errOf t ctx = (code / 256, code % 256) ∧ t.contexts = s.contexts)) ∧
  (∀ c, s.op = .nat ctx → noCommand s → s.context? ctx = some c →
    (∀ s1, c.st = .stopped → c.recvs = [] → s.writeVirt c c.desc.stopbase (List.replicate 256 0) = (.ok (), s1) →
      s1.context? ctx = some c → s1.groups = s.groups → s1.cohorts = s.cohorts →
      ∃ t d, exec .resume s = .next t ∧ t.mem = s1.mem ∧ t.context? ctx = some d ∧ d.st = .running ∧ d.traps = [] ∧
      d.stopped = [] ∧ ∀ gk g en, s.group? gk = some g → gk.ck.ctx = ctx → (s.cohort? gk.ck).isSome = true → g.frontier = [en] →
        en.members ≠ [] → en.wait = none → ∃ g' en', t.group? gk = some g' ∧ g'.frontier = [en'] ∧ en'.members = en.members ∧
          en'.addr = en.addr ∧ en'.stat = .plain ∧ en'.pc = if en.stat = .trapped ∧ en.skip = true then nextPc en.pc else en.pc) ∧
    (c.st = .running → ∃ t, exec .ctxHalt s = .next t ∧ t.mgmt.busy = true ∧ t.mem = s.mem ∧ t.threads = s.threads ∧
      Halts t c 0x0D fun r => r.info1 = 0xFE ∧ r.sub = 0) ∧
    ((c.st = .stopped ∨ c.st = .saved) → ∃ t, exec .destroy s = .next t ∧ t.mem = s.mem ∧ t.context? ctx = none ∧
      (∀ k : ThKey, t.thread? k = if k.ck.ctx = ctx then none else s.thread? k) ∧
      (∀ k : GrpKey, t.group? k = if k.ck.ctx = ctx then none else s.group? k) ∧
      (∀ k : CohKey, t.cohort? k = if k.ctx = ctx then none else s.cohort? k) ∧ (∀ l ∈ t.launches, l.ctx ≠ ctx) ∧
      (∀ p ∈ t.pins, p.ck.ctx ≠ ctx) ∧ (∀ r ∈ t.reqs, r.key.ck.ctx ≠ ctx) ∧ t.mgmt.busy = false)) ∧
  (∀ v : W64, s.op = .word v → ∃ t, exec .tlbinv s = .next t ∧ t = { s with mgmt := t.mgmt } ∧
    (s.mgmt.tlbinv.getLsbD 31 = true → t = s) ∧
    (s.mgmt.tlbinv.getLsbD 31 = false → t.mgmt.tlbinv.getLsbD 31 = v.getLsbD 31 ∧
      t.mgmt.tlbinv.toNat % 2 ^ 22 = v.toNat % 2 ^ 22)) ∧
  (s.mgmt.tlbinv.getLsbD 31 = true → ∃ t, exec .tlbinvComplete s = .next t ∧ t.mem = s.mem ∧ t.mgmt.tlbinv.getLsbD 31 = false ∧
    let n := 2 ^ (s.mgmt.tlbinv.toNat / 2 ^ 16 % 2 ^ 6)
    let lo := s.mgmt.tlbinva.toNat % 2 ^ 56 / n * n
    let hit := fun (e : TlbEntry) => e.ctx = s.mgmt.tlbinv.toNat % 2 ^ 16 ∧ e.vbase < lo + n ∧ lo < e.vbase + e.size
    ∀ e, e ∈ t.tlb ↔ e ∈ s.tlb ∧ ¬hit e)
/-- R349 to R353: PREEMPT drains the highest virtual cores, a drained core saves its cohorts and is VACANT once saved;
SWITCHOUT halts a running context and saves a stopped one, which then holds no core; SWITCHIN checks the image and
restores, and ends in STOPPED; what fails says so in CTXSTAT. -/
def Obligations.Preemption : Prop := ∀ s ctx c, s.context? ctx = some c →
  (∀ k, s.op = .nat2 ctx k → noCommand s → (c.st = .running ∨ c.st = .stopped) → ∃ t d, exec .preempt s = .next t ∧ t.mem = s.mem ∧
    t.context? ctx = some d ∧ d.pre.length = min k c.cores.length ∧ (∀ p ∈ d.pre, p.2 = .drain ∧ ∃ x ∈ c.cores, x.1 = p.1) ∧
    (∀ p ∈ d.pre, ∀ x ∈ c.cores, (∀ q ∈ d.pre, q.1 ≠ x.1) → x.1 ≤ p.1) ∧
    (t.mgmt.busy = true ↔ k ≠ 0 ∧ c.cores ≠ [])) ∧
  (∀ v s2 c2, s.op = .nat2 ctx v → c.pre = [(v, .drain)] → (s.core (c.phys v)).eng.gathers = [] → s.drained c v = true →
    s.blockedLine (c.phys v) = none → (s.dropProbes (coreKey ctx v)).saveCore c v = (.ok true, s2) → s2.context? ctx = some c2 →
    c2.pre = c.pre →
    ∃ t d, exec .preemptDrained s = .next t ∧ t.context? ctx = some d ∧ d.pre = [(v, .save)] ∧ (t.core (c.phys v)).l1 = [] ∧
      ∀ ck h, s.cohort? ck = some h → ck.ctx = ctx → h.st = .resident v → ∃ h', t.cohort? ck = some h' ∧ h'.st = .saved v) ∧
  (∀ v, s.op = .nat2 ctx v → c.pre = [(v, .save)] → c.st = .running → ∃ t d, exec .preemptSaved s = .next t ∧ t.context? ctx = some d ∧
    d.pre = [] ∧ (∀ x, x ∈ d.cores ↔ x ∈ c.cores ∧ x.1 ≠ v) ∧ (v, c.phys v) ∈ d.vacant ∧ t.threads = s.threads ∧
    (c.preBusy = true → t.mgmt.busy = false)) ∧
  (s.op = .nat ctx → noCommand s →
    (c.st = .running → ∃ t d, exec .switchout s = .next t ∧ t.context? ctx = some d ∧ d.st = .halting ∧ t.mgmt.saving = some ctx ∧
      t.mgmt.busy = true ∧ t.mem = s.mem ∧ t.threads = s.threads) ∧
    (c.st = .stopped → ∃ t d, exec .switchout s = .next t ∧ t.context? ctx = some d ∧ d.st = .saving ∧ t.mgmt.saving = some ctx ∧
      t.mgmt.busy = true ∧ t.mem = s.mem ∧ t.threads = s.threads) ∧
    (∀ err s1 c1, c.st = .saved → s.checkSaved c = (.ok err, s1) → (s1.deviceDone c).context? ctx = some c1 →
      ∃ t d, exec .switchin s = .next t ∧ t.context? ctx = some d ∧ d.st = .restoring ∧ t.mgmt.restoring = some (ctx, err) ∧
        t.mgmt.busy = true ∧ (err = none → ∀ u ∈ d.unitsOf, u ∈ d.stopped))) ∧
  (s.op = .nat ctx → c.st = .saving → s.blockedCore c = none → s.reqs = [] → ∀ s2 c2, s2.context? ctx = some c2 →
    (s.saveAll c = (.ok true, s2) → ∃ t d, exec .switchoutComplete s = .next t ∧ t.context? ctx = some d ∧ d.st = .saved ∧
      d.cores = [] ∧ t.mgmt.saving = none ∧ t.mgmt.busy = false) ∧
    (s.saveAll c = (.ok false, s2) → ∃ t d, exec .switchoutComplete s = .next t ∧ t.context? ctx = some d ∧ d.st = .stopped ∧
      errOf t ctx = (0x05, 3) ∧ t.mgmt.busy = false)) ∧
  ∀ err, s.op = .nat ctx → s.mgmt.restoring = some (ctx, err) →
    (∀ x, err = some x → ∃ t d, exec .switchinComplete s = .next t ∧ t.context? ctx = some d ∧ d.st = .saved ∧ errOf t ctx = x ∧
      t.mgmt.busy = false ∧ t.mgmt.restoring = none) ∧
    (∀ s1 c1, err = none → (∀ p, s.placeOn c p = none) → s.writeVirt c c.desc.stopbase (stopHeader (s.clock, s.ptp) 0 0 256) = (.ok (), s1) →
      s1.context? ctx = some c1 →
      ∃ t d, exec .switchinComplete s = .next t ∧ t.mem = s1.mem ∧ t.context? ctx = some d ∧ d.st = .stopped ∧
      t.mgmt.busy = false ∧ t.mgmt.restoring = none)

/-- R335, R360 to R362, R365 to R367, R373: a debug step issues the stopped thread's entry in its slot, past an
instruction whose trap comes after it, and is refused where R360 does not allow it; without a trap it ends with STEP; a
causal trial counts from zero and ends after CXLEN; a sample writes one record per slot or drops it, and one that is due comes before a write of SMPCTL; EN = 0 empties the
tag registers; a new replay base starts a new ordinal. -/
def Obligations.Debugging : Prop := ∀ s c,
  (Selected s c → ∀ v : W64, s.op = .word v →
    (∀ p ∈ [(Instr.stepi, true), (.stepr, false)],
      (s.stepEntry c v = none → ∃ t, exec p.1 s = .next t ∧ Becomes s t c.id fun d =>
        d = { c with dbg := { c.dbg with dbgstat := c.dbg.dbgstat ||| 0x80000000#32 } }) ∧
      (c.st ≠ .stopped ∨ c.dbg.dbgctl.getLsbD 31 = false → s.stepEntry c v = none) ∧
      ∀ x gk en, s.stepEntry c v = some (x, gk, en) → c.dbg.dbgctl.toNat % 2 ^ 8 = 0 →
        let slot := (gk.gid + if en.addr then 2 else 0) % 4
        freeSlot s (c.phys x) slot → ∃ t r, exec p.1 s = .next t ∧ ((t.core (c.phys x)).slot slot).run = some r ∧ r.gk = gk ∧
          r.addr = en.addr ∧ r.members = en.members ∧ r.single = p.2 ∧ r.count = 0 ∧
          r.pc = (if en.stat = .trapped ∧ en.skip = true then nextPc en.pc else en.pc) ∧ t.mem = s.mem ∧ t.threads = s.threads ∧
          (∀ g, s.group? gk = some g → ∃ g', t.group? gk = some g' ∧ g'.frontier = g.frontier.erase en) ∧
          ∃ d y, t.context? c.id = some d ∧ d.stepping = some y ∧ y.gk = gk ∧ y.tid = v.toNat % 2 ^ 16) ∧
    (v.getLsbD 31 = true → ∃ t, exec .causalTrialStart s = .next t ∧ Becomes s t c.id fun d => d.dbg.cxctl.getLsbD 31 = true ∧
      d.dbg.cxctl.toNat % 2 ^ 16 = v.toNat % 2 ^ 16 ∧ d.dbg.cxcount = 0 ∧ d.dbg.cxin = 0 ∧ d.dbg.cxout = 0) ∧
    ∃ t, exec .rplbaseWrite s = .next t ∧ Becomes s t c.id fun d => d.dbg.rplbase = v ∧ d.dbg.rplptr = 0 ∧ d.dbg.rplOrd = 0) ∧
  (s.context? c.id = some c → s.op = .nat c.id →
    (∀ y s3 c3, c.stepping = some y → (∀ k j, ((s.core k).slot j).run = none) → s.memBusy y.gk.ck = false →
      (∀ x ∈ s.cores, x.2.eng.busyFor y.gk.ck = false) → y.traps = c.traps.length →
      let r := s.stepRec y
      let ended := fun (d : Context) => { d with stepping := none, traps := d.traps ++ [r], stepLanes := d.stepLanes ++ y.laneStatus none }
      (({ s with free := s.free + 1 } : State).updContext c.id ended).refreshStop c.id = (.ok (), s3) → s3.context? c.id = some c3 →
      r.cause = 0x0C ∧ r.launch = y.gk.ck.launch ∧ r.coh = y.gk.ck.coh ∧ r.tid = y.tid ∧
      ∃ t, exec .stepEnd s = .next t ∧ t.mem = s3.mem ∧ t.context? c.id = some c3 ∧ t.threads = s3.threads ∧ t.groups = s3.groups) ∧
    (c.dbg.cxctl.getLsbD 31 = true → c.dbg.cxStart + c.dbg.cxlen.toNat ≤ s.clock → ∃ t, exec .causalTrialEnd s = .next t ∧
      Becomes s t c.id fun d => d = { c with dbg := { c.dbg with cxctl := c.dbg.cxctl &&& 0x7FFFFFFF#32 } })) ∧
  ∀ core, let k := s.core core
    (∀ v : W64, s.op = .natWord core v →
      (s.sampleDue core = true → exec .smpctlWrite s = exec .smpctlWrite (s.takeSample core)) ∧
      (s.sampleDue core = false → ∃ t, exec .smpctlWrite s = .next t ∧ t = { s with cores := t.cores } ∧ (∀ j, j ≠ core → t.core j = s.core j) ∧
        (t.core core).smpctl.getLsbD 31 = v.getLsbD 31 ∧ (t.core core).smpctl.toNat % 2 ^ 16 = v.toNat % 2 ^ 16 ∧
        (v.getLsbD 31 = true → k.smpctl.getLsbD 31 = false → (∀ x ∈ (t.core core).slots, x.sampled = none) ∧
          (t.core core).smpNext = s.clock + max 16 (v.toNat % 2 ^ 16))) ∧
      ∃ t, exec .rdctlWrite s = .next t ∧ t = { s with cores := t.cores } ∧ (∀ j, j ≠ core → t.core j = s.core j) ∧
        (t.core core).rdctl.getLsbD 31 = v.getLsbD 31 ∧ (v.getLsbD 31 = false → (t.core core).rdtags = [])) ∧
    (s.op = .nat core → k.smpctl.getLsbD 31 = true → k.smpNext ≤ s.clock → s.groupsOn core = [] → s.memOk →
      let at' := k.smpbase.toNat % 2 ^ 56 / 32 * 32 + 32 * k.smpptr.toNat
      (k.smpptr.toNat + 4 ≤ k.smpsize.toNat → at' + 128 ≤ s.capacity → ∃ t, exec .stallSample s = .next t ∧
        (t.core core).smpptr = k.smpptr + 4 ∧ (t.core core).smpNext = k.smpNext + max 16 (k.smpctl.toNat % 2 ^ 16) ∧
        t.threads = s.threads ∧ (∀ j < 4, Memory.readByte t.mem (at' + 32 * j + 2) = 10 ∧
          Memory.readByte t.mem (at' + 32 * j + 3) = BitVec.ofNat 8 j) ∧
        ∀ a, a < at' ∨ at' + 128 ≤ a → Memory.readByte t.mem a = Memory.readByte s.mem a) ∧
      (k.smpsize.toNat ≤ k.smpptr.toNat → k.smpdrop.toNat + 4 < 2 ^ 32 → ∃ t, exec .stallSample s = .next t ∧ t.mem = s.mem ∧
        (t.core core).smpptr = k.smpptr ∧ (t.core core).smpdrop = k.smpdrop + 4))
/-- R382, R383, R387, R390, R392, R397, R401: joining and leaving a job, the halt wave with the root's cause table, and
the fencing of members. A control message of a foreign job is discarded and counted. -/
def Obligations.PodMembers : Prop := ∀ s c,
  (∀ m, s.op = .ctl m → s.jobContext m.jobid = none → ∀ x ∈ messages,
    exec x s = .next { s with mgmt := { s.mgmt with foreign := s.mgmt.foreign + 1 } }) ∧
  (Selected s c →
    ((c.st = .running ∨ c.st = .stopped) → jobOf c ≠ 0 → devBit c (selfOf c) 31 = true → c.pod.damper = .none →
      ∃ t, exec .podJoin s = .next t ∧ Becomes s t c.id fun d =>
        (rootOf c = selfOf c → d.pod.damper = .run ∧ d.pod.epoch = 0) ∧
        (rootOf c ≠ selfOf c → d.pod.joinPending = true ∧ d.pod.damper = .none)) ∧
    ((jobOf c = 0 ∨ devBit c (selfOf c) 31 = false ∨ (c.st ≠ .running ∧ c.st ≠ .stopped)) → ∃ t, exec .podJoin s = .next t ∧
      t.mem = s.mem ∧ ∃ d, t.context? c.id = some d ∧ d = { c with pod := { c.pod with refused := true } }) ∧
    ∃ t d, exec .podLeave s = .next t ∧ t.mem = s.mem ∧ t.context? c.id = some d ∧ d.pod.damper = .none ∧ d.pod.held = [] ∧
      (∀ b ∈ d.batches, b.vdev = selfOf c) ∧ ∀ n ∈ d.nodes, ∀ x ∈ n.bySrc, x.1 = selfOf c) ∧
  (∀ digest counts, s.op = .join c.id digest counts → s.context? c.id = some c → c.pod.joinPending = true →
    (sha256 c.graph.image ≠ digest → ∃ t, exec .joinConfirmation s = .next t ∧ Becomes s t c.id fun d =>
      d = { c with pod := { c.pod with refused := true, joinPending := false } }) ∧
    (sha256 c.graph.image = digest → c.batches = [] → ∃ t d, exec .joinConfirmation s = .next t ∧ t.mem = s.mem ∧
      t.context? c.id = some d ∧ d.pod.damper = .run ∧ d.pod.epoch = 0 ∧ d.pod.joinPending = false)) ∧
  ∀ m, Hears s c m →
    (m.body = .halt → m.epoch = c.pod.epoch → c.pod.damper = .run → c.st = .running → ∃ t, exec .haltMessage s = .next t ∧
      Halts t c 0x14 (fun r => r.info1 = BitVec.ofNat 64 m.src ∧ r.info2 = BitVec.ofNat 64 m.epoch) ∧ t.mem = s.mem ∧
      (∃ d, t.context? c.id = some d ∧ d.pod.damper = .freezing) ∧
      ∀ v, isLive c v → v ≠ selfOf c → Told t v fun b => b = .halt) ∧
    (∀ e, m.body = .cause e → rootOf c = selfOf c → ∃ t d, exec .causeMessage s = .next t ∧ t.context? c.id = some d ∧
      (m.src, e) ∈ d.pod.causes ∧ (∀ x ∈ d.pod.causes, x.1 = m.src → x.2 = e) ∧ t.threads = s.threads) ∧
    (∀ v, m.body = .fence v → v ≠ selfOf c → ∃ t, exec .fenceMessage s = .next t ∧ IsFenced t c.id v ∧ t.mem = s.mem ∧
      .msix 3 ∈ t.outputs ∧ (c.pod.stage = .idle → c.pod.resending = false → t.outputs = s.outputs ++ [.msix 3])) ∧
    (m.body = .fence (selfOf c) → c.st = .running → ∃ t, exec .fenceMessage s = .next t ∧ t.mem = s.mem ∧
      Halts t c 0x14 (fun r => r.info1 = BitVec.ofNat 64 m.src) ∧ ∃ d, t.context? c.id = some d ∧ d.pod.pflags2.getLsbD 0 = true)
/-- R387, R389, R392: a pod resume. The root of a frozen job asks for PREP; a stopped member is READY and confirms; once
all have, they re-send what they hold and are DRAINED; once all are, the root sets the time at which all of them run
again, at least 50 µs on. A member that does not answer in DIGTO is fenced; one released too late runs at once and is
LATE. -/
def Obligations.PodResume : Prop := ∀ s c,
  (Selected s c →
    (rootOf c = selfOf c → c.pod.damper = .frozen → c.st = .stopped → (∃ v, isLive c v ∧ v ≠ selfOf c) →
      ∃ t, exec .podResume s = .next t ∧ (Turns s t c.id fun d => d.pod.damper = .ready ∧ d.pod.stage = .prep ∧
        d.pod.answered = [selfOf c] ∧ d.st = .stopped) ∧ ∀ v, isLive c v → v ≠ selfOf c → Told t v fun b => b = .prep false) ∧
    ((rootOf c ≠ selfOf c ∨ c.pod.damper ≠ .frozen ∨ c.st ≠ .stopped) → ∃ t, exec .podResume s = .next t ∧ Becomes s t c.id fun d =>
      d = { c with pod := { c.pod with refused := true } })) ∧
  (∀ m, Hears s c m →
    (m.src = rootOf c → rootOf c ≠ selfOf c →
      (m.body = .prep false → c.pod.damper = .frozen → c.st = .stopped → ∃ t, exec .prepMessage s = .next t ∧
        (Turns s t c.id fun d => d.pod.damper = .ready) ∧ Told t (rootOf c) fun b => b = .confirm) ∧
      (m.body = .prep true → c.pod.damper = .ready → c.pod.held = [] → ∃ t, exec .prepMessage s = .next t ∧
        (Becomes s t c.id fun d => d.pod.damper = .drained) ∧ Told t (rootOf c) fun b => b = .resent) ∧
      ∀ T, m.body = .release T → c.pod.damper = .drained →
        (s.time.ns ≤ T → ∃ t, exec .releaseMessage s = .next t ∧ Becomes s t c.id fun d => d.pod.damper = .armed ∧ d.pod.releaseAt = T) ∧
        (T < s.time.ns → HeaderOpen s c → ∃ t d, exec .releaseMessage s = .next t ∧ t.context? c.id = some d ∧ d.pod.damper = .run ∧ d.st = .running ∧
          d.pod.epoch = (c.pod.epoch + 1) % 2 ^ 32 ∧ d.pod.pflags2.getLsbD 1 = true ∧ .msix 3 ∈ t.outputs)) ∧
    (rootOf c = selfOf c → m.src ≠ selfOf c →
      let all := ∀ v ∈ c.liveMembers, v = m.src ∨ v ∈ c.pod.answered
      (m.body = .confirm → c.pod.stage = .prep →
        (¬all → ∃ t, exec .confirmMessage s = .next t ∧ Becomes s t c.id fun d => d.pod.stage = .prep ∧
          d.pod.answered = m.src :: c.pod.answered) ∧
        (all → ∃ t, exec .confirmMessage s = .next t ∧ (Becomes s t c.id fun d => d.pod.stage = .resend) ∧
          ∀ v, isLive c v → v ≠ selfOf c → Told t v fun b => b = .prep true)) ∧
      (m.body = .resent → c.pod.stage = .resend →
        (¬all → ∃ t, exec .resentMessage s = .next t ∧ Becomes s t c.id fun d => d.pod.stage = .resend ∧
          d.pod.answered = m.src :: c.pod.answered) ∧
        (all → ∃ t T, exec .resentMessage s = .next t ∧ s.time.ns + 50000 ≤ T ∧
          (Becomes s t c.id fun d => d.pod.stage = .released ∧ d.pod.damper = .armed ∧ d.pod.releaseAt = T) ∧
          ∀ v, isLive c v → v ≠ selfOf c → Told t v fun b => b = .release T)))) ∧
  (s.op = .nat c.id → s.context? c.id = some c →
    (c.pod.damper = .armed → c.pod.releaseAt ≤ s.time.ns → HeaderOpen s c → ∃ t d, exec .releaseTimeReached s = .next t ∧ t.context? c.id = some d ∧
      d.st = .running ∧ d.pod.damper = .run ∧ d.pod.epoch = (c.pod.epoch + 1) % 2 ^ 32 ∧ d.traps = [] ∧ d.stopped = []) ∧
    ((c.pod.stage = .prep ∨ c.pod.stage = .resend) → c.pod.stageStart + (c.pod.podtmo.toNat % 2 ^ 16) * 1800 ≤ s.clock →
      (∃ v, isLive c v ∧ v ≠ selfOf c ∧ v ∉ c.pod.answered) → ∃ t, exec .confirmTimeout s = .next t ∧ .msix 3 ∈ t.outputs ∧
        ∀ v, isLive c v → v ≠ selfOf c → v ∉ c.pod.answered → IsFenced t c.id v))
/-- R381, R384, R386, R389, R393, R396 to R398, R400: traffic of a job. A data message is applied whole and acknowledged,
once, and answered; a request from outside the job is refused and counted; an acknowledged message is freed; a batch of another member waits at the nodes; a chunk that lands gives back its
count; a member that is late or cut off is fenced and its counts are retired; a port that comes up sends what is held;
digests are compared. -/
def Obligations.PodTraffic : Prop := ∀ s c,
  (∀ m, Receives s c m →
    let answers := fun (t : State) (b : DataBody) => .ack m.src m.jobid m.seq ∈ t.outputs ∧ ∃ d, t.context? c.id = some d ∧
      aget 0 d.pod.lastApplied m.src = m.seq ∧ ∃ h ∈ d.pod.held, h.peer = m.src ∧ h.body = b
    ∀ tag holder pa,
    (∀ bs, m.body = .ask tag holder false [{ pa := pa, op := .write (bs.map some), chk := none }] → pa < s.capacity →
      pa + bs.length ≤ s.capacity → s.memOk → ∃ t, exec .ualinkDataMessage s = .next t ∧ Memory.read t.mem pa bs.length = bs ∧
      (∀ a, (a < pa ∨ pa + bs.length ≤ a) → Memory.readByte t.mem a = Memory.readByte s.mem a) ∧ answers t (.done tag [[]])) ∧
    ∀ n, m.body = .ask tag holder false [{ pa := pa, op := .read n, chk := none }] →
      (pa < s.capacity → pa + n ≤ s.capacity → s.poison = [] → ∃ t, exec .ualinkDataMessage s = .next t ∧ t.mem = s.mem ∧
        answers t (.done tag [Memory.read s.mem pa n])) ∧
      (s.capacity ≤ pa → ∃ t, exec .ualinkDataMessage s = .next t ∧ t.mem = s.mem ∧ answers t (.refuse tag 0 .malformed))) ∧
  (∀ m, s.op = .data m → s.jobContext m.jobid = none → ∀ tag holder test accs, m.body = .ask tag holder test accs →
    exec .ualinkDataMessage s = .next { s with mgmt := { s.mgmt with foreign := s.mgmt.foreign + 1 },
                                               outputs := s.outputs ++ [.reject m.src m.jobid m.seq] }) ∧
  (∀ m, s.op = .data m → s.jobContext m.jobid = some c → isLive c m.src →
    (c.pod.damper = .run → 2 ^ 31 ≤ c.dataAhead m →
      exec .ualinkDataMessage s = .next { s with outputs := s.outputs ++ [.ack m.src m.jobid m.seq] }) ∧
    ((c.pod.damper = .freezing ∨ c.pod.damper = .frozen) → exec .ualinkDataMessage s = .next s)) ∧
  (s.context? c.id = some c →
    (∀ peer seq, s.op = .nat3 c.id peer seq → c.pod.damper = .run → c.pod.stage = .idle → ∃ t, exec .dataAcknowledge s = .next t ∧
      Becomes s t c.id fun d => d.pod.held = c.pod.held.filter fun h => !(h.peer == peer && h.seq == seq)) ∧
    (∀ peer k, s.op = .chunk c.id peer k → isLive c peer → c.pod.damper = .run → ∃ t d e, exec .chunkLanding s = .next t ∧
      t.mem = s.mem ∧ t.context? c.id = some d ∧ d.pod.chunksIn = c.pod.chunksIn ++ [(peer, k)] ∧
      Formed c d (0x2000 + e) (e / 8) [] [change k.chloc k.time (-1)]) ∧
    (∀ e v, s.op = .nat2 e v → (s.lateMembers e).find? (fun p => p.2 == v) = some (c.id, v) → ∃ t d,
      exec .collectiveMemberTimeout s = .next t ∧ IsFenced t c.id v ∧ .msix 3 ∈ t.outputs ∧ t.context? c.id = some d ∧
      ∀ n ∈ d.nodes, ∀ x ∈ n.bySrc, x.1 ≠ v) ∧
    (s.op = .nat c.id →
      (c.digestDue = true → (∃ v ∈ c.replicas, v ≠ selfOf c ∧ ∀ x ∈ c.pod.digests, ¬(x.s = c.pod.digNext ∧ x.vdev = v)) →
        ∀ b, s.digestBytes c = (.ok b, s) → ∃ t d, exec .digestCompute s = .next t ∧ t.mem = s.mem ∧
        t.context? c.id = some d ∧ d.pod.digNext = c.pod.digNext + 1 ∧
        ∀ v ∈ c.replicas, v ≠ selfOf c → Told t v fun x => x = .digest c.pod.digNext (sha256 b)) ∧
      ∀ n, s.digestLate c = some n → majority (c.digestsOf n) = none → 2 ≤ (c.digestsOf n).length →
        ∃ t, exec .digestTimeout s = .next t ∧ Halts t c 0x13 (fun r => r.info1 = BitVec.ofNat 64 n) ∧ t.mem = s.mem)) ∧
  (∀ m, Hears s c m →
    (∀ b, m.body = .flue b → b.vdev ≠ selfOf c → (∀ x ∈ c.batches, ¬(x.vdev = b.vdev ∧ x.srcId = b.srcId ∧ x.seq = b.seq)) →
      (∃ n ∈ c.nodes, n.expects b.vdev b.srcId = b.seq) → ∃ t, exec .flueMessage s = .next t ∧ Becomes s t c.id fun d =>
        d.batches = c.batches ++ [{ srcId := b.srcId, vdev := b.vdev, seq := b.seq, incs := b.incs, decs := b.decs, home := 0,
                                    applied := [], peers := [] }]) ∧
    ∀ n h, m.body = .digest n h → (∃ v ∈ c.replicas, v ≠ m.src ∧ ∀ x ∈ c.pod.digests, ¬(x.s = n ∧ x.vdev = v)) →
      ∃ t, exec .digestMessage s = .next t ∧ Becomes s t c.id fun d => d.pod.digests = c.pod.digests ++ [{ s := n, vdev := m.src, hash := h }]) ∧
  (∀ port vs, s.op = .link port vs → (∀ x ∈ s.contexts, x.pod.damper = .none) →
    exec .linkDown s = .next { s with ports := s.ports &&& ~~~(1#18 <<< port) }) ∧
  (∀ port v, s.op = .link port [v] → s.contexts = [c] → c.pod.damper ≠ .none → v ≠ selfOf c → isLive c v →
    ∃ t, exec .linkDown s = .next t ∧ IsFenced t c.id v ∧ t.ports = s.ports &&& ~~~(1#18 <<< port)) ∧
  ∀ port, s.op = .nat port → port < 18 → s.contexts = [c] → c.pod.damper = .run → ∃ t, exec .ualinkPortUp s = .next t ∧
    t.ports = s.ports ||| 1#18 <<< port ∧ (Becomes s t c.id fun d => ∀ h ∈ d.pod.held, h.sent = true) ∧
    t.outputs = s.outputs ++ c.pod.held.map fun h => .data h.peer { src := selfOf c, jobid := jobOf c, seq := h.seq, body := h.body }
/-- R355, R369, R399 to R401, R411 to R414: the time port, the freeze pin and the test access port, power, boot, attestation, the
partition table, and the host's accesses through the two windows. -/
def Obligations.Device : Prop := ∀ s,
  (∀ x : Int, s.op = .int x → s.time.ctl.getLsbD 31 = true → ∃ t, exec .ptpSync s = .next t ∧ t = { s with time := t.time } ∧
    t.time.ns = s.time.ns ∧ t.time.lastSync = s.clock ∧ t.time.offset.toInt = max (-8388608) (min 8388607 x) ∧
    (1000 < x.natAbs → t.time.locked = false) ∧ (x.natAbs ≤ 100 → t.time.good = s.time.good + 1) ∧
    (x.natAbs ≤ 100 → 15 ≤ s.time.good → t.time.locked = true) ∧ (100 < x.natAbs → t.time.good = 0)) ∧
  (s.time.locked = true → s.time.lastSync + 4 * 1800000000 ≤ s.clock → ∃ t, exec .ptpSyncTimeout s = .next t ∧
    t = { s with time := { s.time with locked := false, good := 0 } }) ∧
  (∃ t, exec .ppsInput s = .next t ∧ t = { s with time := t.time } ∧ s.time.ns ≤ t.time.ns ∧ t.time.pps = true ∧ t.time.lastPps = s.clock ∧
    (¬(s.time.ctl.getLsbD 31 = true ∧ s.time.ctl.getLsbD 27 = true) → t.time.ns = s.time.ns)) ∧
  (s.time.pps = true → s.time.lastPps + 2 * 1800000000 ≤ s.clock → exec .ppsInputLoss s =
    .next { s with time := { s.time with pps := false } }) ∧
  (s.time.outSecond < s.time.ns / 1000000000 → exec .ppsOutput s =
    .next { s with time := { s.time with outSecond := s.time.ns / 1000000000 }, outputs := s.outputs ++ [.pps] }) ∧
  exec .freezeAssert s = .next { s with frozen := true, ports := 0 } ∧
  (∀ n, s.op = .nat n → s.frozen = true → exec .freezeRelease s =
    .next { s with frozen := false, time := { s.time with ns := s.time.ns + n, locked := false, good := 0 } }) ∧
  exec .extest s = .next { s with tapIr := 0x00 } ∧
  exec .idcode s = .next { s with tapIr := 0x01, outputs := s.outputs ++ [.tdo 0x1B4CA4B7] } ∧
  exec .samplePreload s = .next { s with tapIr := 0x02 } ∧
  (∀ code, s.op = .nat code → code % 256 ∉ [0x00, 0x01, 0x02, 0x20] → exec .bypass s = .next { s with tapIr := BitVec.ofNat 8 code }) ∧
  (s.fuses.debug = false → exec .scanout s = .next { s with tapIr := 0x20, outputs := s.outputs ++ [.tdo 0] }) ∧
  (s.fuses.debug = true → ∃ t w, exec .scanout s = .next t ∧ t = { s with tapIr := 0x20, free := t.free, outputs := s.outputs ++ [.tdo w] } ∧
    (s.frozen = true → w ∈ s.scanWords)) ∧
  exec .powerThrottle s = .next { s with mgmt := { s.mgmt with thr := true } } ∧
  exec .throttleCauseClears s = .next { s with mgmt := { s.mgmt with thr := false } } ∧
  (∀ die, s.op = .nat die → ∃ t, exec .thermalTrip s = .next t ∧ t.mgmt.trip = true ∧ t.mgmt.bootstat = 0 ∧ t.contexts = [] ∧
    t.threads = [] ∧ t.fuses = s.fuses ∧ t.flash = s.flash) ∧
  (let code := s.mgmt.bootstat
    let boots := fun (x : Mgmt) => exec .boot s = .next { s with mgmt := x }
    let slot := if code = 2 then 0 else 2 ^ 23
    (code ∈ [0, 1, 4, 5, 6] → boots { s.mgmt with bootstat := code + 1 }) ∧
    (code = 2 ∨ code = 3 → ∀ b, s.image slot = some b →
      boots { s.mgmt with bootstat := 4, imgVersion := leAt b 4 4, imgHash := sha256 b }) ∧
    (code = 2 ∨ code = 3 → s.image slot = none → boots { s.mgmt with bootstat := if code = 2 then 3 else 7 }) ∧
    (code = 7 → boots { s.mgmt with bootstat := if s.mgmt.imgHash = [] then 0xE else 0xF }) ∧
    (8 ≤ code → exec .boot s = .next s)) ∧
  (∀ v : W64, s.op = .word v → v.getLsbD 0 = true → exec .attgo s = .next { s with mgmt := { s.mgmt with attgo := true } }) ∧
  (s.mgmt.attgo = true → ∃ t, exec .attestationComplete s = .next t ∧ t = { s with mgmt := t.mgmt, free := t.free } ∧
    t.mgmt.attgo = false ∧ t.mgmt.attbuf.length = 4096) ∧
  (∀ i b, s.op = .natBytes i b → b.length = 64 → i < 8 → s.mgmt.parts.length = 8 →
    (s.partRefused i b = true → exec .partitionEntryWrite s = .next { s with mgmt := { s.mgmt with pstat := true } }) ∧
    (s.partRefused i b = false → ∃ t, exec .partitionEntryWrite s = .next t ∧ t = { s with mgmt := t.mgmt, contexts := t.contexts, cores := t.cores, groups := t.groups } ∧
      (∀ k < 8, t.mgmt.parts.getD k [] = if k = i then b else s.mgmt.parts.getD k []) ∧
      ∀ c, s.context? c.id = some c → c.desc.part ≠ i → t.context? c.id = some c)) ∧
  (∀ off v, s.op = .natWord off v →
    (regAt off = none → exec .registerWrite s = .next s) ∧
    (s.mgmt.bootstat = 0xF → off = 0x18 → ∃ t, exec .registerWrite s = .next t ∧ t.mgmt.winbase = v ∧ t.readReg 0x18 = v ∧ t.mem = s.mem ∧
      t.threads = s.threads) ∧
    (s.mgmt.bootstat = 0xF → off = 0x10000 → ∃ t, exec .registerWrite s = .next t ∧ t.mgmt.ctxarg = v ∧ t.mem = s.mem ∧
      t.threads = s.threads) ∧
    (s.mgmt.bootstat = 0xF → off = 0x10008 → v.toNat / 2 ^ 28 % 16 = 2 →
      exec .registerWrite s = exec .resume { s with op := .nat (v.toNat % 2 ^ 16) })) ∧
  ∀ wr off data, s.op = .window wr off data → s.mgmt.bootstat = 0xF → data ≠ [] → off + data.length ≤ 2 ^ 28 → s.pins = [] →
    let pa := (s.mgmt.winbase.toNat + off) % 2 ^ 64
    (s.capacity < pa + data.length → exec .windowAccess s = .fault .badPhysicalAddress) ∧
    (pa + data.length ≤ s.capacity → wr = false → s.poison = [] → exec .windowAccess s =
      .next { s with outputs := s.outputs ++ [.host (Memory.read s.mem pa data.length)] }) ∧
    (pa + data.length ≤ s.capacity → wr = true → s.memOk → ∃ t, exec .windowAccess s = .next t ∧
      t = { s with mem := t.mem, poison := t.poison } ∧ Memory.read t.mem pa data.length = data ∧
      ∀ a, (a < pa ∨ pa + data.length ≤ a) → Memory.readByte t.mem a = Memory.readByte s.mem a)
end

