-- ==== Sys2Proof/Laws/Memory.lean ====
section
/-! SUPPORT. Sparse maps and memory: a read after a write, the writes that leave an address alone, and the canonical form
kept by every operation. -/

namespace Sys2Proof.Machine

variable {α : Type} [DecidableEq α]

/-- No listed key of a canonical map is at or below the bound. -/
def Sparse.above (n : Nat) (m : Sparse α) : Prop := ∀ p ∈ m, n < p.1

omit [DecidableEq α] in
theorem sget_above (d : α) {m : Sparse α} {k : Nat} (h : Sparse.above k m) : sget d m k = d := by
  cases m with
  | nil => rfl
  | cons p m =>
    have : k < p.1 := h p (by simp)
    simp [sget, Nat.ne_of_lt this, this]

theorem swf_cons (d : α) (i : Nat) (v : α) (m : Sparse α) :
    swf d ((i, v) :: m) = true ↔ v ≠ d ∧ Sparse.above i m ∧ swf d m = true := by
  induction m generalizing i v with
  | nil => simp [swf, Sparse.above]
  | cons p m ih =>
    obtain ⟨j, u⟩ := p
    simp only [swf, Bool.and_eq_true, decide_eq_true_eq, Sparse.above, List.mem_cons, forall_eq_or_imp]
    constructor
    · rintro ⟨⟨h1, h2⟩, h3⟩
      exact ⟨h2, ⟨h1, fun q hq => Nat.lt_trans h1 (((ih j u).1 h3).2.1 q hq)⟩, h3⟩
    · rintro ⟨h2, ⟨h1, _⟩, h3⟩
      exact ⟨⟨h1, h2⟩, h3⟩

/-- A read of a sparse map after a write. -/
theorem sget_sput (d : α) (m : Sparse α) (h : swf d m = true) (k j : Nat) (v : α) :
    sget d (sput d m k v) j = if j = k then v else sget d m j := by
  induction m with
  | nil => by_cases hv : v = d <;> by_cases hj : j = k <;> simp [sput, sget, hv, hj]
  | cons p m ih =>
    obtain ⟨i, u⟩ := p
    obtain ⟨hu, hab, hm⟩ := (swf_cons d i u m).1 h
    have ih := ih hm
    by_cases h1 : k < i
    · by_cases hv : v = d
      · simp only [sput, h1, if_true, hv]
        by_cases hj : j = k
        · subst hj; simp [sget, Nat.ne_of_lt h1, h1]
        · simp [hj]
      · simp only [sput, h1, if_true, hv, if_false]
        by_cases hj : j = k
        · simp [sget, hj]
        · by_cases hlt : j < k
          · have : j < i := Nat.lt_trans hlt h1
            simp [sget, hj, hlt, this, Nat.ne_of_lt this]
          · simp [sget, hj, hlt]
    · by_cases h2 : k = i
      · subst h2
        by_cases hv : v = d
        · simp only [sput, Nat.lt_irrefl, if_false, beq_self_eq_true, if_true, hv]
          by_cases hj : j = k
          · subst hj; simp [sget_above d hab]
          · by_cases hlt : j < k
            · have : Sparse.above j m := fun q hq => Nat.lt_trans hlt (hab q hq)
              simp [sget, hj, hlt, sget_above d this]
            · simp [sget, hj, hlt]
        · by_cases hj : j = k
          · simp [sput, sget, hv, hj]
          · simp [sput, sget, hv, hj]
      · have h2' : (k == i) = false := by simp [h2]
        simp only [sput, h1, if_false, h2', Bool.false_eq_true]
        by_cases hji : j = i
        · subst hji; simp [sget, Ne.symm h2]
        · by_cases hlt : j < i
          · have : j ≠ k := by omega
            simp [sget, hji, hlt, this]
          · simp [sget, hji, hlt, ih]

theorem Sparse.above_sput (d : α) {m : Sparse α} {n k : Nat} (v : α) (h : Sparse.above n m) (hk : n < k) :
    Sparse.above n (sput d m k v) := by
  induction m with
  | nil => by_cases hv : v = d <;> simp [sput, hv, Sparse.above, hk]
  | cons p m ih =>
    obtain ⟨i, u⟩ := p
    have hi : n < i := h (i, u) (by simp)
    have hm : Sparse.above n m := fun q hq => h q (by simp [hq])
    simp only [sput]
    split
    · split <;> intro q hq <;> simp at hq <;> rcases hq with rfl | hq
      · exact hi
      · exact hm q hq
      · exact hk
      · rcases hq with rfl | hq
        · exact hi
        · exact hm q hq
    · split
      · split
        · exact hm
        · intro q hq; simp at hq; rcases hq with rfl | hq
          · exact hk
          · exact hm q hq
      · intro q hq; simp at hq; rcases hq with rfl | hq
        · exact hi
        · exact ih hm q hq

/-- A write keeps the canonical form. -/
theorem swf_sput (d : α) (m : Sparse α) (h : swf d m = true) (k : Nat) (v : α) : swf d (sput d m k v) = true := by
  induction m with
  | nil => by_cases hv : v = d <;> simp [sput, swf, hv]
  | cons p m ih =>
    obtain ⟨i, u⟩ := p
    obtain ⟨hu, hab, hm⟩ := (swf_cons d i u m).1 h
    simp only [sput]
    split
    · next h1 =>
      split
      · exact h
      · next hv =>
        refine (swf_cons d k v _).2 ⟨hv, ?_, h⟩
        intro q hq; simp at hq; rcases hq with rfl | hq
        · exact h1
        · exact Nat.lt_trans h1 (hab q hq)
    · next h1 =>
      split
      · next h2 =>
        have h2 : k = i := by simpa using h2
        subst h2
        split
        · exact hm
        · next hv => exact (swf_cons d k v m).2 ⟨hv, hab, hm⟩
      · next h2 =>
        have h2 : k ≠ i := by simpa using h2
        exact (swf_cons d i u _).2 ⟨hu, Sparse.above_sput d v hab (by omega), ih hm⟩

/-! Bytes of memory. -/

/-- A byte read after a byte is written. -/
theorem Memory.readByte_writeByte (m : List Host.Cell) (h : Memory.wf m = true) (a b : Nat) (v : Byte) :
    Memory.readByte (Memory.writeByte m a v) b = if b = a then v else Memory.readByte m b :=
  sget_sput Memory.unlisted m h a b v
/-- Writing a byte keeps the canonical form. -/
theorem Memory.wf_writeByte (m : List Host.Cell) (h : Memory.wf m = true) (a : Nat) (v : Byte) :
    Memory.wf (Memory.writeByte m a v) = true := swf_sput Memory.unlisted m h a v
/-- Writing bytes keeps the canonical form. -/
theorem Memory.wf_write (bs : Bytes) : ∀ (m : List Host.Cell) (a : Nat), Memory.wf m = true →
    Memory.wf (Memory.write m a bs) = true := by
  induction bs with
  | nil => intro m a h; exact h
  | cons b bs ih => intro m a h; exact ih _ _ (Memory.wf_writeByte m h a b)
/-- A byte-masked write keeps the canonical form. -/
theorem Memory.wf_writeMasked (bs : List (Option Byte)) : ∀ (m : List Host.Cell) (a : Nat), Memory.wf m = true →
    Memory.wf (Memory.writeMasked m a bs) = true := by
  induction bs with
  | nil => intro m a h; exact h
  | cons b bs ih =>
    intro m a h
    cases b with
    | none => exact ih _ _ h
    | some v => exact ih _ _ (Memory.wf_writeByte m h a v)
/-- A byte read after a byte-masked write. -/
theorem Memory.readByte_writeMasked (bs : List (Option Byte)) : ∀ (m : List Host.Cell) (a b : Nat), Memory.wf m = true →
    Memory.readByte (Memory.writeMasked m a bs) b =
      if a ≤ b then ((bs[b - a]?).join).getD (Memory.readByte m b) else Memory.readByte m b := by
  induction bs with
  | nil => intro m a b h; simp [Memory.writeMasked]
  | cons x bs ih =>
    intro m a b h
    cases x with
    | none =>
      simp only [Memory.writeMasked]
      rw [ih m (a + 1) b h]
      by_cases h1 : a + 1 ≤ b
      · have : b - a = (b - (a + 1)) + 1 := by omega
        simp [h1, this, show a ≤ b by omega]
      · by_cases h2 : a = b
        · subst h2; simp [h1]
        · simp [h1, show ¬ a ≤ b by omega]
    | some v =>
      simp only [Memory.writeMasked]
      rw [ih _ (a + 1) b (Memory.wf_writeByte m h a v), Memory.readByte_writeByte m h]
      by_cases h1 : a + 1 ≤ b
      · have e : b - a = (b - (a + 1)) + 1 := by omega
        have : b ≠ a := by omega
        simp [h1, e, show a ≤ b by omega, this]
      · by_cases h2 : a = b
        · subst h2; simp [h1]
        · simp [h1, show ¬ a ≤ b by omega, show b ≠ a by omega]
/-- A byte read after a write of bytes. -/
theorem Memory.readByte_write (bs : Bytes) : ∀ (m : List Host.Cell) (a b : Nat), Memory.wf m = true →
    Memory.readByte (Memory.write m a bs) b =
      if a ≤ b then (bs[b - a]?).getD (Memory.readByte m b) else Memory.readByte m b := by
  induction bs with
  | nil => intro m a b h; simp [Memory.write]
  | cons v bs ih =>
    intro m a b h
    simp only [Memory.write]
    rw [ih _ (a + 1) b (Memory.wf_writeByte m h a v), Memory.readByte_writeByte m h]
    by_cases h1 : a + 1 ≤ b
    · have e : b - a = (b - (a + 1)) + 1 := by omega
      have : b ≠ a := by omega
      simp [h1, e, show a ≤ b by omega, this]
    · by_cases h2 : a = b
      · subst h2; simp [h1]
      · simp [h1, show ¬ a ≤ b by omega, show b ≠ a by omega]

end Sys2Proof.Machine
end

