-- ==== Sys2Proof/Laws/State.lean ====
section
/-! SUPPORT. What each replacement and each update of Machine/Ops.lean leaves of the state: one lemma per field, and the
field that it does change. -/

namespace Sys2Proof.Machine

/-! setThreads. -/
@[simp] theorem State.setThreads_clock (s : State) (x : List Thread) : (s.setThreads x).clock = s.clock := rfl
@[simp] theorem State.setThreads_threads (s : State) (x : List Thread) : (s.setThreads x).threads = x := rfl
@[simp] theorem State.setThreads_groups (s : State) (x : List Thread) : (s.setThreads x).groups = s.groups := rfl
@[simp] theorem State.setThreads_cohorts (s : State) (x : List Thread) : (s.setThreads x).cohorts = s.cohorts := rfl
@[simp] theorem State.setThreads_launches (s : State) (x : List Thread) : (s.setThreads x).launches = s.launches := rfl
@[simp] theorem State.setThreads_contexts (s : State) (x : List Thread) : (s.setThreads x).contexts = s.contexts := rfl
@[simp] theorem State.setThreads_cores (s : State) (x : List Thread) : (s.setThreads x).cores = s.cores := rfl
@[simp] theorem State.setThreads_engines (s : State) (x : List Thread) : (s.setThreads x).engines = s.engines := rfl
@[simp] theorem State.setThreads_holds (s : State) (x : List Thread) : (s.setThreads x).holds = s.holds := rfl
@[simp] theorem State.setThreads_mem (s : State) (x : List Thread) : (s.setThreads x).mem = s.mem := rfl
@[simp] theorem State.setThreads_poison (s : State) (x : List Thread) : (s.setThreads x).poison = s.poison := rfl
@[simp] theorem State.setThreads_shadow (s : State) (x : List Thread) : (s.setThreads x).shadow = s.shadow := rfl
@[simp] theorem State.setThreads_pins (s : State) (x : List Thread) : (s.setThreads x).pins = s.pins := rfl
@[simp] theorem State.setThreads_tlb (s : State) (x : List Thread) : (s.setThreads x).tlb = s.tlb := rfl
@[simp] theorem State.setThreads_walks (s : State) (x : List Thread) : (s.setThreads x).walks = s.walks := rfl
@[simp] theorem State.setThreads_reqs (s : State) (x : List Thread) : (s.setThreads x).reqs = s.reqs := rfl
@[simp] theorem State.setThreads_rets (s : State) (x : List Thread) : (s.setThreads x).rets = s.rets := rfl
@[simp] theorem State.setThreads_units (s : State) (x : List Thread) : (s.setThreads x).units = s.units := rfl
@[simp] theorem State.setThreads_mgmt (s : State) (x : List Thread) : (s.setThreads x).mgmt = s.mgmt := rfl
@[simp] theorem State.setThreads_time (s : State) (x : List Thread) : (s.setThreads x).time = s.time := rfl
@[simp] theorem State.setThreads_fuses (s : State) (x : List Thread) : (s.setThreads x).fuses = s.fuses := rfl
@[simp] theorem State.setThreads_ring (s : State) (x : List Thread) : (s.setThreads x).ring = s.ring := rfl
@[simp] theorem State.setThreads_bells (s : State) (x : List Thread) : (s.setThreads x).bells = s.bells := rfl
@[simp] theorem State.setThreads_flash (s : State) (x : List Thread) : (s.setThreads x).flash = s.flash := rfl
@[simp] theorem State.setThreads_ports (s : State) (x : List Thread) : (s.setThreads x).ports = s.ports := rfl
@[simp] theorem State.setThreads_frozen (s : State) (x : List Thread) : (s.setThreads x).frozen = s.frozen := rfl
@[simp] theorem State.setThreads_tapIr (s : State) (x : List Thread) : (s.setThreads x).tapIr = s.tapIr := rfl
@[simp] theorem State.setThreads_cur (s : State) (x : List Thread) : (s.setThreads x).cur = s.cur := rfl
@[simp] theorem State.setThreads_op (s : State) (x : List Thread) : (s.setThreads x).op = s.op := rfl
@[simp] theorem State.setThreads_inputs (s : State) (x : List Thread) : (s.setThreads x).inputs = s.inputs := rfl
@[simp] theorem State.setThreads_outputs (s : State) (x : List Thread) : (s.setThreads x).outputs = s.outputs := rfl
@[simp] theorem State.setThreads_nextId (s : State) (x : List Thread) : (s.setThreads x).nextId = s.nextId := rfl
@[simp] theorem State.setThreads_free (s : State) (x : List Thread) : (s.setThreads x).free = s.free := rfl
@[simp] theorem State.setThreads_moved (s : State) (x : List Thread) : (s.setThreads x).moved = s.moved := rfl

/-! setGroups. -/
@[simp] theorem State.setGroups_clock (s : State) (x : List Group) : (s.setGroups x).clock = s.clock := rfl
@[simp] theorem State.setGroups_threads (s : State) (x : List Group) : (s.setGroups x).threads = s.threads := rfl
@[simp] theorem State.setGroups_groups (s : State) (x : List Group) : (s.setGroups x).groups = x := rfl
@[simp] theorem State.setGroups_cohorts (s : State) (x : List Group) : (s.setGroups x).cohorts = s.cohorts := rfl
@[simp] theorem State.setGroups_launches (s : State) (x : List Group) : (s.setGroups x).launches = s.launches := rfl
@[simp] theorem State.setGroups_contexts (s : State) (x : List Group) : (s.setGroups x).contexts = s.contexts := rfl
@[simp] theorem State.setGroups_cores (s : State) (x : List Group) : (s.setGroups x).cores = s.cores := rfl
@[simp] theorem State.setGroups_engines (s : State) (x : List Group) : (s.setGroups x).engines = s.engines := rfl
@[simp] theorem State.setGroups_holds (s : State) (x : List Group) : (s.setGroups x).holds = s.holds := rfl
@[simp] theorem State.setGroups_mem (s : State) (x : List Group) : (s.setGroups x).mem = s.mem := rfl
@[simp] theorem State.setGroups_poison (s : State) (x : List Group) : (s.setGroups x).poison = s.poison := rfl
@[simp] theorem State.setGroups_shadow (s : State) (x : List Group) : (s.setGroups x).shadow = s.shadow := rfl
@[simp] theorem State.setGroups_pins (s : State) (x : List Group) : (s.setGroups x).pins = s.pins := rfl
@[simp] theorem State.setGroups_tlb (s : State) (x : List Group) : (s.setGroups x).tlb = s.tlb := rfl
@[simp] theorem State.setGroups_walks (s : State) (x : List Group) : (s.setGroups x).walks = s.walks := rfl
@[simp] theorem State.setGroups_reqs (s : State) (x : List Group) : (s.setGroups x).reqs = s.reqs := rfl
@[simp] theorem State.setGroups_rets (s : State) (x : List Group) : (s.setGroups x).rets = s.rets := rfl
@[simp] theorem State.setGroups_units (s : State) (x : List Group) : (s.setGroups x).units = s.units := rfl
@[simp] theorem State.setGroups_mgmt (s : State) (x : List Group) : (s.setGroups x).mgmt = s.mgmt := rfl
@[simp] theorem State.setGroups_time (s : State) (x : List Group) : (s.setGroups x).time = s.time := rfl
@[simp] theorem State.setGroups_fuses (s : State) (x : List Group) : (s.setGroups x).fuses = s.fuses := rfl
@[simp] theorem State.setGroups_ring (s : State) (x : List Group) : (s.setGroups x).ring = s.ring := rfl
@[simp] theorem State.setGroups_bells (s : State) (x : List Group) : (s.setGroups x).bells = s.bells := rfl
@[simp] theorem State.setGroups_flash (s : State) (x : List Group) : (s.setGroups x).flash = s.flash := rfl
@[simp] theorem State.setGroups_ports (s : State) (x : List Group) : (s.setGroups x).ports = s.ports := rfl
@[simp] theorem State.setGroups_frozen (s : State) (x : List Group) : (s.setGroups x).frozen = s.frozen := rfl
@[simp] theorem State.setGroups_tapIr (s : State) (x : List Group) : (s.setGroups x).tapIr = s.tapIr := rfl
@[simp] theorem State.setGroups_cur (s : State) (x : List Group) : (s.setGroups x).cur = s.cur := rfl
@[simp] theorem State.setGroups_op (s : State) (x : List Group) : (s.setGroups x).op = s.op := rfl
@[simp] theorem State.setGroups_inputs (s : State) (x : List Group) : (s.setGroups x).inputs = s.inputs := rfl
@[simp] theorem State.setGroups_outputs (s : State) (x : List Group) : (s.setGroups x).outputs = s.outputs := rfl
@[simp] theorem State.setGroups_nextId (s : State) (x : List Group) : (s.setGroups x).nextId = s.nextId := rfl
@[simp] theorem State.setGroups_free (s : State) (x : List Group) : (s.setGroups x).free = s.free := rfl
@[simp] theorem State.setGroups_moved (s : State) (x : List Group) : (s.setGroups x).moved = s.moved := rfl

/-! setCohorts. -/
@[simp] theorem State.setCohorts_clock (s : State) (x : List Cohort) : (s.setCohorts x).clock = s.clock := rfl
@[simp] theorem State.setCohorts_threads (s : State) (x : List Cohort) : (s.setCohorts x).threads = s.threads := rfl
@[simp] theorem State.setCohorts_groups (s : State) (x : List Cohort) : (s.setCohorts x).groups = s.groups := rfl
@[simp] theorem State.setCohorts_cohorts (s : State) (x : List Cohort) : (s.setCohorts x).cohorts = x := rfl
@[simp] theorem State.setCohorts_launches (s : State) (x : List Cohort) : (s.setCohorts x).launches = s.launches := rfl
@[simp] theorem State.setCohorts_contexts (s : State) (x : List Cohort) : (s.setCohorts x).contexts = s.contexts := rfl
@[simp] theorem State.setCohorts_cores (s : State) (x : List Cohort) : (s.setCohorts x).cores = s.cores := rfl
@[simp] theorem State.setCohorts_engines (s : State) (x : List Cohort) : (s.setCohorts x).engines = s.engines := rfl
@[simp] theorem State.setCohorts_holds (s : State) (x : List Cohort) : (s.setCohorts x).holds = s.holds := rfl
@[simp] theorem State.setCohorts_mem (s : State) (x : List Cohort) : (s.setCohorts x).mem = s.mem := rfl
@[simp] theorem State.setCohorts_poison (s : State) (x : List Cohort) : (s.setCohorts x).poison = s.poison := rfl
@[simp] theorem State.setCohorts_shadow (s : State) (x : List Cohort) : (s.setCohorts x).shadow = s.shadow := rfl
@[simp] theorem State.setCohorts_pins (s : State) (x : List Cohort) : (s.setCohorts x).pins = s.pins := rfl
@[simp] theorem State.setCohorts_tlb (s : State) (x : List Cohort) : (s.setCohorts x).tlb = s.tlb := rfl
@[simp] theorem State.setCohorts_walks (s : State) (x : List Cohort) : (s.setCohorts x).walks = s.walks := rfl
@[simp] theorem State.setCohorts_reqs (s : State) (x : List Cohort) : (s.setCohorts x).reqs = s.reqs := rfl
@[simp] theorem State.setCohorts_rets (s : State) (x : List Cohort) : (s.setCohorts x).rets = s.rets := rfl
@[simp] theorem State.setCohorts_units (s : State) (x : List Cohort) : (s.setCohorts x).units = s.units := rfl
@[simp] theorem State.setCohorts_mgmt (s : State) (x : List Cohort) : (s.setCohorts x).mgmt = s.mgmt := rfl
@[simp] theorem State.setCohorts_time (s : State) (x : List Cohort) : (s.setCohorts x).time = s.time := rfl
@[simp] theorem State.setCohorts_fuses (s : State) (x : List Cohort) : (s.setCohorts x).fuses = s.fuses := rfl
@[simp] theorem State.setCohorts_ring (s : State) (x : List Cohort) : (s.setCohorts x).ring = s.ring := rfl
@[simp] theorem State.setCohorts_bells (s : State) (x : List Cohort) : (s.setCohorts x).bells = s.bells := rfl
@[simp] theorem State.setCohorts_flash (s : State) (x : List Cohort) : (s.setCohorts x).flash = s.flash := rfl
@[simp] theorem State.setCohorts_ports (s : State) (x : List Cohort) : (s.setCohorts x).ports = s.ports := rfl
@[simp] theorem State.setCohorts_frozen (s : State) (x : List Cohort) : (s.setCohorts x).frozen = s.frozen := rfl
@[simp] theorem State.setCohorts_tapIr (s : State) (x : List Cohort) : (s.setCohorts x).tapIr = s.tapIr := rfl
@[simp] theorem State.setCohorts_cur (s : State) (x : List Cohort) : (s.setCohorts x).cur = s.cur := rfl
@[simp] theorem State.setCohorts_op (s : State) (x : List Cohort) : (s.setCohorts x).op = s.op := rfl
@[simp] theorem State.setCohorts_inputs (s : State) (x : List Cohort) : (s.setCohorts x).inputs = s.inputs := rfl
@[simp] theorem State.setCohorts_outputs (s : State) (x : List Cohort) : (s.setCohorts x).outputs = s.outputs := rfl
@[simp] theorem State.setCohorts_nextId (s : State) (x : List Cohort) : (s.setCohorts x).nextId = s.nextId := rfl
@[simp] theorem State.setCohorts_free (s : State) (x : List Cohort) : (s.setCohorts x).free = s.free := rfl
@[simp] theorem State.setCohorts_moved (s : State) (x : List Cohort) : (s.setCohorts x).moved = s.moved := rfl

/-! setLaunches. -/
@[simp] theorem State.setLaunches_clock (s : State) (x : List Launch) : (s.setLaunches x).clock = s.clock := rfl
@[simp] theorem State.setLaunches_threads (s : State) (x : List Launch) : (s.setLaunches x).threads = s.threads := rfl
@[simp] theorem State.setLaunches_groups (s : State) (x : List Launch) : (s.setLaunches x).groups = s.groups := rfl
@[simp] theorem State.setLaunches_cohorts (s : State) (x : List Launch) : (s.setLaunches x).cohorts = s.cohorts := rfl
@[simp] theorem State.setLaunches_launches (s : State) (x : List Launch) : (s.setLaunches x).launches = x := rfl
@[simp] theorem State.setLaunches_contexts (s : State) (x : List Launch) : (s.setLaunches x).contexts = s.contexts := rfl
@[simp] theorem State.setLaunches_cores (s : State) (x : List Launch) : (s.setLaunches x).cores = s.cores := rfl
@[simp] theorem State.setLaunches_engines (s : State) (x : List Launch) : (s.setLaunches x).engines = s.engines := rfl
@[simp] theorem State.setLaunches_holds (s : State) (x : List Launch) : (s.setLaunches x).holds = s.holds := rfl
@[simp] theorem State.setLaunches_mem (s : State) (x : List Launch) : (s.setLaunches x).mem = s.mem := rfl
@[simp] theorem State.setLaunches_poison (s : State) (x : List Launch) : (s.setLaunches x).poison = s.poison := rfl
@[simp] theorem State.setLaunches_shadow (s : State) (x : List Launch) : (s.setLaunches x).shadow = s.shadow := rfl
@[simp] theorem State.setLaunches_pins (s : State) (x : List Launch) : (s.setLaunches x).pins = s.pins := rfl
@[simp] theorem State.setLaunches_tlb (s : State) (x : List Launch) : (s.setLaunches x).tlb = s.tlb := rfl
@[simp] theorem State.setLaunches_walks (s : State) (x : List Launch) : (s.setLaunches x).walks = s.walks := rfl
@[simp] theorem State.setLaunches_reqs (s : State) (x : List Launch) : (s.setLaunches x).reqs = s.reqs := rfl
@[simp] theorem State.setLaunches_rets (s : State) (x : List Launch) : (s.setLaunches x).rets = s.rets := rfl
@[simp] theorem State.setLaunches_units (s : State) (x : List Launch) : (s.setLaunches x).units = s.units := rfl
@[simp] theorem State.setLaunches_mgmt (s : State) (x : List Launch) : (s.setLaunches x).mgmt = s.mgmt := rfl
@[simp] theorem State.setLaunches_time (s : State) (x : List Launch) : (s.setLaunches x).time = s.time := rfl
@[simp] theorem State.setLaunches_fuses (s : State) (x : List Launch) : (s.setLaunches x).fuses = s.fuses := rfl
@[simp] theorem State.setLaunches_ring (s : State) (x : List Launch) : (s.setLaunches x).ring = s.ring := rfl
@[simp] theorem State.setLaunches_bells (s : State) (x : List Launch) : (s.setLaunches x).bells = s.bells := rfl
@[simp] theorem State.setLaunches_flash (s : State) (x : List Launch) : (s.setLaunches x).flash = s.flash := rfl
@[simp] theorem State.setLaunches_ports (s : State) (x : List Launch) : (s.setLaunches x).ports = s.ports := rfl
@[simp] theorem State.setLaunches_frozen (s : State) (x : List Launch) : (s.setLaunches x).frozen = s.frozen := rfl
@[simp] theorem State.setLaunches_tapIr (s : State) (x : List Launch) : (s.setLaunches x).tapIr = s.tapIr := rfl
@[simp] theorem State.setLaunches_cur (s : State) (x : List Launch) : (s.setLaunches x).cur = s.cur := rfl
@[simp] theorem State.setLaunches_op (s : State) (x : List Launch) : (s.setLaunches x).op = s.op := rfl
@[simp] theorem State.setLaunches_inputs (s : State) (x : List Launch) : (s.setLaunches x).inputs = s.inputs := rfl
@[simp] theorem State.setLaunches_outputs (s : State) (x : List Launch) : (s.setLaunches x).outputs = s.outputs := rfl
@[simp] theorem State.setLaunches_nextId (s : State) (x : List Launch) : (s.setLaunches x).nextId = s.nextId := rfl
@[simp] theorem State.setLaunches_free (s : State) (x : List Launch) : (s.setLaunches x).free = s.free := rfl
@[simp] theorem State.setLaunches_moved (s : State) (x : List Launch) : (s.setLaunches x).moved = s.moved := rfl

/-! setContexts. -/
@[simp] theorem State.setContexts_clock (s : State) (x : List Context) : (s.setContexts x).clock = s.clock := rfl
@[simp] theorem State.setContexts_threads (s : State) (x : List Context) : (s.setContexts x).threads = s.threads := rfl
@[simp] theorem State.setContexts_groups (s : State) (x : List Context) : (s.setContexts x).groups = s.groups := rfl
@[simp] theorem State.setContexts_cohorts (s : State) (x : List Context) : (s.setContexts x).cohorts = s.cohorts := rfl
@[simp] theorem State.setContexts_launches (s : State) (x : List Context) : (s.setContexts x).launches = s.launches := rfl
@[simp] theorem State.setContexts_contexts (s : State) (x : List Context) : (s.setContexts x).contexts = x := rfl
@[simp] theorem State.setContexts_cores (s : State) (x : List Context) : (s.setContexts x).cores = s.cores := rfl
@[simp] theorem State.setContexts_engines (s : State) (x : List Context) : (s.setContexts x).engines = s.engines := rfl
@[simp] theorem State.setContexts_holds (s : State) (x : List Context) : (s.setContexts x).holds = s.holds := rfl
@[simp] theorem State.setContexts_mem (s : State) (x : List Context) : (s.setContexts x).mem = s.mem := rfl
@[simp] theorem State.setContexts_poison (s : State) (x : List Context) : (s.setContexts x).poison = s.poison := rfl
@[simp] theorem State.setContexts_shadow (s : State) (x : List Context) : (s.setContexts x).shadow = s.shadow := rfl
@[simp] theorem State.setContexts_pins (s : State) (x : List Context) : (s.setContexts x).pins = s.pins := rfl
@[simp] theorem State.setContexts_tlb (s : State) (x : List Context) : (s.setContexts x).tlb = s.tlb := rfl
@[simp] theorem State.setContexts_walks (s : State) (x : List Context) : (s.setContexts x).walks = s.walks := rfl
@[simp] theorem State.setContexts_reqs (s : State) (x : List Context) : (s.setContexts x).reqs = s.reqs := rfl
@[simp] theorem State.setContexts_rets (s : State) (x : List Context) : (s.setContexts x).rets = s.rets := rfl
@[simp] theorem State.setContexts_units (s : State) (x : List Context) : (s.setContexts x).units = s.units := rfl
@[simp] theorem State.setContexts_mgmt (s : State) (x : List Context) : (s.setContexts x).mgmt = s.mgmt := rfl
@[simp] theorem State.setContexts_time (s : State) (x : List Context) : (s.setContexts x).time = s.time := rfl
@[simp] theorem State.setContexts_fuses (s : State) (x : List Context) : (s.setContexts x).fuses = s.fuses := rfl
@[simp] theorem State.setContexts_ring (s : State) (x : List Context) : (s.setContexts x).ring = s.ring := rfl
@[simp] theorem State.setContexts_bells (s : State) (x : List Context) : (s.setContexts x).bells = s.bells := rfl
@[simp] theorem State.setContexts_flash (s : State) (x : List Context) : (s.setContexts x).flash = s.flash := rfl
@[simp] theorem State.setContexts_ports (s : State) (x : List Context) : (s.setContexts x).ports = s.ports := rfl
@[simp] theorem State.setContexts_frozen (s : State) (x : List Context) : (s.setContexts x).frozen = s.frozen := rfl
@[simp] theorem State.setContexts_tapIr (s : State) (x : List Context) : (s.setContexts x).tapIr = s.tapIr := rfl
@[simp] theorem State.setContexts_cur (s : State) (x : List Context) : (s.setContexts x).cur = s.cur := rfl
@[simp] theorem State.setContexts_op (s : State) (x : List Context) : (s.setContexts x).op = s.op := rfl
@[simp] theorem State.setContexts_inputs (s : State) (x : List Context) : (s.setContexts x).inputs = s.inputs := rfl
@[simp] theorem State.setContexts_outputs (s : State) (x : List Context) : (s.setContexts x).outputs = s.outputs := rfl
@[simp] theorem State.setContexts_nextId (s : State) (x : List Context) : (s.setContexts x).nextId = s.nextId := rfl
@[simp] theorem State.setContexts_free (s : State) (x : List Context) : (s.setContexts x).free = s.free := rfl
@[simp] theorem State.setContexts_moved (s : State) (x : List Context) : (s.setContexts x).moved = s.moved := rfl

/-! setCores. -/
@[simp] theorem State.setCores_clock (s : State) (x : List (Nat × Core)) : (s.setCores x).clock = s.clock := rfl
@[simp] theorem State.setCores_threads (s : State) (x : List (Nat × Core)) : (s.setCores x).threads = s.threads := rfl
@[simp] theorem State.setCores_groups (s : State) (x : List (Nat × Core)) : (s.setCores x).groups = s.groups := rfl
@[simp] theorem State.setCores_cohorts (s : State) (x : List (Nat × Core)) : (s.setCores x).cohorts = s.cohorts := rfl
@[simp] theorem State.setCores_launches (s : State) (x : List (Nat × Core)) : (s.setCores x).launches = s.launches := rfl
@[simp] theorem State.setCores_contexts (s : State) (x : List (Nat × Core)) : (s.setCores x).contexts = s.contexts := rfl
@[simp] theorem State.setCores_cores (s : State) (x : List (Nat × Core)) : (s.setCores x).cores = x := rfl
@[simp] theorem State.setCores_engines (s : State) (x : List (Nat × Core)) : (s.setCores x).engines = s.engines := rfl
@[simp] theorem State.setCores_holds (s : State) (x : List (Nat × Core)) : (s.setCores x).holds = s.holds := rfl
@[simp] theorem State.setCores_mem (s : State) (x : List (Nat × Core)) : (s.setCores x).mem = s.mem := rfl
@[simp] theorem State.setCores_poison (s : State) (x : List (Nat × Core)) : (s.setCores x).poison = s.poison := rfl
@[simp] theorem State.setCores_shadow (s : State) (x : List (Nat × Core)) : (s.setCores x).shadow = s.shadow := rfl
@[simp] theorem State.setCores_pins (s : State) (x : List (Nat × Core)) : (s.setCores x).pins = s.pins := rfl
@[simp] theorem State.setCores_tlb (s : State) (x : List (Nat × Core)) : (s.setCores x).tlb = s.tlb := rfl
@[simp] theorem State.setCores_walks (s : State) (x : List (Nat × Core)) : (s.setCores x).walks = s.walks := rfl
@[simp] theorem State.setCores_reqs (s : State) (x : List (Nat × Core)) : (s.setCores x).reqs = s.reqs := rfl
@[simp] theorem State.setCores_rets (s : State) (x : List (Nat × Core)) : (s.setCores x).rets = s.rets := rfl
@[simp] theorem State.setCores_units (s : State) (x : List (Nat × Core)) : (s.setCores x).units = s.units := rfl
@[simp] theorem State.setCores_mgmt (s : State) (x : List (Nat × Core)) : (s.setCores x).mgmt = s.mgmt := rfl
@[simp] theorem State.setCores_time (s : State) (x : List (Nat × Core)) : (s.setCores x).time = s.time := rfl
@[simp] theorem State.setCores_fuses (s : State) (x : List (Nat × Core)) : (s.setCores x).fuses = s.fuses := rfl
@[simp] theorem State.setCores_ring (s : State) (x : List (Nat × Core)) : (s.setCores x).ring = s.ring := rfl
@[simp] theorem State.setCores_bells (s : State) (x : List (Nat × Core)) : (s.setCores x).bells = s.bells := rfl
@[simp] theorem State.setCores_flash (s : State) (x : List (Nat × Core)) : (s.setCores x).flash = s.flash := rfl
@[simp] theorem State.setCores_ports (s : State) (x : List (Nat × Core)) : (s.setCores x).ports = s.ports := rfl
@[simp] theorem State.setCores_frozen (s : State) (x : List (Nat × Core)) : (s.setCores x).frozen = s.frozen := rfl
@[simp] theorem State.setCores_tapIr (s : State) (x : List (Nat × Core)) : (s.setCores x).tapIr = s.tapIr := rfl
@[simp] theorem State.setCores_cur (s : State) (x : List (Nat × Core)) : (s.setCores x).cur = s.cur := rfl
@[simp] theorem State.setCores_op (s : State) (x : List (Nat × Core)) : (s.setCores x).op = s.op := rfl
@[simp] theorem State.setCores_inputs (s : State) (x : List (Nat × Core)) : (s.setCores x).inputs = s.inputs := rfl
@[simp] theorem State.setCores_outputs (s : State) (x : List (Nat × Core)) : (s.setCores x).outputs = s.outputs := rfl
@[simp] theorem State.setCores_nextId (s : State) (x : List (Nat × Core)) : (s.setCores x).nextId = s.nextId := rfl
@[simp] theorem State.setCores_free (s : State) (x : List (Nat × Core)) : (s.setCores x).free = s.free := rfl
@[simp] theorem State.setCores_moved (s : State) (x : List (Nat × Core)) : (s.setCores x).moved = s.moved := rfl

/-! setEngines. -/
@[simp] theorem State.setEngines_clock (s : State) (x : List (Nat × Engine)) : (s.setEngines x).clock = s.clock := rfl
@[simp] theorem State.setEngines_threads (s : State) (x : List (Nat × Engine)) : (s.setEngines x).threads = s.threads := rfl
@[simp] theorem State.setEngines_groups (s : State) (x : List (Nat × Engine)) : (s.setEngines x).groups = s.groups := rfl
@[simp] theorem State.setEngines_cohorts (s : State) (x : List (Nat × Engine)) : (s.setEngines x).cohorts = s.cohorts := rfl
@[simp] theorem State.setEngines_launches (s : State) (x : List (Nat × Engine)) : (s.setEngines x).launches = s.launches := rfl
@[simp] theorem State.setEngines_contexts (s : State) (x : List (Nat × Engine)) : (s.setEngines x).contexts = s.contexts := rfl
@[simp] theorem State.setEngines_cores (s : State) (x : List (Nat × Engine)) : (s.setEngines x).cores = s.cores := rfl
@[simp] theorem State.setEngines_engines (s : State) (x : List (Nat × Engine)) : (s.setEngines x).engines = x := rfl
@[simp] theorem State.setEngines_holds (s : State) (x : List (Nat × Engine)) : (s.setEngines x).holds = s.holds := rfl
@[simp] theorem State.setEngines_mem (s : State) (x : List (Nat × Engine)) : (s.setEngines x).mem = s.mem := rfl
@[simp] theorem State.setEngines_poison (s : State) (x : List (Nat × Engine)) : (s.setEngines x).poison = s.poison := rfl
@[simp] theorem State.setEngines_shadow (s : State) (x : List (Nat × Engine)) : (s.setEngines x).shadow = s.shadow := rfl
@[simp] theorem State.setEngines_pins (s : State) (x : List (Nat × Engine)) : (s.setEngines x).pins = s.pins := rfl
@[simp] theorem State.setEngines_tlb (s : State) (x : List (Nat × Engine)) : (s.setEngines x).tlb = s.tlb := rfl
@[simp] theorem State.setEngines_walks (s : State) (x : List (Nat × Engine)) : (s.setEngines x).walks = s.walks := rfl
@[simp] theorem State.setEngines_reqs (s : State) (x : List (Nat × Engine)) : (s.setEngines x).reqs = s.reqs := rfl
@[simp] theorem State.setEngines_rets (s : State) (x : List (Nat × Engine)) : (s.setEngines x).rets = s.rets := rfl
@[simp] theorem State.setEngines_units (s : State) (x : List (Nat × Engine)) : (s.setEngines x).units = s.units := rfl
@[simp] theorem State.setEngines_mgmt (s : State) (x : List (Nat × Engine)) : (s.setEngines x).mgmt = s.mgmt := rfl
@[simp] theorem State.setEngines_time (s : State) (x : List (Nat × Engine)) : (s.setEngines x).time = s.time := rfl
@[simp] theorem State.setEngines_fuses (s : State) (x : List (Nat × Engine)) : (s.setEngines x).fuses = s.fuses := rfl
@[simp] theorem State.setEngines_ring (s : State) (x : List (Nat × Engine)) : (s.setEngines x).ring = s.ring := rfl
@[simp] theorem State.setEngines_bells (s : State) (x : List (Nat × Engine)) : (s.setEngines x).bells = s.bells := rfl
@[simp] theorem State.setEngines_flash (s : State) (x : List (Nat × Engine)) : (s.setEngines x).flash = s.flash := rfl
@[simp] theorem State.setEngines_ports (s : State) (x : List (Nat × Engine)) : (s.setEngines x).ports = s.ports := rfl
@[simp] theorem State.setEngines_frozen (s : State) (x : List (Nat × Engine)) : (s.setEngines x).frozen = s.frozen := rfl
@[simp] theorem State.setEngines_tapIr (s : State) (x : List (Nat × Engine)) : (s.setEngines x).tapIr = s.tapIr := rfl
@[simp] theorem State.setEngines_cur (s : State) (x : List (Nat × Engine)) : (s.setEngines x).cur = s.cur := rfl
@[simp] theorem State.setEngines_op (s : State) (x : List (Nat × Engine)) : (s.setEngines x).op = s.op := rfl
@[simp] theorem State.setEngines_inputs (s : State) (x : List (Nat × Engine)) : (s.setEngines x).inputs = s.inputs := rfl
@[simp] theorem State.setEngines_outputs (s : State) (x : List (Nat × Engine)) : (s.setEngines x).outputs = s.outputs := rfl
@[simp] theorem State.setEngines_nextId (s : State) (x : List (Nat × Engine)) : (s.setEngines x).nextId = s.nextId := rfl
@[simp] theorem State.setEngines_free (s : State) (x : List (Nat × Engine)) : (s.setEngines x).free = s.free := rfl
@[simp] theorem State.setEngines_moved (s : State) (x : List (Nat × Engine)) : (s.setEngines x).moved = s.moved := rfl

/-! setMem. -/
@[simp] theorem State.setMem_clock (s : State) (x : List Host.Cell) : (s.setMem x).clock = s.clock := rfl
@[simp] theorem State.setMem_threads (s : State) (x : List Host.Cell) : (s.setMem x).threads = s.threads := rfl
@[simp] theorem State.setMem_groups (s : State) (x : List Host.Cell) : (s.setMem x).groups = s.groups := rfl
@[simp] theorem State.setMem_cohorts (s : State) (x : List Host.Cell) : (s.setMem x).cohorts = s.cohorts := rfl
@[simp] theorem State.setMem_launches (s : State) (x : List Host.Cell) : (s.setMem x).launches = s.launches := rfl
@[simp] theorem State.setMem_contexts (s : State) (x : List Host.Cell) : (s.setMem x).contexts = s.contexts := rfl
@[simp] theorem State.setMem_cores (s : State) (x : List Host.Cell) : (s.setMem x).cores = s.cores := rfl
@[simp] theorem State.setMem_engines (s : State) (x : List Host.Cell) : (s.setMem x).engines = s.engines := rfl
@[simp] theorem State.setMem_holds (s : State) (x : List Host.Cell) : (s.setMem x).holds = s.holds := rfl
@[simp] theorem State.setMem_mem (s : State) (x : List Host.Cell) : (s.setMem x).mem = x := rfl
@[simp] theorem State.setMem_poison (s : State) (x : List Host.Cell) : (s.setMem x).poison = s.poison := rfl
@[simp] theorem State.setMem_shadow (s : State) (x : List Host.Cell) : (s.setMem x).shadow = s.shadow := rfl
@[simp] theorem State.setMem_pins (s : State) (x : List Host.Cell) : (s.setMem x).pins = s.pins := rfl
@[simp] theorem State.setMem_tlb (s : State) (x : List Host.Cell) : (s.setMem x).tlb = s.tlb := rfl
@[simp] theorem State.setMem_walks (s : State) (x : List Host.Cell) : (s.setMem x).walks = s.walks := rfl
@[simp] theorem State.setMem_reqs (s : State) (x : List Host.Cell) : (s.setMem x).reqs = s.reqs := rfl
@[simp] theorem State.setMem_rets (s : State) (x : List Host.Cell) : (s.setMem x).rets = s.rets := rfl
@[simp] theorem State.setMem_units (s : State) (x : List Host.Cell) : (s.setMem x).units = s.units := rfl
@[simp] theorem State.setMem_mgmt (s : State) (x : List Host.Cell) : (s.setMem x).mgmt = s.mgmt := rfl
@[simp] theorem State.setMem_time (s : State) (x : List Host.Cell) : (s.setMem x).time = s.time := rfl
@[simp] theorem State.setMem_fuses (s : State) (x : List Host.Cell) : (s.setMem x).fuses = s.fuses := rfl
@[simp] theorem State.setMem_ring (s : State) (x : List Host.Cell) : (s.setMem x).ring = s.ring := rfl
@[simp] theorem State.setMem_bells (s : State) (x : List Host.Cell) : (s.setMem x).bells = s.bells := rfl
@[simp] theorem State.setMem_flash (s : State) (x : List Host.Cell) : (s.setMem x).flash = s.flash := rfl
@[simp] theorem State.setMem_ports (s : State) (x : List Host.Cell) : (s.setMem x).ports = s.ports := rfl
@[simp] theorem State.setMem_frozen (s : State) (x : List Host.Cell) : (s.setMem x).frozen = s.frozen := rfl
@[simp] theorem State.setMem_tapIr (s : State) (x : List Host.Cell) : (s.setMem x).tapIr = s.tapIr := rfl
@[simp] theorem State.setMem_cur (s : State) (x : List Host.Cell) : (s.setMem x).cur = s.cur := rfl
@[simp] theorem State.setMem_op (s : State) (x : List Host.Cell) : (s.setMem x).op = s.op := rfl
@[simp] theorem State.setMem_inputs (s : State) (x : List Host.Cell) : (s.setMem x).inputs = s.inputs := rfl
@[simp] theorem State.setMem_outputs (s : State) (x : List Host.Cell) : (s.setMem x).outputs = s.outputs := rfl
@[simp] theorem State.setMem_nextId (s : State) (x : List Host.Cell) : (s.setMem x).nextId = s.nextId := rfl
@[simp] theorem State.setMem_free (s : State) (x : List Host.Cell) : (s.setMem x).free = s.free := rfl
@[simp] theorem State.setMem_moved (s : State) (x : List Host.Cell) : (s.setMem x).moved = s.moved := rfl

/-! setRets. -/
@[simp] theorem State.setRets_clock (s : State) (x : List Ret) : (s.setRets x).clock = s.clock := rfl
@[simp] theorem State.setRets_threads (s : State) (x : List Ret) : (s.setRets x).threads = s.threads := rfl
@[simp] theorem State.setRets_groups (s : State) (x : List Ret) : (s.setRets x).groups = s.groups := rfl
@[simp] theorem State.setRets_cohorts (s : State) (x : List Ret) : (s.setRets x).cohorts = s.cohorts := rfl
@[simp] theorem State.setRets_launches (s : State) (x : List Ret) : (s.setRets x).launches = s.launches := rfl
@[simp] theorem State.setRets_contexts (s : State) (x : List Ret) : (s.setRets x).contexts = s.contexts := rfl
@[simp] theorem State.setRets_cores (s : State) (x : List Ret) : (s.setRets x).cores = s.cores := rfl
@[simp] theorem State.setRets_engines (s : State) (x : List Ret) : (s.setRets x).engines = s.engines := rfl
@[simp] theorem State.setRets_holds (s : State) (x : List Ret) : (s.setRets x).holds = s.holds := rfl
@[simp] theorem State.setRets_mem (s : State) (x : List Ret) : (s.setRets x).mem = s.mem := rfl
@[simp] theorem State.setRets_poison (s : State) (x : List Ret) : (s.setRets x).poison = s.poison := rfl
@[simp] theorem State.setRets_shadow (s : State) (x : List Ret) : (s.setRets x).shadow = s.shadow := rfl
@[simp] theorem State.setRets_pins (s : State) (x : List Ret) : (s.setRets x).pins = s.pins := rfl
@[simp] theorem State.setRets_tlb (s : State) (x : List Ret) : (s.setRets x).tlb = s.tlb := rfl
@[simp] theorem State.setRets_walks (s : State) (x : List Ret) : (s.setRets x).walks = s.walks := rfl
@[simp] theorem State.setRets_reqs (s : State) (x : List Ret) : (s.setRets x).reqs = s.reqs := rfl
@[simp] theorem State.setRets_rets (s : State) (x : List Ret) : (s.setRets x).rets = x := rfl
@[simp] theorem State.setRets_units (s : State) (x : List Ret) : (s.setRets x).units = s.units := rfl
@[simp] theorem State.setRets_mgmt (s : State) (x : List Ret) : (s.setRets x).mgmt = s.mgmt := rfl
@[simp] theorem State.setRets_time (s : State) (x : List Ret) : (s.setRets x).time = s.time := rfl
@[simp] theorem State.setRets_fuses (s : State) (x : List Ret) : (s.setRets x).fuses = s.fuses := rfl
@[simp] theorem State.setRets_ring (s : State) (x : List Ret) : (s.setRets x).ring = s.ring := rfl
@[simp] theorem State.setRets_bells (s : State) (x : List Ret) : (s.setRets x).bells = s.bells := rfl
@[simp] theorem State.setRets_flash (s : State) (x : List Ret) : (s.setRets x).flash = s.flash := rfl
@[simp] theorem State.setRets_ports (s : State) (x : List Ret) : (s.setRets x).ports = s.ports := rfl
@[simp] theorem State.setRets_frozen (s : State) (x : List Ret) : (s.setRets x).frozen = s.frozen := rfl
@[simp] theorem State.setRets_tapIr (s : State) (x : List Ret) : (s.setRets x).tapIr = s.tapIr := rfl
@[simp] theorem State.setRets_cur (s : State) (x : List Ret) : (s.setRets x).cur = s.cur := rfl
@[simp] theorem State.setRets_op (s : State) (x : List Ret) : (s.setRets x).op = s.op := rfl
@[simp] theorem State.setRets_inputs (s : State) (x : List Ret) : (s.setRets x).inputs = s.inputs := rfl
@[simp] theorem State.setRets_outputs (s : State) (x : List Ret) : (s.setRets x).outputs = s.outputs := rfl
@[simp] theorem State.setRets_nextId (s : State) (x : List Ret) : (s.setRets x).nextId = s.nextId := rfl
@[simp] theorem State.setRets_free (s : State) (x : List Ret) : (s.setRets x).free = s.free := rfl
@[simp] theorem State.setRets_moved (s : State) (x : List Ret) : (s.setRets x).moved = s.moved := rfl

/-! setReqs. -/
@[simp] theorem State.setReqs_clock (s : State) (x : List Req) : (s.setReqs x).clock = s.clock := rfl
@[simp] theorem State.setReqs_threads (s : State) (x : List Req) : (s.setReqs x).threads = s.threads := rfl
@[simp] theorem State.setReqs_groups (s : State) (x : List Req) : (s.setReqs x).groups = s.groups := rfl
@[simp] theorem State.setReqs_cohorts (s : State) (x : List Req) : (s.setReqs x).cohorts = s.cohorts := rfl
@[simp] theorem State.setReqs_launches (s : State) (x : List Req) : (s.setReqs x).launches = s.launches := rfl
@[simp] theorem State.setReqs_contexts (s : State) (x : List Req) : (s.setReqs x).contexts = s.contexts := rfl
@[simp] theorem State.setReqs_cores (s : State) (x : List Req) : (s.setReqs x).cores = s.cores := rfl
@[simp] theorem State.setReqs_engines (s : State) (x : List Req) : (s.setReqs x).engines = s.engines := rfl
@[simp] theorem State.setReqs_holds (s : State) (x : List Req) : (s.setReqs x).holds = s.holds := rfl
@[simp] theorem State.setReqs_mem (s : State) (x : List Req) : (s.setReqs x).mem = s.mem := rfl
@[simp] theorem State.setReqs_poison (s : State) (x : List Req) : (s.setReqs x).poison = s.poison := rfl
@[simp] theorem State.setReqs_shadow (s : State) (x : List Req) : (s.setReqs x).shadow = s.shadow := rfl
@[simp] theorem State.setReqs_pins (s : State) (x : List Req) : (s.setReqs x).pins = s.pins := rfl
@[simp] theorem State.setReqs_tlb (s : State) (x : List Req) : (s.setReqs x).tlb = s.tlb := rfl
@[simp] theorem State.setReqs_walks (s : State) (x : List Req) : (s.setReqs x).walks = s.walks := rfl
@[simp] theorem State.setReqs_reqs (s : State) (x : List Req) : (s.setReqs x).reqs = x := rfl
@[simp] theorem State.setReqs_rets (s : State) (x : List Req) : (s.setReqs x).rets = s.rets := rfl
@[simp] theorem State.setReqs_units (s : State) (x : List Req) : (s.setReqs x).units = s.units := rfl
@[simp] theorem State.setReqs_mgmt (s : State) (x : List Req) : (s.setReqs x).mgmt = s.mgmt := rfl
@[simp] theorem State.setReqs_time (s : State) (x : List Req) : (s.setReqs x).time = s.time := rfl
@[simp] theorem State.setReqs_fuses (s : State) (x : List Req) : (s.setReqs x).fuses = s.fuses := rfl
@[simp] theorem State.setReqs_ring (s : State) (x : List Req) : (s.setReqs x).ring = s.ring := rfl
@[simp] theorem State.setReqs_bells (s : State) (x : List Req) : (s.setReqs x).bells = s.bells := rfl
@[simp] theorem State.setReqs_flash (s : State) (x : List Req) : (s.setReqs x).flash = s.flash := rfl
@[simp] theorem State.setReqs_ports (s : State) (x : List Req) : (s.setReqs x).ports = s.ports := rfl
@[simp] theorem State.setReqs_frozen (s : State) (x : List Req) : (s.setReqs x).frozen = s.frozen := rfl
@[simp] theorem State.setReqs_tapIr (s : State) (x : List Req) : (s.setReqs x).tapIr = s.tapIr := rfl
@[simp] theorem State.setReqs_cur (s : State) (x : List Req) : (s.setReqs x).cur = s.cur := rfl
@[simp] theorem State.setReqs_op (s : State) (x : List Req) : (s.setReqs x).op = s.op := rfl
@[simp] theorem State.setReqs_inputs (s : State) (x : List Req) : (s.setReqs x).inputs = s.inputs := rfl
@[simp] theorem State.setReqs_outputs (s : State) (x : List Req) : (s.setReqs x).outputs = s.outputs := rfl
@[simp] theorem State.setReqs_nextId (s : State) (x : List Req) : (s.setReqs x).nextId = s.nextId := rfl
@[simp] theorem State.setReqs_free (s : State) (x : List Req) : (s.setReqs x).free = s.free := rfl
@[simp] theorem State.setReqs_moved (s : State) (x : List Req) : (s.setReqs x).moved = s.moved := rfl

/-! setMgmt. -/
@[simp] theorem State.setMgmt_clock (s : State) (x : Mgmt) : (s.setMgmt x).clock = s.clock := rfl
@[simp] theorem State.setMgmt_threads (s : State) (x : Mgmt) : (s.setMgmt x).threads = s.threads := rfl
@[simp] theorem State.setMgmt_groups (s : State) (x : Mgmt) : (s.setMgmt x).groups = s.groups := rfl
@[simp] theorem State.setMgmt_cohorts (s : State) (x : Mgmt) : (s.setMgmt x).cohorts = s.cohorts := rfl
@[simp] theorem State.setMgmt_launches (s : State) (x : Mgmt) : (s.setMgmt x).launches = s.launches := rfl
@[simp] theorem State.setMgmt_contexts (s : State) (x : Mgmt) : (s.setMgmt x).contexts = s.contexts := rfl
@[simp] theorem State.setMgmt_cores (s : State) (x : Mgmt) : (s.setMgmt x).cores = s.cores := rfl
@[simp] theorem State.setMgmt_engines (s : State) (x : Mgmt) : (s.setMgmt x).engines = s.engines := rfl
@[simp] theorem State.setMgmt_holds (s : State) (x : Mgmt) : (s.setMgmt x).holds = s.holds := rfl
@[simp] theorem State.setMgmt_mem (s : State) (x : Mgmt) : (s.setMgmt x).mem = s.mem := rfl
@[simp] theorem State.setMgmt_poison (s : State) (x : Mgmt) : (s.setMgmt x).poison = s.poison := rfl
@[simp] theorem State.setMgmt_shadow (s : State) (x : Mgmt) : (s.setMgmt x).shadow = s.shadow := rfl
@[simp] theorem State.setMgmt_pins (s : State) (x : Mgmt) : (s.setMgmt x).pins = s.pins := rfl
@[simp] theorem State.setMgmt_tlb (s : State) (x : Mgmt) : (s.setMgmt x).tlb = s.tlb := rfl
@[simp] theorem State.setMgmt_walks (s : State) (x : Mgmt) : (s.setMgmt x).walks = s.walks := rfl
@[simp] theorem State.setMgmt_reqs (s : State) (x : Mgmt) : (s.setMgmt x).reqs = s.reqs := rfl
@[simp] theorem State.setMgmt_rets (s : State) (x : Mgmt) : (s.setMgmt x).rets = s.rets := rfl
@[simp] theorem State.setMgmt_units (s : State) (x : Mgmt) : (s.setMgmt x).units = s.units := rfl
@[simp] theorem State.setMgmt_mgmt (s : State) (x : Mgmt) : (s.setMgmt x).mgmt = x := rfl
@[simp] theorem State.setMgmt_time (s : State) (x : Mgmt) : (s.setMgmt x).time = s.time := rfl
@[simp] theorem State.setMgmt_fuses (s : State) (x : Mgmt) : (s.setMgmt x).fuses = s.fuses := rfl
@[simp] theorem State.setMgmt_ring (s : State) (x : Mgmt) : (s.setMgmt x).ring = s.ring := rfl
@[simp] theorem State.setMgmt_bells (s : State) (x : Mgmt) : (s.setMgmt x).bells = s.bells := rfl
@[simp] theorem State.setMgmt_flash (s : State) (x : Mgmt) : (s.setMgmt x).flash = s.flash := rfl
@[simp] theorem State.setMgmt_ports (s : State) (x : Mgmt) : (s.setMgmt x).ports = s.ports := rfl
@[simp] theorem State.setMgmt_frozen (s : State) (x : Mgmt) : (s.setMgmt x).frozen = s.frozen := rfl
@[simp] theorem State.setMgmt_tapIr (s : State) (x : Mgmt) : (s.setMgmt x).tapIr = s.tapIr := rfl
@[simp] theorem State.setMgmt_cur (s : State) (x : Mgmt) : (s.setMgmt x).cur = s.cur := rfl
@[simp] theorem State.setMgmt_op (s : State) (x : Mgmt) : (s.setMgmt x).op = s.op := rfl
@[simp] theorem State.setMgmt_inputs (s : State) (x : Mgmt) : (s.setMgmt x).inputs = s.inputs := rfl
@[simp] theorem State.setMgmt_outputs (s : State) (x : Mgmt) : (s.setMgmt x).outputs = s.outputs := rfl
@[simp] theorem State.setMgmt_nextId (s : State) (x : Mgmt) : (s.setMgmt x).nextId = s.nextId := rfl
@[simp] theorem State.setMgmt_free (s : State) (x : Mgmt) : (s.setMgmt x).free = s.free := rfl
@[simp] theorem State.setMgmt_moved (s : State) (x : Mgmt) : (s.setMgmt x).moved = s.moved := rfl

/-! putThread. -/
@[simp] theorem State.putThread_clock (s : State) (t : Thread) : (s.putThread t).clock = s.clock := rfl
@[simp] theorem State.putThread_groups (s : State) (t : Thread) : (s.putThread t).groups = s.groups := rfl
@[simp] theorem State.putThread_cohorts (s : State) (t : Thread) : (s.putThread t).cohorts = s.cohorts := rfl
@[simp] theorem State.putThread_launches (s : State) (t : Thread) : (s.putThread t).launches = s.launches := rfl
@[simp] theorem State.putThread_contexts (s : State) (t : Thread) : (s.putThread t).contexts = s.contexts := rfl
@[simp] theorem State.putThread_cores (s : State) (t : Thread) : (s.putThread t).cores = s.cores := rfl
@[simp] theorem State.putThread_engines (s : State) (t : Thread) : (s.putThread t).engines = s.engines := rfl
@[simp] theorem State.putThread_holds (s : State) (t : Thread) : (s.putThread t).holds = s.holds := rfl
@[simp] theorem State.putThread_mem (s : State) (t : Thread) : (s.putThread t).mem = s.mem := rfl
@[simp] theorem State.putThread_poison (s : State) (t : Thread) : (s.putThread t).poison = s.poison := rfl
@[simp] theorem State.putThread_shadow (s : State) (t : Thread) : (s.putThread t).shadow = s.shadow := rfl
@[simp] theorem State.putThread_pins (s : State) (t : Thread) : (s.putThread t).pins = s.pins := rfl
@[simp] theorem State.putThread_tlb (s : State) (t : Thread) : (s.putThread t).tlb = s.tlb := rfl
@[simp] theorem State.putThread_walks (s : State) (t : Thread) : (s.putThread t).walks = s.walks := rfl
@[simp] theorem State.putThread_reqs (s : State) (t : Thread) : (s.putThread t).reqs = s.reqs := rfl
@[simp] theorem State.putThread_rets (s : State) (t : Thread) : (s.putThread t).rets = s.rets := rfl
@[simp] theorem State.putThread_units (s : State) (t : Thread) : (s.putThread t).units = s.units := rfl
@[simp] theorem State.putThread_mgmt (s : State) (t : Thread) : (s.putThread t).mgmt = s.mgmt := rfl
@[simp] theorem State.putThread_time (s : State) (t : Thread) : (s.putThread t).time = s.time := rfl
@[simp] theorem State.putThread_fuses (s : State) (t : Thread) : (s.putThread t).fuses = s.fuses := rfl
@[simp] theorem State.putThread_ring (s : State) (t : Thread) : (s.putThread t).ring = s.ring := rfl
@[simp] theorem State.putThread_bells (s : State) (t : Thread) : (s.putThread t).bells = s.bells := rfl
@[simp] theorem State.putThread_flash (s : State) (t : Thread) : (s.putThread t).flash = s.flash := rfl
@[simp] theorem State.putThread_ports (s : State) (t : Thread) : (s.putThread t).ports = s.ports := rfl
@[simp] theorem State.putThread_frozen (s : State) (t : Thread) : (s.putThread t).frozen = s.frozen := rfl
@[simp] theorem State.putThread_tapIr (s : State) (t : Thread) : (s.putThread t).tapIr = s.tapIr := rfl
@[simp] theorem State.putThread_cur (s : State) (t : Thread) : (s.putThread t).cur = s.cur := rfl
@[simp] theorem State.putThread_op (s : State) (t : Thread) : (s.putThread t).op = s.op := rfl
@[simp] theorem State.putThread_inputs (s : State) (t : Thread) : (s.putThread t).inputs = s.inputs := rfl
@[simp] theorem State.putThread_outputs (s : State) (t : Thread) : (s.putThread t).outputs = s.outputs := rfl
@[simp] theorem State.putThread_nextId (s : State) (t : Thread) : (s.putThread t).nextId = s.nextId := rfl
@[simp] theorem State.putThread_free (s : State) (t : Thread) : (s.putThread t).free = s.free := rfl
@[simp] theorem State.putThread_moved (s : State) (t : Thread) : (s.putThread t).moved = s.moved := rfl

/-! updThread. -/
@[simp] theorem State.updThread_clock (s : State) (k : ThKey) (f : Thread → Thread) : (s.updThread k f).clock = s.clock := rfl
@[simp] theorem State.updThread_groups (s : State) (k : ThKey) (f : Thread → Thread) : (s.updThread k f).groups = s.groups := rfl
@[simp] theorem State.updThread_cohorts (s : State) (k : ThKey) (f : Thread → Thread) : (s.updThread k f).cohorts = s.cohorts := rfl
@[simp] theorem State.updThread_launches (s : State) (k : ThKey) (f : Thread → Thread) : (s.updThread k f).launches = s.launches := rfl
@[simp] theorem State.updThread_contexts (s : State) (k : ThKey) (f : Thread → Thread) : (s.updThread k f).contexts = s.contexts := rfl
@[simp] theorem State.updThread_cores (s : State) (k : ThKey) (f : Thread → Thread) : (s.updThread k f).cores = s.cores := rfl
@[simp] theorem State.updThread_engines (s : State) (k : ThKey) (f : Thread → Thread) : (s.updThread k f).engines = s.engines := rfl
@[simp] theorem State.updThread_holds (s : State) (k : ThKey) (f : Thread → Thread) : (s.updThread k f).holds = s.holds := rfl
@[simp] theorem State.updThread_mem (s : State) (k : ThKey) (f : Thread → Thread) : (s.updThread k f).mem = s.mem := rfl
@[simp] theorem State.updThread_poison (s : State) (k : ThKey) (f : Thread → Thread) : (s.updThread k f).poison = s.poison := rfl
@[simp] theorem State.updThread_shadow (s : State) (k : ThKey) (f : Thread → Thread) : (s.updThread k f).shadow = s.shadow := rfl
@[simp] theorem State.updThread_pins (s : State) (k : ThKey) (f : Thread → Thread) : (s.updThread k f).pins = s.pins := rfl
@[simp] theorem State.updThread_tlb (s : State) (k : ThKey) (f : Thread → Thread) : (s.updThread k f).tlb = s.tlb := rfl
@[simp] theorem State.updThread_walks (s : State) (k : ThKey) (f : Thread → Thread) : (s.updThread k f).walks = s.walks := rfl
@[simp] theorem State.updThread_reqs (s : State) (k : ThKey) (f : Thread → Thread) : (s.updThread k f).reqs = s.reqs := rfl
@[simp] theorem State.updThread_rets (s : State) (k : ThKey) (f : Thread → Thread) : (s.updThread k f).rets = s.rets := rfl
@[simp] theorem State.updThread_units (s : State) (k : ThKey) (f : Thread → Thread) : (s.updThread k f).units = s.units := rfl
@[simp] theorem State.updThread_mgmt (s : State) (k : ThKey) (f : Thread → Thread) : (s.updThread k f).mgmt = s.mgmt := rfl
@[simp] theorem State.updThread_time (s : State) (k : ThKey) (f : Thread → Thread) : (s.updThread k f).time = s.time := rfl
@[simp] theorem State.updThread_fuses (s : State) (k : ThKey) (f : Thread → Thread) : (s.updThread k f).fuses = s.fuses := rfl
@[simp] theorem State.updThread_ring (s : State) (k : ThKey) (f : Thread → Thread) : (s.updThread k f).ring = s.ring := rfl
@[simp] theorem State.updThread_bells (s : State) (k : ThKey) (f : Thread → Thread) : (s.updThread k f).bells = s.bells := rfl
@[simp] theorem State.updThread_flash (s : State) (k : ThKey) (f : Thread → Thread) : (s.updThread k f).flash = s.flash := rfl
@[simp] theorem State.updThread_ports (s : State) (k : ThKey) (f : Thread → Thread) : (s.updThread k f).ports = s.ports := rfl
@[simp] theorem State.updThread_frozen (s : State) (k : ThKey) (f : Thread → Thread) : (s.updThread k f).frozen = s.frozen := rfl
@[simp] theorem State.updThread_tapIr (s : State) (k : ThKey) (f : Thread → Thread) : (s.updThread k f).tapIr = s.tapIr := rfl
@[simp] theorem State.updThread_cur (s : State) (k : ThKey) (f : Thread → Thread) : (s.updThread k f).cur = s.cur := rfl
@[simp] theorem State.updThread_op (s : State) (k : ThKey) (f : Thread → Thread) : (s.updThread k f).op = s.op := rfl
@[simp] theorem State.updThread_inputs (s : State) (k : ThKey) (f : Thread → Thread) : (s.updThread k f).inputs = s.inputs := rfl
@[simp] theorem State.updThread_outputs (s : State) (k : ThKey) (f : Thread → Thread) : (s.updThread k f).outputs = s.outputs := rfl
@[simp] theorem State.updThread_nextId (s : State) (k : ThKey) (f : Thread → Thread) : (s.updThread k f).nextId = s.nextId := rfl
@[simp] theorem State.updThread_free (s : State) (k : ThKey) (f : Thread → Thread) : (s.updThread k f).free = s.free := rfl
@[simp] theorem State.updThread_moved (s : State) (k : ThKey) (f : Thread → Thread) : (s.updThread k f).moved = s.moved := rfl

/-! updGroup. -/
@[simp] theorem State.updGroup_clock (s : State) (k : GrpKey) (f : Group → Group) : (s.updGroup k f).clock = s.clock := rfl
@[simp] theorem State.updGroup_threads (s : State) (k : GrpKey) (f : Group → Group) : (s.updGroup k f).threads = s.threads := rfl
@[simp] theorem State.updGroup_cohorts (s : State) (k : GrpKey) (f : Group → Group) : (s.updGroup k f).cohorts = s.cohorts := rfl
@[simp] theorem State.updGroup_launches (s : State) (k : GrpKey) (f : Group → Group) : (s.updGroup k f).launches = s.launches := rfl
@[simp] theorem State.updGroup_contexts (s : State) (k : GrpKey) (f : Group → Group) : (s.updGroup k f).contexts = s.contexts := rfl
@[simp] theorem State.updGroup_cores (s : State) (k : GrpKey) (f : Group → Group) : (s.updGroup k f).cores = s.cores := rfl
@[simp] theorem State.updGroup_engines (s : State) (k : GrpKey) (f : Group → Group) : (s.updGroup k f).engines = s.engines := rfl
@[simp] theorem State.updGroup_holds (s : State) (k : GrpKey) (f : Group → Group) : (s.updGroup k f).holds = s.holds := rfl
@[simp] theorem State.updGroup_mem (s : State) (k : GrpKey) (f : Group → Group) : (s.updGroup k f).mem = s.mem := rfl
@[simp] theorem State.updGroup_poison (s : State) (k : GrpKey) (f : Group → Group) : (s.updGroup k f).poison = s.poison := rfl
@[simp] theorem State.updGroup_shadow (s : State) (k : GrpKey) (f : Group → Group) : (s.updGroup k f).shadow = s.shadow := rfl
@[simp] theorem State.updGroup_pins (s : State) (k : GrpKey) (f : Group → Group) : (s.updGroup k f).pins = s.pins := rfl
@[simp] theorem State.updGroup_tlb (s : State) (k : GrpKey) (f : Group → Group) : (s.updGroup k f).tlb = s.tlb := rfl
@[simp] theorem State.updGroup_walks (s : State) (k : GrpKey) (f : Group → Group) : (s.updGroup k f).walks = s.walks := rfl
@[simp] theorem State.updGroup_reqs (s : State) (k : GrpKey) (f : Group → Group) : (s.updGroup k f).reqs = s.reqs := rfl
@[simp] theorem State.updGroup_rets (s : State) (k : GrpKey) (f : Group → Group) : (s.updGroup k f).rets = s.rets := rfl
@[simp] theorem State.updGroup_units (s : State) (k : GrpKey) (f : Group → Group) : (s.updGroup k f).units = s.units := rfl
@[simp] theorem State.updGroup_mgmt (s : State) (k : GrpKey) (f : Group → Group) : (s.updGroup k f).mgmt = s.mgmt := rfl
@[simp] theorem State.updGroup_time (s : State) (k : GrpKey) (f : Group → Group) : (s.updGroup k f).time = s.time := rfl
@[simp] theorem State.updGroup_fuses (s : State) (k : GrpKey) (f : Group → Group) : (s.updGroup k f).fuses = s.fuses := rfl
@[simp] theorem State.updGroup_ring (s : State) (k : GrpKey) (f : Group → Group) : (s.updGroup k f).ring = s.ring := rfl
@[simp] theorem State.updGroup_bells (s : State) (k : GrpKey) (f : Group → Group) : (s.updGroup k f).bells = s.bells := rfl
@[simp] theorem State.updGroup_flash (s : State) (k : GrpKey) (f : Group → Group) : (s.updGroup k f).flash = s.flash := rfl
@[simp] theorem State.updGroup_ports (s : State) (k : GrpKey) (f : Group → Group) : (s.updGroup k f).ports = s.ports := rfl
@[simp] theorem State.updGroup_frozen (s : State) (k : GrpKey) (f : Group → Group) : (s.updGroup k f).frozen = s.frozen := rfl
@[simp] theorem State.updGroup_tapIr (s : State) (k : GrpKey) (f : Group → Group) : (s.updGroup k f).tapIr = s.tapIr := rfl
@[simp] theorem State.updGroup_cur (s : State) (k : GrpKey) (f : Group → Group) : (s.updGroup k f).cur = s.cur := rfl
@[simp] theorem State.updGroup_op (s : State) (k : GrpKey) (f : Group → Group) : (s.updGroup k f).op = s.op := rfl
@[simp] theorem State.updGroup_inputs (s : State) (k : GrpKey) (f : Group → Group) : (s.updGroup k f).inputs = s.inputs := rfl
@[simp] theorem State.updGroup_outputs (s : State) (k : GrpKey) (f : Group → Group) : (s.updGroup k f).outputs = s.outputs := rfl
@[simp] theorem State.updGroup_nextId (s : State) (k : GrpKey) (f : Group → Group) : (s.updGroup k f).nextId = s.nextId := rfl
@[simp] theorem State.updGroup_free (s : State) (k : GrpKey) (f : Group → Group) : (s.updGroup k f).free = s.free := rfl
@[simp] theorem State.updGroup_moved (s : State) (k : GrpKey) (f : Group → Group) : (s.updGroup k f).moved = s.moved := rfl

/-! updCohort. -/
@[simp] theorem State.updCohort_clock (s : State) (k : CohKey) (f : Cohort → Cohort) : (s.updCohort k f).clock = s.clock := rfl
@[simp] theorem State.updCohort_threads (s : State) (k : CohKey) (f : Cohort → Cohort) : (s.updCohort k f).threads = s.threads := rfl
@[simp] theorem State.updCohort_groups (s : State) (k : CohKey) (f : Cohort → Cohort) : (s.updCohort k f).groups = s.groups := rfl
@[simp] theorem State.updCohort_launches (s : State) (k : CohKey) (f : Cohort → Cohort) : (s.updCohort k f).launches = s.launches := rfl
@[simp] theorem State.updCohort_contexts (s : State) (k : CohKey) (f : Cohort → Cohort) : (s.updCohort k f).contexts = s.contexts := rfl
@[simp] theorem State.updCohort_cores (s : State) (k : CohKey) (f : Cohort → Cohort) : (s.updCohort k f).cores = s.cores := rfl
@[simp] theorem State.updCohort_engines (s : State) (k : CohKey) (f : Cohort → Cohort) : (s.updCohort k f).engines = s.engines := rfl
@[simp] theorem State.updCohort_holds (s : State) (k : CohKey) (f : Cohort → Cohort) : (s.updCohort k f).holds = s.holds := rfl
@[simp] theorem State.updCohort_mem (s : State) (k : CohKey) (f : Cohort → Cohort) : (s.updCohort k f).mem = s.mem := rfl
@[simp] theorem State.updCohort_poison (s : State) (k : CohKey) (f : Cohort → Cohort) : (s.updCohort k f).poison = s.poison := rfl
@[simp] theorem State.updCohort_shadow (s : State) (k : CohKey) (f : Cohort → Cohort) : (s.updCohort k f).shadow = s.shadow := rfl
@[simp] theorem State.updCohort_pins (s : State) (k : CohKey) (f : Cohort → Cohort) : (s.updCohort k f).pins = s.pins := rfl
@[simp] theorem State.updCohort_tlb (s : State) (k : CohKey) (f : Cohort → Cohort) : (s.updCohort k f).tlb = s.tlb := rfl
@[simp] theorem State.updCohort_walks (s : State) (k : CohKey) (f : Cohort → Cohort) : (s.updCohort k f).walks = s.walks := rfl
@[simp] theorem State.updCohort_reqs (s : State) (k : CohKey) (f : Cohort → Cohort) : (s.updCohort k f).reqs = s.reqs := rfl
@[simp] theorem State.updCohort_rets (s : State) (k : CohKey) (f : Cohort → Cohort) : (s.updCohort k f).rets = s.rets := rfl
@[simp] theorem State.updCohort_units (s : State) (k : CohKey) (f : Cohort → Cohort) : (s.updCohort k f).units = s.units := rfl
@[simp] theorem State.updCohort_mgmt (s : State) (k : CohKey) (f : Cohort → Cohort) : (s.updCohort k f).mgmt = s.mgmt := rfl
@[simp] theorem State.updCohort_time (s : State) (k : CohKey) (f : Cohort → Cohort) : (s.updCohort k f).time = s.time := rfl
@[simp] theorem State.updCohort_fuses (s : State) (k : CohKey) (f : Cohort → Cohort) : (s.updCohort k f).fuses = s.fuses := rfl
@[simp] theorem State.updCohort_ring (s : State) (k : CohKey) (f : Cohort → Cohort) : (s.updCohort k f).ring = s.ring := rfl
@[simp] theorem State.updCohort_bells (s : State) (k : CohKey) (f : Cohort → Cohort) : (s.updCohort k f).bells = s.bells := rfl
@[simp] theorem State.updCohort_flash (s : State) (k : CohKey) (f : Cohort → Cohort) : (s.updCohort k f).flash = s.flash := rfl
@[simp] theorem State.updCohort_ports (s : State) (k : CohKey) (f : Cohort → Cohort) : (s.updCohort k f).ports = s.ports := rfl
@[simp] theorem State.updCohort_frozen (s : State) (k : CohKey) (f : Cohort → Cohort) : (s.updCohort k f).frozen = s.frozen := rfl
@[simp] theorem State.updCohort_tapIr (s : State) (k : CohKey) (f : Cohort → Cohort) : (s.updCohort k f).tapIr = s.tapIr := rfl
@[simp] theorem State.updCohort_cur (s : State) (k : CohKey) (f : Cohort → Cohort) : (s.updCohort k f).cur = s.cur := rfl
@[simp] theorem State.updCohort_op (s : State) (k : CohKey) (f : Cohort → Cohort) : (s.updCohort k f).op = s.op := rfl
@[simp] theorem State.updCohort_inputs (s : State) (k : CohKey) (f : Cohort → Cohort) : (s.updCohort k f).inputs = s.inputs := rfl
@[simp] theorem State.updCohort_outputs (s : State) (k : CohKey) (f : Cohort → Cohort) : (s.updCohort k f).outputs = s.outputs := rfl
@[simp] theorem State.updCohort_nextId (s : State) (k : CohKey) (f : Cohort → Cohort) : (s.updCohort k f).nextId = s.nextId := rfl
@[simp] theorem State.updCohort_free (s : State) (k : CohKey) (f : Cohort → Cohort) : (s.updCohort k f).free = s.free := rfl
@[simp] theorem State.updCohort_moved (s : State) (k : CohKey) (f : Cohort → Cohort) : (s.updCohort k f).moved = s.moved := rfl

/-! updLaunch. -/
@[simp] theorem State.updLaunch_clock (s : State) (c l : Nat) (f : Launch → Launch) : (s.updLaunch c l f).clock = s.clock := rfl
@[simp] theorem State.updLaunch_threads (s : State) (c l : Nat) (f : Launch → Launch) : (s.updLaunch c l f).threads = s.threads := rfl
@[simp] theorem State.updLaunch_groups (s : State) (c l : Nat) (f : Launch → Launch) : (s.updLaunch c l f).groups = s.groups := rfl
@[simp] theorem State.updLaunch_cohorts (s : State) (c l : Nat) (f : Launch → Launch) : (s.updLaunch c l f).cohorts = s.cohorts := rfl
@[simp] theorem State.updLaunch_contexts (s : State) (c l : Nat) (f : Launch → Launch) : (s.updLaunch c l f).contexts = s.contexts := rfl
@[simp] theorem State.updLaunch_cores (s : State) (c l : Nat) (f : Launch → Launch) : (s.updLaunch c l f).cores = s.cores := rfl
@[simp] theorem State.updLaunch_engines (s : State) (c l : Nat) (f : Launch → Launch) : (s.updLaunch c l f).engines = s.engines := rfl
@[simp] theorem State.updLaunch_holds (s : State) (c l : Nat) (f : Launch → Launch) : (s.updLaunch c l f).holds = s.holds := rfl
@[simp] theorem State.updLaunch_mem (s : State) (c l : Nat) (f : Launch → Launch) : (s.updLaunch c l f).mem = s.mem := rfl
@[simp] theorem State.updLaunch_poison (s : State) (c l : Nat) (f : Launch → Launch) : (s.updLaunch c l f).poison = s.poison := rfl
@[simp] theorem State.updLaunch_shadow (s : State) (c l : Nat) (f : Launch → Launch) : (s.updLaunch c l f).shadow = s.shadow := rfl
@[simp] theorem State.updLaunch_pins (s : State) (c l : Nat) (f : Launch → Launch) : (s.updLaunch c l f).pins = s.pins := rfl
@[simp] theorem State.updLaunch_tlb (s : State) (c l : Nat) (f : Launch → Launch) : (s.updLaunch c l f).tlb = s.tlb := rfl
@[simp] theorem State.updLaunch_walks (s : State) (c l : Nat) (f : Launch → Launch) : (s.updLaunch c l f).walks = s.walks := rfl
@[simp] theorem State.updLaunch_reqs (s : State) (c l : Nat) (f : Launch → Launch) : (s.updLaunch c l f).reqs = s.reqs := rfl
@[simp] theorem State.updLaunch_rets (s : State) (c l : Nat) (f : Launch → Launch) : (s.updLaunch c l f).rets = s.rets := rfl
@[simp] theorem State.updLaunch_units (s : State) (c l : Nat) (f : Launch → Launch) : (s.updLaunch c l f).units = s.units := rfl
@[simp] theorem State.updLaunch_mgmt (s : State) (c l : Nat) (f : Launch → Launch) : (s.updLaunch c l f).mgmt = s.mgmt := rfl
@[simp] theorem State.updLaunch_time (s : State) (c l : Nat) (f : Launch → Launch) : (s.updLaunch c l f).time = s.time := rfl
@[simp] theorem State.updLaunch_fuses (s : State) (c l : Nat) (f : Launch → Launch) : (s.updLaunch c l f).fuses = s.fuses := rfl
@[simp] theorem State.updLaunch_ring (s : State) (c l : Nat) (f : Launch → Launch) : (s.updLaunch c l f).ring = s.ring := rfl
@[simp] theorem State.updLaunch_bells (s : State) (c l : Nat) (f : Launch → Launch) : (s.updLaunch c l f).bells = s.bells := rfl
@[simp] theorem State.updLaunch_flash (s : State) (c l : Nat) (f : Launch → Launch) : (s.updLaunch c l f).flash = s.flash := rfl
@[simp] theorem State.updLaunch_ports (s : State) (c l : Nat) (f : Launch → Launch) : (s.updLaunch c l f).ports = s.ports := rfl
@[simp] theorem State.updLaunch_frozen (s : State) (c l : Nat) (f : Launch → Launch) : (s.updLaunch c l f).frozen = s.frozen := rfl
@[simp] theorem State.updLaunch_tapIr (s : State) (c l : Nat) (f : Launch → Launch) : (s.updLaunch c l f).tapIr = s.tapIr := rfl
@[simp] theorem State.updLaunch_cur (s : State) (c l : Nat) (f : Launch → Launch) : (s.updLaunch c l f).cur = s.cur := rfl
@[simp] theorem State.updLaunch_op (s : State) (c l : Nat) (f : Launch → Launch) : (s.updLaunch c l f).op = s.op := rfl
@[simp] theorem State.updLaunch_inputs (s : State) (c l : Nat) (f : Launch → Launch) : (s.updLaunch c l f).inputs = s.inputs := rfl
@[simp] theorem State.updLaunch_outputs (s : State) (c l : Nat) (f : Launch → Launch) : (s.updLaunch c l f).outputs = s.outputs := rfl
@[simp] theorem State.updLaunch_nextId (s : State) (c l : Nat) (f : Launch → Launch) : (s.updLaunch c l f).nextId = s.nextId := rfl
@[simp] theorem State.updLaunch_free (s : State) (c l : Nat) (f : Launch → Launch) : (s.updLaunch c l f).free = s.free := rfl
@[simp] theorem State.updLaunch_moved (s : State) (c l : Nat) (f : Launch → Launch) : (s.updLaunch c l f).moved = s.moved := rfl

/-! updContext. -/
@[simp] theorem State.updContext_clock (s : State) (c : Nat) (f : Context → Context) : (s.updContext c f).clock = s.clock := rfl
@[simp] theorem State.updContext_threads (s : State) (c : Nat) (f : Context → Context) : (s.updContext c f).threads = s.threads := rfl
@[simp] theorem State.updContext_groups (s : State) (c : Nat) (f : Context → Context) : (s.updContext c f).groups = s.groups := rfl
@[simp] theorem State.updContext_cohorts (s : State) (c : Nat) (f : Context → Context) : (s.updContext c f).cohorts = s.cohorts := rfl
@[simp] theorem State.updContext_launches (s : State) (c : Nat) (f : Context → Context) : (s.updContext c f).launches = s.launches := rfl
@[simp] theorem State.updContext_cores (s : State) (c : Nat) (f : Context → Context) : (s.updContext c f).cores = s.cores := rfl
@[simp] theorem State.updContext_engines (s : State) (c : Nat) (f : Context → Context) : (s.updContext c f).engines = s.engines := rfl
@[simp] theorem State.updContext_holds (s : State) (c : Nat) (f : Context → Context) : (s.updContext c f).holds = s.holds := rfl
@[simp] theorem State.updContext_mem (s : State) (c : Nat) (f : Context → Context) : (s.updContext c f).mem = s.mem := rfl
@[simp] theorem State.updContext_poison (s : State) (c : Nat) (f : Context → Context) : (s.updContext c f).poison = s.poison := rfl
@[simp] theorem State.updContext_shadow (s : State) (c : Nat) (f : Context → Context) : (s.updContext c f).shadow = s.shadow := rfl
@[simp] theorem State.updContext_pins (s : State) (c : Nat) (f : Context → Context) : (s.updContext c f).pins = s.pins := rfl
@[simp] theorem State.updContext_tlb (s : State) (c : Nat) (f : Context → Context) : (s.updContext c f).tlb = s.tlb := rfl
@[simp] theorem State.updContext_walks (s : State) (c : Nat) (f : Context → Context) : (s.updContext c f).walks = s.walks := rfl
@[simp] theorem State.updContext_reqs (s : State) (c : Nat) (f : Context → Context) : (s.updContext c f).reqs = s.reqs := rfl
@[simp] theorem State.updContext_rets (s : State) (c : Nat) (f : Context → Context) : (s.updContext c f).rets = s.rets := rfl
@[simp] theorem State.updContext_units (s : State) (c : Nat) (f : Context → Context) : (s.updContext c f).units = s.units := rfl
@[simp] theorem State.updContext_mgmt (s : State) (c : Nat) (f : Context → Context) : (s.updContext c f).mgmt = s.mgmt := rfl
@[simp] theorem State.updContext_time (s : State) (c : Nat) (f : Context → Context) : (s.updContext c f).time = s.time := rfl
@[simp] theorem State.updContext_fuses (s : State) (c : Nat) (f : Context → Context) : (s.updContext c f).fuses = s.fuses := rfl
@[simp] theorem State.updContext_ring (s : State) (c : Nat) (f : Context → Context) : (s.updContext c f).ring = s.ring := rfl
@[simp] theorem State.updContext_bells (s : State) (c : Nat) (f : Context → Context) : (s.updContext c f).bells = s.bells := rfl
@[simp] theorem State.updContext_flash (s : State) (c : Nat) (f : Context → Context) : (s.updContext c f).flash = s.flash := rfl
@[simp] theorem State.updContext_ports (s : State) (c : Nat) (f : Context → Context) : (s.updContext c f).ports = s.ports := rfl
@[simp] theorem State.updContext_frozen (s : State) (c : Nat) (f : Context → Context) : (s.updContext c f).frozen = s.frozen := rfl
@[simp] theorem State.updContext_tapIr (s : State) (c : Nat) (f : Context → Context) : (s.updContext c f).tapIr = s.tapIr := rfl
@[simp] theorem State.updContext_cur (s : State) (c : Nat) (f : Context → Context) : (s.updContext c f).cur = s.cur := rfl
@[simp] theorem State.updContext_op (s : State) (c : Nat) (f : Context → Context) : (s.updContext c f).op = s.op := rfl
@[simp] theorem State.updContext_inputs (s : State) (c : Nat) (f : Context → Context) : (s.updContext c f).inputs = s.inputs := rfl
@[simp] theorem State.updContext_outputs (s : State) (c : Nat) (f : Context → Context) : (s.updContext c f).outputs = s.outputs := rfl
@[simp] theorem State.updContext_nextId (s : State) (c : Nat) (f : Context → Context) : (s.updContext c f).nextId = s.nextId := rfl
@[simp] theorem State.updContext_free (s : State) (c : Nat) (f : Context → Context) : (s.updContext c f).free = s.free := rfl
@[simp] theorem State.updContext_moved (s : State) (c : Nat) (f : Context → Context) : (s.updContext c f).moved = s.moved := rfl

/-! updCore. -/
@[simp] theorem State.updCore_clock (s : State) (c : Nat) (f : Core → Core) : (s.updCore c f).clock = s.clock := rfl
@[simp] theorem State.updCore_threads (s : State) (c : Nat) (f : Core → Core) : (s.updCore c f).threads = s.threads := rfl
@[simp] theorem State.updCore_groups (s : State) (c : Nat) (f : Core → Core) : (s.updCore c f).groups = s.groups := rfl
@[simp] theorem State.updCore_cohorts (s : State) (c : Nat) (f : Core → Core) : (s.updCore c f).cohorts = s.cohorts := rfl
@[simp] theorem State.updCore_launches (s : State) (c : Nat) (f : Core → Core) : (s.updCore c f).launches = s.launches := rfl
@[simp] theorem State.updCore_contexts (s : State) (c : Nat) (f : Core → Core) : (s.updCore c f).contexts = s.contexts := rfl
@[simp] theorem State.updCore_engines (s : State) (c : Nat) (f : Core → Core) : (s.updCore c f).engines = s.engines := rfl
@[simp] theorem State.updCore_holds (s : State) (c : Nat) (f : Core → Core) : (s.updCore c f).holds = s.holds := rfl
@[simp] theorem State.updCore_mem (s : State) (c : Nat) (f : Core → Core) : (s.updCore c f).mem = s.mem := rfl
@[simp] theorem State.updCore_poison (s : State) (c : Nat) (f : Core → Core) : (s.updCore c f).poison = s.poison := rfl
@[simp] theorem State.updCore_shadow (s : State) (c : Nat) (f : Core → Core) : (s.updCore c f).shadow = s.shadow := rfl
@[simp] theorem State.updCore_pins (s : State) (c : Nat) (f : Core → Core) : (s.updCore c f).pins = s.pins := rfl
@[simp] theorem State.updCore_tlb (s : State) (c : Nat) (f : Core → Core) : (s.updCore c f).tlb = s.tlb := rfl
@[simp] theorem State.updCore_walks (s : State) (c : Nat) (f : Core → Core) : (s.updCore c f).walks = s.walks := rfl
@[simp] theorem State.updCore_reqs (s : State) (c : Nat) (f : Core → Core) : (s.updCore c f).reqs = s.reqs := rfl
@[simp] theorem State.updCore_rets (s : State) (c : Nat) (f : Core → Core) : (s.updCore c f).rets = s.rets := rfl
@[simp] theorem State.updCore_units (s : State) (c : Nat) (f : Core → Core) : (s.updCore c f).units = s.units := rfl
@[simp] theorem State.updCore_mgmt (s : State) (c : Nat) (f : Core → Core) : (s.updCore c f).mgmt = s.mgmt := rfl
@[simp] theorem State.updCore_time (s : State) (c : Nat) (f : Core → Core) : (s.updCore c f).time = s.time := rfl
@[simp] theorem State.updCore_fuses (s : State) (c : Nat) (f : Core → Core) : (s.updCore c f).fuses = s.fuses := rfl
@[simp] theorem State.updCore_ring (s : State) (c : Nat) (f : Core → Core) : (s.updCore c f).ring = s.ring := rfl
@[simp] theorem State.updCore_bells (s : State) (c : Nat) (f : Core → Core) : (s.updCore c f).bells = s.bells := rfl
@[simp] theorem State.updCore_flash (s : State) (c : Nat) (f : Core → Core) : (s.updCore c f).flash = s.flash := rfl
@[simp] theorem State.updCore_ports (s : State) (c : Nat) (f : Core → Core) : (s.updCore c f).ports = s.ports := rfl
@[simp] theorem State.updCore_frozen (s : State) (c : Nat) (f : Core → Core) : (s.updCore c f).frozen = s.frozen := rfl
@[simp] theorem State.updCore_tapIr (s : State) (c : Nat) (f : Core → Core) : (s.updCore c f).tapIr = s.tapIr := rfl
@[simp] theorem State.updCore_cur (s : State) (c : Nat) (f : Core → Core) : (s.updCore c f).cur = s.cur := rfl
@[simp] theorem State.updCore_op (s : State) (c : Nat) (f : Core → Core) : (s.updCore c f).op = s.op := rfl
@[simp] theorem State.updCore_inputs (s : State) (c : Nat) (f : Core → Core) : (s.updCore c f).inputs = s.inputs := rfl
@[simp] theorem State.updCore_outputs (s : State) (c : Nat) (f : Core → Core) : (s.updCore c f).outputs = s.outputs := rfl
@[simp] theorem State.updCore_nextId (s : State) (c : Nat) (f : Core → Core) : (s.updCore c f).nextId = s.nextId := rfl
@[simp] theorem State.updCore_free (s : State) (c : Nat) (f : Core → Core) : (s.updCore c f).free = s.free := rfl
@[simp] theorem State.updCore_moved (s : State) (c : Nat) (f : Core → Core) : (s.updCore c f).moved = s.moved := rfl

/-! updSlot. -/
@[simp] theorem State.updSlot_clock (s : State) (c j : Nat) (f : IssueSlot → IssueSlot) : (s.updSlot c j f).clock = s.clock := rfl
@[simp] theorem State.updSlot_threads (s : State) (c j : Nat) (f : IssueSlot → IssueSlot) : (s.updSlot c j f).threads = s.threads := rfl
@[simp] theorem State.updSlot_groups (s : State) (c j : Nat) (f : IssueSlot → IssueSlot) : (s.updSlot c j f).groups = s.groups := rfl
@[simp] theorem State.updSlot_cohorts (s : State) (c j : Nat) (f : IssueSlot → IssueSlot) : (s.updSlot c j f).cohorts = s.cohorts := rfl
@[simp] theorem State.updSlot_launches (s : State) (c j : Nat) (f : IssueSlot → IssueSlot) : (s.updSlot c j f).launches = s.launches := rfl
@[simp] theorem State.updSlot_contexts (s : State) (c j : Nat) (f : IssueSlot → IssueSlot) : (s.updSlot c j f).contexts = s.contexts := rfl
@[simp] theorem State.updSlot_engines (s : State) (c j : Nat) (f : IssueSlot → IssueSlot) : (s.updSlot c j f).engines = s.engines := rfl
@[simp] theorem State.updSlot_holds (s : State) (c j : Nat) (f : IssueSlot → IssueSlot) : (s.updSlot c j f).holds = s.holds := rfl
@[simp] theorem State.updSlot_mem (s : State) (c j : Nat) (f : IssueSlot → IssueSlot) : (s.updSlot c j f).mem = s.mem := rfl
@[simp] theorem State.updSlot_poison (s : State) (c j : Nat) (f : IssueSlot → IssueSlot) : (s.updSlot c j f).poison = s.poison := rfl
@[simp] theorem State.updSlot_shadow (s : State) (c j : Nat) (f : IssueSlot → IssueSlot) : (s.updSlot c j f).shadow = s.shadow := rfl
@[simp] theorem State.updSlot_pins (s : State) (c j : Nat) (f : IssueSlot → IssueSlot) : (s.updSlot c j f).pins = s.pins := rfl
@[simp] theorem State.updSlot_tlb (s : State) (c j : Nat) (f : IssueSlot → IssueSlot) : (s.updSlot c j f).tlb = s.tlb := rfl
@[simp] theorem State.updSlot_walks (s : State) (c j : Nat) (f : IssueSlot → IssueSlot) : (s.updSlot c j f).walks = s.walks := rfl
@[simp] theorem State.updSlot_reqs (s : State) (c j : Nat) (f : IssueSlot → IssueSlot) : (s.updSlot c j f).reqs = s.reqs := rfl
@[simp] theorem State.updSlot_rets (s : State) (c j : Nat) (f : IssueSlot → IssueSlot) : (s.updSlot c j f).rets = s.rets := rfl
@[simp] theorem State.updSlot_units (s : State) (c j : Nat) (f : IssueSlot → IssueSlot) : (s.updSlot c j f).units = s.units := rfl
@[simp] theorem State.updSlot_mgmt (s : State) (c j : Nat) (f : IssueSlot → IssueSlot) : (s.updSlot c j f).mgmt = s.mgmt := rfl
@[simp] theorem State.updSlot_time (s : State) (c j : Nat) (f : IssueSlot → IssueSlot) : (s.updSlot c j f).time = s.time := rfl
@[simp] theorem State.updSlot_fuses (s : State) (c j : Nat) (f : IssueSlot → IssueSlot) : (s.updSlot c j f).fuses = s.fuses := rfl
@[simp] theorem State.updSlot_ring (s : State) (c j : Nat) (f : IssueSlot → IssueSlot) : (s.updSlot c j f).ring = s.ring := rfl
@[simp] theorem State.updSlot_bells (s : State) (c j : Nat) (f : IssueSlot → IssueSlot) : (s.updSlot c j f).bells = s.bells := rfl
@[simp] theorem State.updSlot_flash (s : State) (c j : Nat) (f : IssueSlot → IssueSlot) : (s.updSlot c j f).flash = s.flash := rfl
@[simp] theorem State.updSlot_ports (s : State) (c j : Nat) (f : IssueSlot → IssueSlot) : (s.updSlot c j f).ports = s.ports := rfl
@[simp] theorem State.updSlot_frozen (s : State) (c j : Nat) (f : IssueSlot → IssueSlot) : (s.updSlot c j f).frozen = s.frozen := rfl
@[simp] theorem State.updSlot_tapIr (s : State) (c j : Nat) (f : IssueSlot → IssueSlot) : (s.updSlot c j f).tapIr = s.tapIr := rfl
@[simp] theorem State.updSlot_cur (s : State) (c j : Nat) (f : IssueSlot → IssueSlot) : (s.updSlot c j f).cur = s.cur := rfl
@[simp] theorem State.updSlot_op (s : State) (c j : Nat) (f : IssueSlot → IssueSlot) : (s.updSlot c j f).op = s.op := rfl
@[simp] theorem State.updSlot_inputs (s : State) (c j : Nat) (f : IssueSlot → IssueSlot) : (s.updSlot c j f).inputs = s.inputs := rfl
@[simp] theorem State.updSlot_outputs (s : State) (c j : Nat) (f : IssueSlot → IssueSlot) : (s.updSlot c j f).outputs = s.outputs := rfl
@[simp] theorem State.updSlot_nextId (s : State) (c j : Nat) (f : IssueSlot → IssueSlot) : (s.updSlot c j f).nextId = s.nextId := rfl
@[simp] theorem State.updSlot_free (s : State) (c j : Nat) (f : IssueSlot → IssueSlot) : (s.updSlot c j f).free = s.free := rfl
@[simp] theorem State.updSlot_moved (s : State) (c j : Nat) (f : IssueSlot → IssueSlot) : (s.updSlot c j f).moved = s.moved := rfl

/-! updEngine. -/
@[simp] theorem State.updEngine_clock (s : State) (e : Nat) (f : Engine → Engine) : (s.updEngine e f).clock = s.clock := rfl
@[simp] theorem State.updEngine_threads (s : State) (e : Nat) (f : Engine → Engine) : (s.updEngine e f).threads = s.threads := rfl
@[simp] theorem State.updEngine_groups (s : State) (e : Nat) (f : Engine → Engine) : (s.updEngine e f).groups = s.groups := rfl
@[simp] theorem State.updEngine_cohorts (s : State) (e : Nat) (f : Engine → Engine) : (s.updEngine e f).cohorts = s.cohorts := rfl
@[simp] theorem State.updEngine_launches (s : State) (e : Nat) (f : Engine → Engine) : (s.updEngine e f).launches = s.launches := rfl
@[simp] theorem State.updEngine_contexts (s : State) (e : Nat) (f : Engine → Engine) : (s.updEngine e f).contexts = s.contexts := rfl
@[simp] theorem State.updEngine_cores (s : State) (e : Nat) (f : Engine → Engine) : (s.updEngine e f).cores = s.cores := rfl
@[simp] theorem State.updEngine_holds (s : State) (e : Nat) (f : Engine → Engine) : (s.updEngine e f).holds = s.holds := rfl
@[simp] theorem State.updEngine_mem (s : State) (e : Nat) (f : Engine → Engine) : (s.updEngine e f).mem = s.mem := rfl
@[simp] theorem State.updEngine_poison (s : State) (e : Nat) (f : Engine → Engine) : (s.updEngine e f).poison = s.poison := rfl
@[simp] theorem State.updEngine_shadow (s : State) (e : Nat) (f : Engine → Engine) : (s.updEngine e f).shadow = s.shadow := rfl
@[simp] theorem State.updEngine_pins (s : State) (e : Nat) (f : Engine → Engine) : (s.updEngine e f).pins = s.pins := rfl
@[simp] theorem State.updEngine_tlb (s : State) (e : Nat) (f : Engine → Engine) : (s.updEngine e f).tlb = s.tlb := rfl
@[simp] theorem State.updEngine_walks (s : State) (e : Nat) (f : Engine → Engine) : (s.updEngine e f).walks = s.walks := rfl
@[simp] theorem State.updEngine_reqs (s : State) (e : Nat) (f : Engine → Engine) : (s.updEngine e f).reqs = s.reqs := rfl
@[simp] theorem State.updEngine_rets (s : State) (e : Nat) (f : Engine → Engine) : (s.updEngine e f).rets = s.rets := rfl
@[simp] theorem State.updEngine_units (s : State) (e : Nat) (f : Engine → Engine) : (s.updEngine e f).units = s.units := rfl
@[simp] theorem State.updEngine_mgmt (s : State) (e : Nat) (f : Engine → Engine) : (s.updEngine e f).mgmt = s.mgmt := rfl
@[simp] theorem State.updEngine_time (s : State) (e : Nat) (f : Engine → Engine) : (s.updEngine e f).time = s.time := rfl
@[simp] theorem State.updEngine_fuses (s : State) (e : Nat) (f : Engine → Engine) : (s.updEngine e f).fuses = s.fuses := rfl
@[simp] theorem State.updEngine_ring (s : State) (e : Nat) (f : Engine → Engine) : (s.updEngine e f).ring = s.ring := rfl
@[simp] theorem State.updEngine_bells (s : State) (e : Nat) (f : Engine → Engine) : (s.updEngine e f).bells = s.bells := rfl
@[simp] theorem State.updEngine_flash (s : State) (e : Nat) (f : Engine → Engine) : (s.updEngine e f).flash = s.flash := rfl
@[simp] theorem State.updEngine_ports (s : State) (e : Nat) (f : Engine → Engine) : (s.updEngine e f).ports = s.ports := rfl
@[simp] theorem State.updEngine_frozen (s : State) (e : Nat) (f : Engine → Engine) : (s.updEngine e f).frozen = s.frozen := rfl
@[simp] theorem State.updEngine_tapIr (s : State) (e : Nat) (f : Engine → Engine) : (s.updEngine e f).tapIr = s.tapIr := rfl
@[simp] theorem State.updEngine_cur (s : State) (e : Nat) (f : Engine → Engine) : (s.updEngine e f).cur = s.cur := rfl
@[simp] theorem State.updEngine_op (s : State) (e : Nat) (f : Engine → Engine) : (s.updEngine e f).op = s.op := rfl
@[simp] theorem State.updEngine_inputs (s : State) (e : Nat) (f : Engine → Engine) : (s.updEngine e f).inputs = s.inputs := rfl
@[simp] theorem State.updEngine_outputs (s : State) (e : Nat) (f : Engine → Engine) : (s.updEngine e f).outputs = s.outputs := rfl
@[simp] theorem State.updEngine_nextId (s : State) (e : Nat) (f : Engine → Engine) : (s.updEngine e f).nextId = s.nextId := rfl
@[simp] theorem State.updEngine_free (s : State) (e : Nat) (f : Engine → Engine) : (s.updEngine e f).free = s.free := rfl
@[simp] theorem State.updEngine_moved (s : State) (e : Nat) (f : Engine → Engine) : (s.updEngine e f).moved = s.moved := rfl

/-! send. -/
@[simp] theorem State.send_clock (s : State) (o : Output) : (s.send o).clock = s.clock := rfl
@[simp] theorem State.send_threads (s : State) (o : Output) : (s.send o).threads = s.threads := rfl
@[simp] theorem State.send_groups (s : State) (o : Output) : (s.send o).groups = s.groups := rfl
@[simp] theorem State.send_cohorts (s : State) (o : Output) : (s.send o).cohorts = s.cohorts := rfl
@[simp] theorem State.send_launches (s : State) (o : Output) : (s.send o).launches = s.launches := rfl
@[simp] theorem State.send_contexts (s : State) (o : Output) : (s.send o).contexts = s.contexts := rfl
@[simp] theorem State.send_cores (s : State) (o : Output) : (s.send o).cores = s.cores := rfl
@[simp] theorem State.send_engines (s : State) (o : Output) : (s.send o).engines = s.engines := rfl
@[simp] theorem State.send_holds (s : State) (o : Output) : (s.send o).holds = s.holds := rfl
@[simp] theorem State.send_mem (s : State) (o : Output) : (s.send o).mem = s.mem := rfl
@[simp] theorem State.send_poison (s : State) (o : Output) : (s.send o).poison = s.poison := rfl
@[simp] theorem State.send_shadow (s : State) (o : Output) : (s.send o).shadow = s.shadow := rfl
@[simp] theorem State.send_pins (s : State) (o : Output) : (s.send o).pins = s.pins := rfl
@[simp] theorem State.send_tlb (s : State) (o : Output) : (s.send o).tlb = s.tlb := rfl
@[simp] theorem State.send_walks (s : State) (o : Output) : (s.send o).walks = s.walks := rfl
@[simp] theorem State.send_reqs (s : State) (o : Output) : (s.send o).reqs = s.reqs := rfl
@[simp] theorem State.send_rets (s : State) (o : Output) : (s.send o).rets = s.rets := rfl
@[simp] theorem State.send_units (s : State) (o : Output) : (s.send o).units = s.units := rfl
@[simp] theorem State.send_mgmt (s : State) (o : Output) : (s.send o).mgmt = s.mgmt := rfl
@[simp] theorem State.send_time (s : State) (o : Output) : (s.send o).time = s.time := rfl
@[simp] theorem State.send_fuses (s : State) (o : Output) : (s.send o).fuses = s.fuses := rfl
@[simp] theorem State.send_ring (s : State) (o : Output) : (s.send o).ring = s.ring := rfl
@[simp] theorem State.send_bells (s : State) (o : Output) : (s.send o).bells = s.bells := rfl
@[simp] theorem State.send_flash (s : State) (o : Output) : (s.send o).flash = s.flash := rfl
@[simp] theorem State.send_ports (s : State) (o : Output) : (s.send o).ports = s.ports := rfl
@[simp] theorem State.send_frozen (s : State) (o : Output) : (s.send o).frozen = s.frozen := rfl
@[simp] theorem State.send_tapIr (s : State) (o : Output) : (s.send o).tapIr = s.tapIr := rfl
@[simp] theorem State.send_cur (s : State) (o : Output) : (s.send o).cur = s.cur := rfl
@[simp] theorem State.send_op (s : State) (o : Output) : (s.send o).op = s.op := rfl
@[simp] theorem State.send_inputs (s : State) (o : Output) : (s.send o).inputs = s.inputs := rfl
@[simp] theorem State.send_nextId (s : State) (o : Output) : (s.send o).nextId = s.nextId := rfl
@[simp] theorem State.send_free (s : State) (o : Output) : (s.send o).free = s.free := rfl
@[simp] theorem State.send_moved (s : State) (o : Output) : (s.send o).moved = s.moved := rfl

/-! The fields that the updates change. -/
theorem State.putThread_threads (s : State) (t : Thread) :
    (s.putThread t).threads = updWhere (fun u => decide (u.key = t.key)) (fun _ => t) s.threads := rfl
theorem State.updThread_threads (s : State) (k : ThKey) (f : Thread → Thread) :
    (s.updThread k f).threads = updWhere (fun u => decide (u.key = k)) f s.threads := rfl
theorem State.updGroup_groups (s : State) (k : GrpKey) (f : Group → Group) :
    (s.updGroup k f).groups = updWhere (fun u => decide (u.key = k)) f s.groups := rfl
theorem State.updCohort_cohorts (s : State) (k : CohKey) (f : Cohort → Cohort) :
    (s.updCohort k f).cohorts = updWhere (fun u => decide (u.key = k)) f s.cohorts := rfl
theorem State.updContext_contexts (s : State) (c : Nat) (f : Context → Context) :
    (s.updContext c f).contexts = updWhere (fun u => u.id == c) f s.contexts := rfl
theorem State.updCore_cores (s : State) (c : Nat) (f : Core → Core) :
    (s.updCore c f).cores = aput s.cores c (f (s.core c)) := rfl
theorem State.send_outputs (s : State) (o : Output) : (s.send o).outputs = s.outputs ++ [o] := rfl

end Sys2Proof.Machine
end

