-- ==== Sys2Proof/Laws/Tables.lean ====
section
/-! SUPPORT. Lists and tables: what an update of one entry leaves of the others, association lists, insertion sort, the first
trap of a list of members. -/

namespace Sys2Proof.Machine

/-! updWhere. -/

theorem updWhere_nil {α : Type} (p : α → Bool) (f : α → α) : updWhere p f [] = [] := rfl
theorem updWhere_cons {α : Type} (p : α → Bool) (f : α → α) (x : α) (l : List α) :
    updWhere p f (x :: l) = (if p x then f x else x) :: updWhere p f l := rfl
/-- An update of the entry of one key leaves the entry of another as it was. -/
theorem find?_updWhere_ne {α κ : Type} [DecidableEq κ] (key : α → κ) (k j : κ) (f : α → α) (h : j ≠ k) :
    ∀ (l : List α), (∀ x ∈ l, key x = k → key (f x) = k) →
    (updWhere (fun u => decide (key u = k)) f l).find? (fun u => decide (key u = j)) =
      l.find? (fun u => decide (key u = j)) := by
  intro l
  induction l with
  | nil => intro _; rfl
  | cons x l ih =>
    intro hf
    have ih := ih fun y hy => hf y (by simp [hy])
    rw [updWhere_cons]
    by_cases hx : key x = k
    · have h1 : key (f x) ≠ j := by rw [hf x (by simp) hx]; exact Ne.symm h
      have h2 : key x ≠ j := by rw [hx]; exact Ne.symm h
      simp [hx, h1, ih, Ne.symm h]
    · simp [hx, List.find?_cons, ih]
/-- The entry of a key after it is updated. -/
theorem find?_updWhere_self {α κ : Type} [DecidableEq κ] (key : α → κ) (k : κ) (f : α → α) :
    ∀ (l : List α), (∀ x ∈ l, key x = k → key (f x) = k) →
    (updWhere (fun u => decide (key u = k)) f l).find? (fun u => decide (key u = k)) =
      (l.find? (fun u => decide (key u = k))).map f := by
  intro l
  induction l with
  | nil => intro _; rfl
  | cons x l ih =>
    intro hf
    have ih := ih fun y hy => hf y (by simp [hy])
    rw [updWhere_cons]
    by_cases hx : key x = k
    · simp [hx, hf x (by simp) hx]
    · simp [hx, ih]

/-! Association lists. -/

/-- The entry of an association list after it is set. -/
theorem aget_aput {α : Type} (d : α) (l : List (Nat × α)) (k j : Nat) (v : α) :
    aget d (aput l k v) j = if j = k then v else aget d l j := by
  induction l with
  | nil => by_cases h : j = k <;> simp [aput, aget, h]
  | cons p l ih =>
    obtain ⟨i, u⟩ := p
    by_cases hk : k = i
    · subst hk
      by_cases hj : j = k <;> simp [aput, aget, hj]
    · by_cases hj : j = i
      · subst hj; simp [aput, aget, hk, Ne.symm hk]
      · simp [aput, aget, hk, hj, ih]

/-! Insertion sort. -/

theorem mem_insertBy {α : Type} (lt : α → α → Bool) (x y : α) (l : List α) :
    y ∈ insertBy lt x l ↔ y = x ∨ y ∈ l := by
  induction l with
  | nil => simp [insertBy]
  | cons z l ih =>
    simp only [insertBy]
    split
    · simp
    · simp [ih, or_left_comm]
theorem mem_sortBy {α : Type} (lt : α → α → Bool) (y : α) (l : List α) : y ∈ sortBy lt l ↔ y ∈ l := by
  induction l with
  | nil => simp [sortBy]
  | cons x l ih => simp [sortBy, mem_insertBy, ih]
theorem mem_mergeTids (a b : List Nat) (t : Nat) : t ∈ mergeTids a b ↔ t ∈ a ∨ t ∈ b := by
  simp only [mergeTids, sortNat, mem_sortBy, List.mem_append, List.mem_filter, Bool.not_eq_true', List.contains_eq_mem]
  by_cases h : t ∈ a <;> simp [h]

/-! Traps of the members. -/

/-- No member traps. -/
theorem firstTrap_none (l : List (Nat × Option Trap)) (h : ∀ p ∈ l, p.2 = none) : firstTrap l = none := by
  induction l with
  | nil => rfl
  | cons p l ih =>
    obtain ⟨t, x⟩ := p
    have : x = none := h (t, x) (by simp)
    subst this
    exact ih fun q hq => h q (by simp [hq])
/-- A trap that is reported is some member's. -/
theorem firstTrap_mem (l : List (Nat × Option Trap)) (t : Nat) (x : Trap) (h : firstTrap l = some (t, x)) :
    (t, some x) ∈ l := by
  induction l generalizing t x with
  | nil => simp [firstTrap] at h
  | cons p l ih =>
    obtain ⟨u, y⟩ := p
    cases y with
    | none => exact List.mem_cons_of_mem _ (ih t x h)
    | some y =>
      simp only [firstTrap] at h
      split at h
      · next u' y' he =>
        split at h
        · simp only [Option.some.injEq, Prod.mk.injEq] at h
          obtain ⟨rfl, rfl⟩ := h
          exact List.mem_cons_of_mem _ (ih _ _ he)
        · simp only [Option.some.injEq, Prod.mk.injEq] at h
          obtain ⟨rfl, rfl⟩ := h
          simp
      · simp only [Option.some.injEq, Prod.mk.injEq] at h
        obtain ⟨rfl, rfl⟩ := h
        simp
/-- No member's trap has a rank below that of the trap reported (R45). -/
theorem firstTrap_le (l : List (Nat × Option Trap)) (t : Nat) (x : Trap) (h : firstTrap l = some (t, x)) (u : Nat)
    (y : Trap) (hy : (u, some y) ∈ l) : x.rank ≤ y.rank := by
  induction l generalizing t x with
  | nil => simp at hy
  | cons p l ih =>
    obtain ⟨v, z⟩ := p
    cases z with
    | none =>
      simp only [List.mem_cons, Prod.mk.injEq, reduceCtorEq, and_false, false_or] at hy
      exact ih t x h hy
    | some z =>
      simp only [firstTrap] at h
      simp only [List.mem_cons, Prod.mk.injEq, Option.some.injEq] at hy
      split at h
      · next u' y' he =>
        split at h <;> simp only [Option.some.injEq, Prod.mk.injEq] at h <;> obtain ⟨rfl, rfl⟩ := h
        · rcases hy with ⟨_, rfl⟩ | hy
          · omega
          · exact ih _ _ he hy
        · rcases hy with ⟨_, rfl⟩ | hy
          · exact Nat.le_refl _
          · have := ih _ _ he hy; omega
      · next he =>
        simp only [Option.some.injEq, Prod.mk.injEq] at h
        obtain ⟨rfl, rfl⟩ := h
        rcases hy with ⟨_, rfl⟩ | hy
        · exact Nat.le_refl _
        · exfalso
          clear ih
          induction l with
          | nil => simp at hy
          | cons q l ih2 =>
            obtain ⟨w, q⟩ := q
            cases q with
            | none => simp only [firstTrap] at he; simp at hy; exact ih2 he hy
            | some q =>
              simp only [firstTrap] at he
              split at he
              · split at he <;> simp at he
              · simp at he

/-- The trap reported: the one of the lowest member among those of the least rank (R45). -/
theorem firstTrap_eq (pre post : List (Nat × Option Trap)) (t : Nat) (x : Trap)
    (h1 : ∀ p ∈ pre, ∀ y, p.2 = some y → x.rank < y.rank) (h2 : ∀ p ∈ post, ∀ y, p.2 = some y → x.rank ≤ y.rank) :
    firstTrap (pre ++ (t, some x) :: post) = some (t, x) := by
  induction pre with
  | nil =>
    simp only [List.nil_append, firstTrap]
    split
    · next u y he =>
      have := h2 (u, some y) (firstTrap_mem _ _ _ he) y rfl
      rw [if_neg (by omega)]
    · rfl
  | cons p pre ih =>
    have ih := ih fun q hq => h1 q (by simp [hq])
    obtain ⟨u, y⟩ := p
    cases y with
    | none => simpa [firstTrap] using ih
    | some y =>
      have := h1 (u, some y) (by simp) y rfl
      simp only [List.cons_append, firstTrap, ih]
      rw [if_pos this]

/-! Words of memory. -/

theorem length_natLe (n x : Nat) : (natLe n x).length = n := by
  induction n generalizing x with
  | zero => rfl
  | succ n ih => simp [natLe, ih]
theorem leNat_natLe (n x : Nat) : leNat (natLe n x) = x % 256 ^ n := by
  induction n generalizing x with
  | zero => simp [natLe, leNat, Nat.mod_one]
  | succ n ih =>
    simp only [natLe, leNat, ih, BitVec.toNat_ofNat]
    rw [show (256 : Nat) ^ (n + 1) = 256 * 256 ^ n from Nat.pow_succ', Nat.mod_mul]
    omega

end Sys2Proof.Machine
end

