-- ==== Sys2Proof/Laws/Operands.lean ====
section
/-! SUPPORT. What the frame of an instruction does: an instruction whose operands are checked and ready runs, the members'
effects reach exactly their own threads, and the end of an instruction moves the run on. -/

namespace Sys2Proof.Machine

/-! The issuing slot. -/

theorem State.issuing_run (s : State) (i : Iss) (h : s.issuing = some i) :
    ((s.core i.core).slot i.slot).run = some i.run := by
  unfold State.issuing at h
  split at h
  · split at h
    · next hr => simp only [Option.some.injEq] at h; subst h; exact hr
    · simp at h
  · simp at h
theorem State.issuing_lt (s : State) (i : Iss) (h : s.issuing = some i) : i.slot < (s.core i.core).slots.length := by
  have h1 := s.issuing_run i h
  by_cases hlt : i.slot < (s.core i.core).slots.length
  · exact hlt
  · rw [Core.slot, List.getD_eq_getElem?_getD, List.getElem?_eq_none (by omega)] at h1
    simp [IssueSlot.fresh] at h1
/-- A slot of a core after one slot is updated. -/
theorem State.slot_updSlot (s : State) (c j : Nat) (f : IssueSlot → IssueSlot) (h : j < (s.core c).slots.length)
    (c' j' : Nat) : ((s.updSlot c j f).core c').slot j' =
      if c' = c ∧ j' = j then f ((s.core c).slot j) else (s.core c').slot j' := by
  simp only [State.updSlot, State.core, State.updCore_cores, aget_aput]
  by_cases hc : c' = c
  · subst hc
    simp only [if_true, true_and, Core.slot, List.getD_eq_getElem?_getD, List.getElem?_set]
    by_cases hj : j' = j
    · subst hj
      have h : j' < (aget Core.fresh s.cores c').slots.length := h
      simp [h]
    · simp [hj, Ne.symm hj]
  · simp [hc]
/-- Everything of a core but its slots is left by an update of a slot. -/
theorem State.core_updSlot (s : State) (c j : Nat) (f : IssueSlot → IssueSlot) (c' : Nat) :
    { (s.updSlot c j f).core c' with slots := [] } = { s.core c' with slots := [] } := by
  simp only [State.updSlot, State.core, State.updCore_cores, aget_aput]
  by_cases hc : c' = c <;> simp [hc]

/-! The frame. -/

/-- An instruction whose members' fields pass their checks and are ready runs with what the members read. -/
theorem State.operandsQ_eq (s : State) (st : Stream) (fs : List Fld) (k : Iss → List (Thread × Reads) → Out) (i : Iss)
    (hi : s.issuing = some i) (h1 : ∀ t ∈ s.members i, t.operandTrap st fs = none)
    (h2 : ∀ t ∈ s.members i, s.queueDead t fs = none) (h3 : ∀ t ∈ s.members i, s.queueWait t fs = none)
    (h4 : ∀ t ∈ s.members i, ∀ f ∈ fs, s.fieldBusy t f = false) :
    s.operandsQ st fs k = k i ((s.members i).map fun t => (t, s.readFields t fs)) := by
  unfold State.operandsQ
  rw [hi]
  have a1 : firstTrap ((s.members i).map fun t => (t.key.tid, t.operandTrap st fs)) = none := by
    apply firstTrap_none; intro p hp
    obtain ⟨t, ht, rfl⟩ := List.mem_map.1 hp
    exact h1 t ht
  have a3 : ((s.members i).filterMap fun t => if (s.queueDead t fs).isSome then none else
      (s.queueWait t fs).map fun j => (t.key.tid, j)) = [] := by
    rw [List.filterMap_eq_nil_iff]; intro t ht
    simp [h2 t ht, h3 t ht]
  have a4 : ((s.members i).any fun t => fs.any (s.fieldBusy t)) = false := by
    rw [List.any_eq_false]; intro t ht
    simp only [List.any_eq_true, not_exists, not_and, Bool.not_eq_true]
    exact h4 t ht
  simp only [a1, a3, a4, Bool.false_eq_true, if_false]
/-- No member that reads names a dead pop where no member's fields hold one. -/
theorem State.firstTrap_deadTraps (s : State) (i : Iss) (fs : List Fld)
    (h2 : ∀ t ∈ s.members i, s.queueDead t fs = none) :
    firstTrap (deadTraps ((s.members i).map fun t => (t, s.readFields t fs))) = none := by
  apply firstTrap_none
  intro p hp
  simp only [deadTraps, List.map_map, List.mem_map, Function.comp_def] at hp
  obtain ⟨t, ht, rfl⟩ := hp
  exact h2 t ht
/-- The same for an instruction that raises nothing above rank 7 itself. -/
theorem State.operands_eq (s : State) (st : Stream) (fs : List Fld) (k : Iss → List (Thread × Reads) → Out) (i : Iss)
    (hi : s.issuing = some i) (h1 : ∀ t ∈ s.members i, t.operandTrap st fs = none)
    (h2 : ∀ t ∈ s.members i, s.queueDead t fs = none) (h3 : ∀ t ∈ s.members i, s.queueWait t fs = none)
    (h4 : ∀ t ∈ s.members i, ∀ f ∈ fs, s.fieldBusy t f = false) :
    s.operands st fs k = k i ((s.members i).map fun t => (t, s.readFields t fs)) := by
  unfold State.operands
  rw [s.operandsQ_eq st fs _ i hi h1 h2 h3 h4, s.firstTrap_deadTraps i fs h2]
/-- What each member's part of an instruction gives where no member's pop is dead. -/
theorem State.memberResults (s : State) (i : Iss) (fs : List Fld) (f : Iss → Thread → Reads → Except Trap Eff)
    (h2 : ∀ t ∈ s.members i, s.queueDead t fs = none) :
    (((s.members i).map fun t => (t, s.readFields t fs)).map fun m => (m.1, m.2.gives (f i m.1 m.2))) =
    (s.members i).map fun t => (t, f i t (s.readFields t fs)) := by
  rw [List.map_map]
  refine List.map_congr_left fun t ht => ?_
  have h : (s.readFields t fs).dead = none := h2 t ht
  simp [Reads.gives, h]

/-- An instruction that acts on each member, where no member traps. -/
theorem State.memberwise_eq (s : State) (st : Stream) (fs : List Fld) (ends : Bool)
    (f : Iss → Thread → Reads → Except Trap Eff) (i : Iss) (e : Thread → Eff)
    (hi : s.issuing = some i) (h1 : ∀ t ∈ s.members i, t.operandTrap st fs = none)
    (h2 : ∀ t ∈ s.members i, s.queueDead t fs = none) (h3 : ∀ t ∈ s.members i, s.queueWait t fs = none)
    (h4 : ∀ t ∈ s.members i, ∀ f ∈ fs, s.fieldBusy t f = false)
    (hf : ∀ t ∈ s.members i, f i t (s.readFields t fs) = .ok (e t))
    (hx : ∀ t ∈ s.members i, t.fpTrap (e t).fl = none) :
    s.memberwise st fs ends f = .next (s.finish i fs ends ((s.members i).map fun t => (t, e t))) := by
  unfold State.memberwise
  rw [s.operandsQ_eq st fs _ i hi h1 h2 h3 h4]
  have a0 : ((s.members i).map fun t => (t, f i t (s.readFields t fs))) =
      (s.members i).map fun t => (t, (.ok (e t) : Except Trap Eff)) :=
    List.map_congr_left fun t ht => by simp [hf t ht]
  dsimp only
  rw [s.memberResults i fs f h2, a0]
  rw [firstTrap_none]
  · simp only [List.filterMap_map, Function.comp_def]
    congr 2
    induction s.members i with
    | nil => rfl
    | cons t l ih => simp [ih]
  · intro p hp
    simp only [List.map_map, List.mem_map, Function.comp_def] at hp
    obtain ⟨t, ht, rfl⟩ := hp
    exact hx t ht

/-- The trap of a member by what its own part of an instruction gives: its own, or FP_EXCEPTION of its flags (R41). -/
def trapOf (t : Thread) : Except Trap Eff → Option Trap
  | .error x => some x
  | .ok e => t.fpTrap e.fl
/-- An instruction that acts on each member, where some member traps: the members before it have no trap of its rank or a
lower one, those after it none of a lower rank. -/
theorem State.memberwise_trap (s : State) (st : Stream) (fs : List Fld) (ends : Bool)
    (f : Iss → Thread → Reads → Except Trap Eff) (i : Iss) (hi : s.issuing = some i)
    (h1 : ∀ t ∈ s.members i, t.operandTrap st fs = none)
    (h2 : ∀ t ∈ s.members i, s.queueDead t fs = none) (h3 : ∀ t ∈ s.members i, s.queueWait t fs = none)
    (h4 : ∀ t ∈ s.members i, ∀ f ∈ fs, s.fieldBusy t f = false) (pre post : List Thread) (m : Thread) (x : Trap)
    (hm : s.members i = pre ++ m :: post) (hx : trapOf m (f i m (s.readFields m fs)) = some x)
    (hpre : ∀ u ∈ pre, ∀ y, trapOf u (f i u (s.readFields u fs)) = some y → x.rank < y.rank)
    (hpost : ∀ u ∈ post, ∀ y, trapOf u (f i u (s.readFields u fs)) = some y → x.rank ≤ y.rank) :
    s.memberwise st fs ends f = .next (s.takeTrap i m.key.tid x) := by
  have key : firstTrap (((s.members i).map fun t => (t, f i t (s.readFields t fs))).map
      fun r => (r.1.key.tid, trapOf r.1 r.2)) = some (m.key.tid, x) := by
    rw [hm]
    simp only [List.map_append, List.map_cons, List.map_map, hx]
    refine firstTrap_eq _ _ m.key.tid x ?_ ?_
    · intro p hp y hy
      obtain ⟨u, hu, rfl⟩ := List.mem_map.1 hp
      exact hpre u hu y hy
    · intro p hp y hy
      obtain ⟨u, hu, rfl⟩ := List.mem_map.1 hp
      exact hpost u hu y hy
  unfold State.memberwise
  rw [s.operandsQ_eq st fs _ i hi h1 h2 h3 h4]
  dsimp only
  rw [s.memberResults i fs f h2]
  split
  · next t' x' he =>
    have h := key.symm.trans he
    cases h; rfl
  · next he =>
    have h := key.symm.trans he
    cases h

/-! Effects. -/

@[simp] theorem Thread.writeSlot_key (t : Thread) (n : Nat) (v : W32) : (t.writeSlot n v).key = t.key := by
  unfold Thread.writeSlot; split <;> rfl
@[simp] theorem Thread.writeW_key (t : Thread) (n : Nat) (v : W128) : (t.writeW n v).key = t.key := rfl
@[simp] theorem Thread.raise_key (t : Thread) (f : Fl) : (t.raise f).key = t.key := rfl
theorem Thread.foldl_writeSlot_key (l : List (Nat × W32)) (t : Thread) :
    (l.foldl (fun t p => t.writeSlot p.1 p.2) t).key = t.key := by
  induction l generalizing t with
  | nil => rfl
  | cons p l ih => simp [ih]
theorem Thread.foldl_writeW_key (l : List (Nat × W128)) (t : Thread) :
    (l.foldl (fun t p => t.writeW p.1 p.2) t).key = t.key := by
  induction l generalizing t with
  | nil => rfl
  | cons p l ih => simp [ih]
/-- An effect keeps a thread's name if its own change of the thread does. -/
theorem Thread.apply_key (t : Thread) (e : Eff) (h : ∀ u : Thread, (e.th u).key = u.key) : (t.apply e).key = t.key := by
  simp [Thread.apply, h, Thread.foldl_writeW_key, Thread.foldl_writeSlot_key]

@[simp] theorem State.moveQueues_threads (s : State) (t : Thread) (fs : List Fld) (g : List (Nat × W32)) :
    (s.moveQueues t fs g).threads = s.threads := by
  unfold State.moveQueues; dsimp only; split <;> rfl
/-- Moving queues changes the queues of cohorts only. -/
theorem State.moveQueues_rest (s : State) (t : Thread) (fs : List Fld) (g : List (Nat × W32)) :
    s.moveQueues t fs g = { s with cohorts := (s.moveQueues t fs g).cohorts } ∧
    (s.moveQueues t fs g).cohorts.map (fun c => { c with queues := [] }) = s.cohorts.map (fun c => { c with queues := [] }) := by
  unfold State.moveQueues; dsimp only
  split
  · exact ⟨rfl, rfl⟩
  · refine ⟨rfl, ?_⟩
    simp only [State.updQueues, State.updCohort_cohorts, updWhere, List.map_map]
    apply List.map_congr_left
    intro c _
    simp only [Function.comp_def]
    split <;> rfl

/-- One member's immediate effect: its thread, and queues. -/
theorem State.commit1_threads (s : State) (fs : List Fld) (t : Thread) (e : Eff) (h : e.late = none)
    (hk : ∀ u : Thread, (e.th u).key = u.key) :
    (s.commit1 fs t e).threads = updWhere (fun u => decide (u.key = t.key)) (fun _ => t.apply e) s.threads := by
  unfold State.commit1
  simp only [h, State.moveQueues_threads, State.putThread_threads, Thread.apply_key t e hk]
theorem State.commit1_rest (s : State) (fs : List Fld) (t : Thread) (e : Eff) (h : e.late = none) :
    s.commit1 fs t e = { s with threads := (s.commit1 fs t e).threads, cohorts := (s.commit1 fs t e).cohorts } ∧
    (s.commit1 fs t e).cohorts.map (fun c => { c with queues := [] }) = s.cohorts.map (fun c => { c with queues := [] }) := by
  unfold State.commit1
  simp only [h]
  have h1 := (s.putThread (t.apply e)).moveQueues_rest t fs e.g
  refine ⟨?_, h1.2.trans rfl⟩
  rw [h1.1]; rfl

/-- The members' immediate effects change their threads and the queues of cohorts only. -/
theorem State.commit_rest (fs : List Fld) (l : List (Thread × Eff)) : ∀ (s : State), (∀ p ∈ l, p.2.late = none) →
    s.commit fs l = { s with threads := (s.commit fs l).threads, cohorts := (s.commit fs l).cohorts } ∧
    (s.commit fs l).cohorts.map (fun c => { c with queues := [] }) = s.cohorts.map (fun c => { c with queues := [] }) := by
  induction l with
  | nil => intro s _; exact ⟨rfl, rfl⟩
  | cons p l ih =>
    intro s h
    have h1 := ih (s.commit1 fs p.1 p.2) fun q hq => h q (by simp [hq])
    have h2 := s.commit1_rest fs p.1 p.2 (h p (by simp))
    have e : s.commit fs (p :: l) = (s.commit1 fs p.1 p.2).commit fs l := rfl
    rw [e]
    refine ⟨?_, h1.2.trans h2.2⟩
    rw [h1.1, h2.1]
/-- A thread that is no member is left by the members' effects. -/
theorem State.commit_thread?_ne (fs : List Fld) (k : ThKey) (l : List (Thread × Eff)) : ∀ (s : State),
    (∀ p ∈ l, p.2.late = none ∧ (∀ u : Thread, (p.2.th u).key = u.key)) → (∀ p ∈ l, p.1.key ≠ k) →
    (s.commit fs l).thread? k = s.thread? k := by
  induction l with
  | nil => intro s _ _; rfl
  | cons p l ih =>
    intro s h hk
    have e : s.commit fs (p :: l) = (s.commit1 fs p.1 p.2).commit fs l := rfl
    rw [e, ih _ (fun q hq => h q (by simp [hq])) (fun q hq => hk q (by simp [hq]))]
    have hp := h p (by simp)
    simp only [State.thread?, State.commit1_threads s fs p.1 p.2 hp.1 hp.2]
    exact find?_updWhere_ne Thread.key p.1.key k _ (Ne.symm (hk p (by simp))) s.threads
      fun x _ _ => Thread.apply_key _ _ hp.2
/-- A member's thread after the members' effects, where members of one name have one effect. -/
theorem State.commit_thread? (fs : List Fld) (k : ThKey) (u : Thread) (l : List (Thread × Eff)) : ∀ (s : State),
    (∀ p ∈ l, p.2.late = none ∧ (∀ u : Thread, (p.2.th u).key = u.key)) →
    (∀ p ∈ l, p.1.key = k → p.1.apply p.2 = u) →
    (s.thread? k = some u ∨ ((∃ p ∈ l, p.1.key = k) ∧ (s.thread? k).isSome)) →
    (s.commit fs l).thread? k = some u := by
  induction l with
  | nil => intro s _ _ h; simpa [State.commit] using h
  | cons p l ih =>
    intro s h hu hs
    have e : s.commit fs (p :: l) = (s.commit1 fs p.1 p.2).commit fs l := rfl
    rw [e]
    have hp := h p (by simp)
    apply ih _ (fun q hq => h q (by simp [hq])) (fun q hq => hu q (by simp [hq]))
    simp only [State.thread?, State.commit1_threads s fs p.1 p.2 hp.1 hp.2]
    by_cases hk : p.1.key = k
    · left
      have := find?_updWhere_self Thread.key p.1.key (fun _ => p.1.apply p.2) s.threads
        fun x _ _ => Thread.apply_key _ _ hp.2
      rw [hk] at this
      rw [hk, this, hu p (by simp) hk]
      rcases hs with hs | ⟨_, hs⟩
      · simp [State.thread?] at hs; simp [hs]
      · obtain ⟨v, hv⟩ := Option.isSome_iff_exists.1 hs
        simp [State.thread?] at hv; simp [hv]
    · have := find?_updWhere_ne Thread.key p.1.key k (fun _ => p.1.apply p.2) (Ne.symm hk) s.threads
        fun x _ _ => Thread.apply_key _ _ hp.2
      rw [this]
      rcases hs with hs | ⟨⟨q, hq, hqk⟩, hs⟩
      · left; exact hs
      · right
        refine ⟨⟨q, ?_, hqk⟩, hs⟩
        rcases List.mem_cons.1 hq with rfl | hq
        · exact absurd hqk hk
        · exact hq

/-! Results that land later. -/

/-- The result under way that a member's late effect makes. -/
def lateRet (k : RetKind) (id : Nat) (t : Thread) (e : Eff) : Ret :=
  { id := id, kind := k, dests := e.g.filterMap (t.destOf id) ++ e.w.map fun p => .w t.key p.1 p.2 }
/-- The part of a late effect that takes place at once. -/
def Eff.now (e : Eff) : Eff := { e with g := [], w := [] }

theorem State.reserve_rest (s : State) (t : Thread) (slot id : Nat) :
    s.reserve t slot id = { s with cohorts := (s.reserve t slot id).cohorts } ∧
    (s.reserve t slot id).cohorts.map (fun c => { c with queues := [] }) = s.cohorts.map (fun c => { c with queues := [] }) := by
  unfold State.reserve
  split
  · exact ⟨rfl, rfl⟩
  · refine ⟨rfl, ?_⟩
    simp only [State.updQueues, State.updCohort_cohorts, updWhere, List.map_map]
    apply List.map_congr_left
    intro c _
    simp only [Function.comp_def]
    split <;> rfl
theorem State.foldl_reserve_rest (t : Thread) (id : State → Nat) (l : List (Nat × W32)) : ∀ (s : State),
    let r := l.foldl (fun s p => s.reserve t p.1 (id s)) s
    r = { s with cohorts := r.cohorts } ∧
    r.cohorts.map (fun c => { c with queues := [] }) = s.cohorts.map (fun c => { c with queues := [] }) := by
  induction l with
  | nil => intro s; exact ⟨rfl, rfl⟩
  | cons p l ih =>
    intro s
    have h1 := s.reserve_rest t p.1 (id s)
    have h2 := ih (s.reserve t p.1 (id s))
    dsimp only at h2 ⊢
    rw [List.foldl_cons]
    refine ⟨?_, h2.2.trans h1.2⟩
    rw [h2.1, h1.1]
/-- A promise adds one result under way and takes one number. -/
theorem State.promise_rest (s : State) (t : Thread) (k : RetKind) (e : Eff) :
    let r := s.promise t k e.g e.w
    r = { s with cohorts := r.cohorts, rets := s.rets ++ [lateRet k s.nextId t e], nextId := s.nextId + 1 } ∧
    r.cohorts.map (fun c => { c with queues := [] }) = s.cohorts.map (fun c => { c with queues := [] }) := by
  unfold State.promise
  have h := State.foldl_reserve_rest t (fun s => s.nextId) (e.g.filter fun p => t.isQueue p.1) s
  dsimp only at h ⊢
  refine ⟨?_, h.2⟩
  rw [h.1]; rfl

theorem State.commit1_late (s : State) (fs : List Fld) (t : Thread) (e : Eff) (k : RetKind) (h : e.late = some k)
    (hk : ∀ u : Thread, (e.th u).key = u.key) :
    let r := s.commit1 fs t e
    r = { s with threads := r.threads, cohorts := r.cohorts, rets := s.rets ++ [lateRet k s.nextId t e],
                 nextId := s.nextId + 1 } ∧
    r.threads = updWhere (fun u => decide (u.key = t.key)) (fun _ => t.apply e.now) s.threads ∧
    r.cohorts.map (fun c => { c with queues := [] }) = s.cohorts.map (fun c => { c with queues := [] }) := by
  have e0 : s.commit1 fs t e = ((s.putThread (t.apply e.now)).moveQueues t fs []).promise t k e.g e.w := by
    unfold State.commit1
    split
    · next hn => rw [h] at hn; exact absurd hn (by simp)
    · next k' hk' => rw [h] at hk'; cases hk'; rfl
  rw [e0]
  have h1 := (s.putThread (t.apply e.now)).moveQueues_rest t fs []
  have h2 := ((s.putThread (t.apply e.now)).moveQueues t fs []).promise_rest t k e
  dsimp only at h2
  have e1 : ((s.putThread (t.apply e.now)).moveQueues t fs []).nextId = s.nextId := by rw [h1.1]; rfl
  have e2 : ((s.putThread (t.apply e.now)).moveQueues t fs []).rets = s.rets := by rw [h1.1]; rfl
  rw [e1, e2] at h2
  refine ⟨?_, ?_, h2.2.trans (h1.2.trans rfl)⟩
  · rw [h2.1, h1.1]; rfl
  · rw [h2.1, h1.1]
    show (s.putThread _).threads = _
    rw [State.putThread_threads, Thread.apply_key _ _ (by exact hk)]

/-- The members' late effects: each member's own thread at once, one result under way for each, and queues. -/
theorem State.commit_late (fs : List Fld) (k : RetKind) (l : List (Thread × Eff)) : ∀ (s : State),
    (∀ p ∈ l, p.2.late = some k ∧ (∀ u : Thread, (p.2.th u).key = u.key)) →
    s.commit fs l = { s with threads := (s.commit fs (l.map fun p => (p.1, { p.2.now with late := none }))).threads,
                             cohorts := (s.commit fs l).cohorts,
                             rets := s.rets ++ l.mapIdx fun n p => lateRet k (s.nextId + n) p.1 p.2,
                             nextId := s.nextId + l.length } ∧
    (s.commit fs l).cohorts.map (fun c => { c with queues := [] }) = s.cohorts.map (fun c => { c with queues := [] }) := by
  suffices h : ∀ (l : List (Thread × Eff)) (s u : State), s.threads = u.threads →
      (∀ p ∈ l, p.2.late = some k ∧ (∀ u : Thread, (p.2.th u).key = u.key)) →
      s.commit fs l = { s with threads := (u.commit fs (l.map fun p => (p.1, { p.2.now with late := none }))).threads,
                               cohorts := (s.commit fs l).cohorts,
                               rets := s.rets ++ l.mapIdx fun n p => lateRet k (s.nextId + n) p.1 p.2,
                               nextId := s.nextId + l.length } ∧
      (s.commit fs l).cohorts.map (fun c => { c with queues := [] }) = s.cohorts.map (fun c => { c with queues := [] }) by
    intro s hl; exact h l s s rfl hl
  intro l
  induction l with
  | nil => intro s u hu _; simp [State.commit, ← hu]
  | cons p l ih =>
    intro s u hu hl
    obtain ⟨h1, h2, h3⟩ := s.commit1_late fs p.1 p.2 k (hl p (by simp)).1 (hl p (by simp)).2
    have h4 := State.commit1_threads u fs p.1 { p.2.now with late := none } rfl (hl p (by simp)).2
    have hthr : (s.commit1 fs p.1 p.2).threads = (u.commit1 fs p.1 { p.2.now with late := none }).threads := by
      rw [h2, h4, hu]; rfl
    obtain ⟨g1, g2⟩ := ih (s.commit1 fs p.1 p.2) (u.commit1 fs p.1 { p.2.now with late := none }) hthr
      fun q hq => hl q (by simp [hq])
    have e : s.commit fs (p :: l) = (s.commit1 fs p.1 p.2).commit fs l := rfl
    refine ⟨?_, ?_⟩
    · rw [e, g1, h1]
      simp only [List.map_cons, List.mapIdx_cons, List.length_cons, List.append_assoc, List.cons_append, List.nil_append,
        Nat.add_zero]
      have a1 : ∀ n, s.nextId + 1 + n = s.nextId + (n + 1) := fun n => by omega
      simp only [a1, Nat.add_comm l.length 1]
      rfl
    · rw [e, g2, h3]

/-! Frontiers. -/

/-- A member that arrives at a program counter stands in an entry there. -/
theorem placeEntry_self (en : Entry) (fr : List Entry) (t : Nat) (h : t ∈ en.members) :
    ∃ x ∈ placeEntry en fr, x.addr = en.addr ∧ x.pc = en.pc ∧ t ∈ x.members := by
  unfold placeEntry
  have h0 : en.members.isEmpty = false := by
    cases hm : en.members with
    | nil => simp [hm] at h
    | cons => rfl
  simp only [h0, Bool.false_eq_true, if_false]
  split
  · next hs =>
    simp only [Bool.and_eq_true, List.any_eq_true] at hs
    obtain ⟨_, x, hx, hsame⟩ := hs
    refine ⟨_, List.mem_map.2 ⟨x, hx, rfl⟩, ?_⟩
    rw [if_pos (by simpa using hsame)]
    have := hsame
    simp only [beq_iff_eq, decide_eq_true_eq] at this
    exact ⟨this.1.1.1, this.2, (mem_mergeTids _ _ _).2 (Or.inr h)⟩
  · exact ⟨en, (mem_insertBy _ _ _ _).2 (Or.inl rfl), rfl, rfl, h⟩
/-- A thread in an entry stays in one at the same program counter when another arrives. -/
theorem placeEntry_keep (en : Entry) (fr : List Entry) (y : Entry) (hy : y ∈ fr) (t : Nat) (h : t ∈ y.members) :
    ∃ x ∈ placeEntry en fr, x.addr = y.addr ∧ x.pc = y.pc ∧ t ∈ x.members := by
  unfold placeEntry
  dsimp only
  split
  · exact ⟨y, hy, rfl, rfl, h⟩
  · split
    · refine ⟨_, List.mem_map.2 ⟨y, hy, rfl⟩, ?_⟩
      split
      · exact ⟨rfl, rfl, (mem_mergeTids _ _ _).2 (Or.inl h)⟩
      · exact ⟨rfl, rfl, h⟩
    · exact ⟨y, (mem_insertBy _ _ _ _).2 (Or.inr hy), rfl, rfl, h⟩
theorem foldl_placeEntry_keep {β : Type} (l : List β) (f : β → Entry) : ∀ (fr : List Entry) (y : Entry), y ∈ fr →
    ∀ t ∈ y.members, ∃ x ∈ l.foldl (fun fr p => placeEntry (f p) fr) fr, x.addr = y.addr ∧ x.pc = y.pc ∧ t ∈ x.members := by
  induction l with
  | nil => intro fr y hy t ht; exact ⟨y, hy, rfl, rfl, ht⟩
  | cons p l ih =>
    intro fr y hy t ht
    obtain ⟨x, hx, h1, h2, h3⟩ := placeEntry_keep (f p) fr y hy t ht
    obtain ⟨z, hz, g1, g2, g3⟩ := ih _ x hx t h3
    exact ⟨z, hz, g1.trans h1, g2.trans h2, g3⟩
/-- Members that arrive in a group each stand in an entry at their program counter. -/
theorem State.arrive_group? (s : State) (gk : GrpKey) (addr : Bool) (nexts : List (Nat × W64)) (g : Group)
    (h : s.group? gk = some g) : ∃ g', (s.arrive gk addr nexts).group? gk = some g' ∧ { g' with frontier := [] } = { g with frontier := [] } ∧
      ∀ p ∈ nexts, ∃ en ∈ g'.frontier, en.addr = addr ∧ en.pc = p.2 ∧ p.1 ∈ en.members := by
  have h1 := find?_updWhere_self Group.key gk (fun g =>
    { g with frontier := nexts.foldl (fun fr p =>
        placeEntry (readyEntry addr p.2 (s.prio gk.ck p.2) [p.1] s.clock) fr) g.frontier }) s.groups fun _ _ h => h
  have h2 : s.groups.find? (fun u => decide (u.key = gk)) = some g := h
  rw [h2] at h1
  refine ⟨_, h1, rfl, ?_⟩
  intro p hp
  dsimp only
  generalize g.frontier = fr
  clear h1
  induction nexts generalizing fr with
  | nil => simp at hp
  | cons q nexts ih =>
    rcases List.mem_cons.1 hp with rfl | hp
    · obtain ⟨x, hx, h1, h2, h3⟩ := placeEntry_self (readyEntry addr p.2 (s.prio gk.ck p.2) [p.1] s.clock) fr p.1
        (by simp [readyEntry])
      obtain ⟨z, hz, g1, g2, g3⟩ := foldl_placeEntry_keep nexts
        (fun p => readyEntry addr p.2 (s.prio gk.ck p.2) [p.1] s.clock) _ x hx p.1 h3
      exact ⟨z, hz, g1.trans h1, g2.trans h2, g3⟩
    · exact ih hp _

/-! The end of an instruction. -/

/-- Whether the run ends with an instruction (R131). -/
def Iss.endsRun (i : Iss) (ends : Bool) : Bool := ends || i.run.e || decide (24 ≤ i.run.count + 1) || i.run.single

theorem State.retire_rest (s : State) (i : Iss) (ends : Bool) (nexts : List (Nat × W64)) :
    s.retire i ends nexts = { s with groups := (s.retire i ends nexts).groups,
                                     contexts := (s.countProgress i).contexts,
                                     cores := (s.retire i ends nexts).cores } := by
  unfold State.retire; dsimp only; split <;> rfl
@[simp] theorem State.retire_threads (s : State) (i : Iss) (ends : Bool) (nexts : List (Nat × W64)) :
    (s.retire i ends nexts).threads = s.threads := by rw [State.retire_rest]
@[simp] theorem State.retire_cohorts (s : State) (i : Iss) (ends : Bool) (nexts : List (Nat × W64)) :
    (s.retire i ends nexts).cohorts = s.cohorts := by rw [State.retire_rest]
@[simp] theorem State.retire_mem (s : State) (i : Iss) (ends : Bool) (nexts : List (Nat × W64)) :
    (s.retire i ends nexts).mem = s.mem := by rw [State.retire_rest]
@[simp] theorem State.retire_rets (s : State) (i : Iss) (ends : Bool) (nexts : List (Nat × W64)) :
    (s.retire i ends nexts).rets = s.rets := by rw [State.retire_rest]
@[simp] theorem State.retire_reqs (s : State) (i : Iss) (ends : Bool) (nexts : List (Nat × W64)) :
    (s.retire i ends nexts).reqs = s.reqs := by rw [State.retire_rest]
theorem State.group?_updGroup_ne (s : State) (gk gk' : GrpKey) (f : Group → Group) (h : gk' ≠ gk)
    (hf : ∀ g, (f g).key = g.key) : (s.updGroup gk f).group? gk' = s.group? gk' :=
  find?_updWhere_ne Group.key gk gk' f h s.groups fun g _ hg => (hf g).trans hg
theorem State.group?_updGroup_self (s : State) (gk : GrpKey) (f : Group → Group) (hf : ∀ g, (f g).key = g.key) :
    (s.updGroup gk f).group? gk = (s.group? gk).map f :=
  find?_updWhere_self Group.key gk f s.groups fun g _ hg => (hf g).trans hg
/-- The end of an instruction touches no group but the issuing one. -/
theorem State.retire_group?_ne (s : State) (i : Iss) (ends : Bool) (nexts : List (Nat × W64)) (gk : GrpKey)
    (h : gk ≠ i.run.gk) : (s.retire i ends nexts).group? gk = s.group? gk := by
  unfold State.retire; dsimp only
  split
  · unfold State.arrive
    rw [State.group?_updGroup_ne _ _ _ _ h (by intro g; rfl)]
    unfold State.clearRun
    rw [State.group?_updGroup_ne _ _ _ _ h (by intro g; rfl)]
    rfl
  · rfl
/-- The end of an instruction touches no slot but the issuing one. -/
theorem State.retire_slot_ne (s : State) (i : Iss) (ends : Bool) (nexts : List (Nat × W64))
    (hlt : i.slot < (s.core i.core).slots.length) (c j : Nat) (h : ¬ (c = i.core ∧ j = i.slot)) :
    ((s.retire i ends nexts).core c).slot j = (s.core c).slot j := by
  unfold State.retire; dsimp only
  split
  · have e : ∀ c, ((((s.countProgress i).clearRun i).arrive i.run.gk i.run.addr nexts).core c) =
        (((s.countProgress i).updSlot i.core i.slot fun x => { x with run := none }).core c) := fun _ => rfl
    rw [e, State.slot_updSlot (s.countProgress i) i.core i.slot _ hlt, if_neg h]; rfl
  · rw [State.slot_updSlot (s.countProgress i) i.core i.slot _ hlt, if_neg h]; rfl
theorem State.retire_core (s : State) (i : Iss) (ends : Bool) (nexts : List (Nat × W64)) (c : Nat) :
    { (s.retire i ends nexts).core c with slots := [] } = { s.core c with slots := [] } := by
  unfold State.retire; dsimp only
  split
  · have e : ((((s.countProgress i).clearRun i).arrive i.run.gk i.run.addr nexts).core c) =
        (((s.countProgress i).updSlot i.core i.slot fun x => { x with run := none }).core c) := rfl
    rw [e]
    exact State.core_updSlot (s.countProgress i) i.core i.slot _ c
  · exact State.core_updSlot (s.countProgress i) i.core i.slot _ c
/-- Where the run goes on, its next instruction is the next word. -/
theorem State.retire_goesOn (s : State) (i : Iss) (ends : Bool) (nexts : List (Nat × W64))
    (hlt : i.slot < (s.core i.core).slots.length) (h : i.endsRun ends = false) :
    ((s.retire i ends nexts).core i.core).slot i.slot = { (s.core i.core).slot i.slot with
      run := some { i.run with pc := nextPc i.run.pc, count := i.run.count + 1, stalledSince := none, waits := [], needs := [],
                               noMatch := false } } ∧
    (s.retire i ends nexts).groups = s.groups := by
  unfold State.retire; dsimp only
  have h : (ends || i.run.e || decide (24 ≤ i.run.count + 1) || i.run.single) = false := h
  simp only [h, Bool.false_eq_true, if_false]
  rw [State.slot_updSlot (s.countProgress i) i.core i.slot _ hlt]
  simp only [and_self, if_true]
  exact ⟨rfl, rfl⟩
/-- Where the run ends, the slot is free and every member stands in its group's frontier at its next program counter. -/
theorem State.retire_ends (s : State) (i : Iss) (ends : Bool) (nexts : List (Nat × W64))
    (hlt : i.slot < (s.core i.core).slots.length) (h : i.endsRun ends = true) :
    ((s.retire i ends nexts).core i.core).slot i.slot = { (s.core i.core).slot i.slot with run := none } ∧
    ∀ g, s.group? i.run.gk = some g → ∃ g', (s.retire i ends nexts).group? i.run.gk = some g' ∧
      { g' with frontier := [] } = { g with frontier := [], since := s.clock } ∧
      ∀ p ∈ nexts, ∃ en ∈ g'.frontier, en.addr = i.run.addr ∧ en.pc = p.2 ∧ p.1 ∈ en.members := by
  unfold State.retire; dsimp only
  have h : (ends || i.run.e || decide (24 ≤ i.run.count + 1) || i.run.single) = true := h
  simp only [h, if_true]
  constructor
  · have e : ∀ c, ((((s.countProgress i).clearRun i).arrive i.run.gk i.run.addr nexts).core c) =
        (((s.countProgress i).updSlot i.core i.slot fun x => { x with run := none }).core c) := fun _ => rfl
    rw [e, State.slot_updSlot (s.countProgress i) i.core i.slot _ hlt]
    simp only [and_self, if_true]; rfl
  · intro g hg
    have h1 : ((s.countProgress i).clearRun i).group? i.run.gk = some { g with since := s.clock } := by
      unfold State.clearRun
      rw [State.group?_updGroup_self _ _ _ (by intro g; rfl)]
      have : ((s.countProgress i).updSlot i.core i.slot fun x => { x with run := none }).group? i.run.gk = s.group? i.run.gk := rfl
      rw [this, hg]; rfl
    obtain ⟨g', h2, h3, h4⟩ := State.arrive_group? _ i.run.gk i.run.addr nexts _ h1
    exact ⟨g', h2, h3, h4⟩

/-! Registers. -/

theorem Thread.regOf_inj (t : Thread) (n m r : Nat) (hn : t.regOf n = some r) (hm : t.regOf m = some r) : n = m := by
  unfold Thread.regOf at hn hm
  split at hn <;> simp at hn
  split at hm <;> simp at hm
  omega
/-- A slot reads what was written to it where it names an allotment register; every other slot reads as before. -/
theorem Thread.slot_writeSlot (t : Thread) (n m : Nat) (v : W32) (h : swf 0 t.regs = true) :
    (t.writeSlot n v).slot m = if m = n ∧ (t.regOf n).isSome then v else t.slot m := by
  unfold Thread.writeSlot
  split
  · next r hr =>
    have e : ∀ m, Thread.regOf { t with regs := sput 0 t.regs r v } m = t.regOf m := fun _ => rfl
    simp only [Thread.slot, e, Thread.reg]
    by_cases hm : m = n
    · subst hm; simp only [hr, Option.isSome_some, and_self, if_true]; rw [sget_sput _ _ h]; simp
    · simp only [hm, false_and, if_false]
      cases hq : t.regOf m with
      | none => rfl
      | some q =>
        have : q ≠ r := fun hqr => hm (t.regOf_inj m n r (hqr ▸ hq) hr)
        simp only; rw [sget_sput _ _ h]; simp [this]
  · next hr => simp [hr]
/-- Writing a slot keeps the registers' canonical form. -/
theorem Thread.swf_writeSlot (t : Thread) (n : Nat) (v : W32) (h : swf 0 t.regs = true) :
    swf 0 (t.writeSlot n v).regs = true := by
  unfold Thread.writeSlot
  split
  · exact swf_sput _ _ h _ _
  · exact h

end Sys2Proof.Machine
end

