-- ==== Sys2Proof/Laws/Acts.lean ====
section
/-! SUPPORT. The lemmas from which a statement of an instruction's result is proved: from the members' effects to the next
state in the words of the statements. -/

namespace Sys2Proof.Claims

open Sys2Proof.Machine

theorem State.members_thread? (s : State) (i : Iss) (m : Thread) (h : m ∈ s.members i) : s.thread? m.key = some m := by
  simp only [State.members, List.mem_filterMap] at h
  obtain ⟨t, _, ht⟩ := h
  have hk : m.key = i.thKey t := by
    have := List.find?_some ht
    simpa using this
  rw [hk]; exact ht

/-- The end of the members' immediate effects, in the words of the statements. -/
theorem acts_finish (s : State) (i : Iss) (fs : List Fld) (ends : Bool) (e : Thread → Eff) (hi : s.issuing = some i)
    (hl : ∀ m ∈ s.members i, (e m).late = none) (hk : ∀ m ∈ s.members i, ∀ u : Thread, ((e m).th u).key = u.key) :
    Acts s (s.finish i fs ends ((s.members i).map fun m => (m, e m))) i
      (ends || (s.members i).any fun m => (e m).next.isSome)
      (fun m => m.apply (e m)) (fun m => (e m).next.getD (nextPc i.run.pc)) := by
  unfold State.finish
  generalize hL : (s.members i).map (fun m => (m, e m)) = l
  have hl' : ∀ p ∈ l, p.2.late = none ∧ (∀ u : Thread, (p.2.th u).key = u.key) := by
    subst hL; intro p hp; obtain ⟨m, hm, rfl⟩ := List.mem_map.1 hp
    exact ⟨hl m hm, hk m hm⟩
  have hlt := s.issuing_lt i hi
  have hrest := State.commit_rest fs l s fun p hp => (hl' p hp).1
  have hcores : (s.commit fs l).cores = s.cores := by rw [hrest.1]
  have hgroups : (s.commit fs l).groups = s.groups := by rw [hrest.1]
  have hctx : (s.commit fs l).contexts = s.contexts := by rw [hrest.1]
  have hcore : ∀ c, (s.commit fs l).core c = s.core c := fun c => by unfold State.core; rw [hcores]
  have hgrp : ∀ g, (s.commit fs l).group? g = s.group? g := fun c => by unfold State.group?; rw [hgroups]
  have hlt' : i.slot < ((s.commit fs l).core i.core).slots.length := by rw [hcore]; exact hlt
  have hany : (l.any fun p => p.2.next.isSome) = (s.members i).any fun m => (e m).next.isSome := by
    subst hL; rw [List.any_map]; rfl
  rw [hany]
  refine ⟨?_, ⟨?_, ?_, ?_, ?_, ?_, ?_, ?_, ?_⟩, ⟨?_, ?_⟩, ?_⟩
  · intro m hm
    unfold State.thread?
    rw [State.retire_threads]
    refine State.commit_thread? fs m.key (m.apply (e m)) l s hl' ?_ ?_
    · intro p hp hpk
      subst hL
      obtain ⟨m', hm', rfl⟩ := List.mem_map.1 hp
      have h1 := State.members_thread? s i m hm
      have h2 := State.members_thread? s i m' hm'
      dsimp only at hpk ⊢
      rw [hpk, h1] at h2
      simp only [Option.some.injEq] at h2
      rw [h2]
    · right
      subst hL
      exact ⟨⟨(m, e m), List.mem_map.2 ⟨m, hm, rfl⟩, rfl⟩, by rw [State.members_thread? s i m hm]; rfl⟩
  · intro k hkk
    unfold State.thread?
    rw [State.retire_threads]
    refine State.commit_thread?_ne fs k l s hl' ?_
    subst hL; intro p hp; obtain ⟨m, hm, rfl⟩ := List.mem_map.1 hp
    exact hkk m hm
  · rw [State.retire_cohorts]; exact hrest.2
  · intro gk hg; rw [State.retire_group?_ne _ _ _ _ _ hg, hgrp]
  · intro c j hcj; rw [State.retire_slot_ne _ _ _ _ hlt' _ _ hcj, hcore]
  · intro c; rw [State.retire_core, hcore]
  · rw [State.retire_rest]
    simp only [State.countProgress, State.updContext_contexts, hctx]
  · intro a; rw [State.retire_mem, hrest.1]
  · rw [State.retire_rest, hrest.1]
  · intro h
    rw [(State.retire_goesOn _ i _ _ hlt' h).1]; rfl
  · intro h
    obtain ⟨h1, h2⟩ := State.retire_ends _ i _ (l.map fun p => (p.1.key.tid, p.2.next.getD (nextPc i.run.pc))) hlt' h
    refine ⟨by rw [h1], ?_⟩
    intro g hg
    obtain ⟨g', h3, _, h4⟩ := h2 g (by rw [hgrp]; exact hg)
    refine ⟨g', h3, ?_⟩
    intro m hm
    subst hL
    exact h4 (m.key.tid, (e m).next.getD (nextPc i.run.pc))
      (List.mem_map.2 ⟨(m, e m), List.mem_map.2 ⟨m, hm, rfl⟩, rfl⟩)
  · rw [State.retire_rest, hrest.1]; exact ⟨rfl, rfl⟩

theorem mapIdx_map' {α β γ : Type} (f : α → β) (l : List α) : ∀ (g : Nat → β → γ),
    (l.map f).mapIdx g = l.mapIdx fun n a => g n (f a) := by
  induction l with
  | nil => intro g; rfl
  | cons a l ih => intro g; simp [List.mapIdx_cons, ih]
/-- The end of the members' late effects, in the words of the statements. -/
theorem hands_finish (s : State) (i : Iss) (fs : List Fld) (k : RetKind) (e : Thread → Eff) (hi : s.issuing = some i)
    (hl : ∀ m ∈ s.members i, (e m).late = some k ∧ (e m).next = none)
    (hk : ∀ m ∈ s.members i, ∀ u : Thread, ((e m).th u).key = u.key) :
    Hands s (s.finish i fs false ((s.members i).map fun m => (m, e m))) i k (fun m => m.apply (e m).now)
      fun id m => (lateRet k id m (e m)).dests := by
  unfold State.finish
  have hlt := s.issuing_lt i hi
  have hl' : ∀ p ∈ (s.members i).map (fun m => (m, e m)), p.2.late = some k ∧ (∀ u : Thread, (p.2.th u).key = u.key) := by
    intro p hp; obtain ⟨m, hm, rfl⟩ := List.mem_map.1 hp
    exact ⟨(hl m hm).1, hk m hm⟩
  obtain ⟨h1, h2⟩ := State.commit_late fs k ((s.members i).map fun m => (m, e m)) s hl'
  have hnow : ((s.members i).map fun m => (m, e m)).map (fun p => (p.1, { p.2.now with late := none })) =
      (s.members i).map fun m => (m, { (e m).now with late := none }) := by rw [List.map_map]; rfl
  rw [hnow] at h1
  have hany : (((s.members i).map fun m => (m, e m)).any fun p => p.2.next.isSome) = false := by
    rw [List.any_eq_false]; intro p hp; obtain ⟨m, hm, rfl⟩ := List.mem_map.1 hp
    simp [(hl m hm).2]
  rw [hany, Bool.or_self]
  -- the immediate part, as an instruction of its own
  have key := acts_finish s i fs false (fun m => { (e m).now with late := none }) hi (fun _ _ => rfl) hk
  have hthr : ∀ k', (s.commit fs ((s.members i).map fun m => (m, e m))).thread? k' =
      (s.commit fs ((s.members i).map fun m => (m, { (e m).now with late := none }))).thread? k' := by
    intro k'; unfold State.thread?; rw [h1]
  generalize hu : s.commit fs ((s.members i).map fun m => (m, e m)) = u at h1 h2 hthr
  have hcore : ∀ c, u.core c = s.core c := fun c => by rw [h1]; rfl
  have hgrp : ∀ g, u.group? g = s.group? g := fun c => by rw [h1]; rfl
  have hlt' : i.slot < (u.core i.core).slots.length := by rw [hcore]; exact hlt
  have hctx : u.contexts = s.contexts := by rw [h1]
  have hret : ∀ k', (u.retire i false (((s.members i).map fun m => (m, e m)).map fun p =>
      (p.1.key.tid, p.2.next.getD (nextPc i.run.pc)))).thread? k' = u.thread? k' := fun k' => by
    unfold State.thread?; rw [State.retire_threads]
  have hfin : ∀ k', (s.finish i fs false ((s.members i).map fun m => (m, { (e m).now with late := none }))).thread? k' =
      (s.commit fs ((s.members i).map fun m => (m, { (e m).now with late := none }))).thread? k' := fun k' => by
    unfold State.finish State.thread?; rw [State.retire_threads]
  refine ⟨?_, ⟨?_, ?_, ?_, ?_, ?_, ?_, ?_, ?_⟩, ⟨?_, ?_⟩, ?_, ?_⟩
  · intro m hm
    rw [hret, hthr, ← hfin, key.members m hm]; rfl
  · intro k' hk'
    rw [hret, hthr, ← hfin, key.frame.threads k' hk']
  · rw [State.retire_cohorts]; exact h2
  · intro gk hg; rw [State.retire_group?_ne _ _ _ _ _ hg, hgrp]
  · intro c j hcj; rw [State.retire_slot_ne _ _ _ _ hlt' _ _ hcj, hcore]
  · intro c; rw [State.retire_core, hcore]
  · rw [State.retire_rest]
    simp only [State.countProgress, State.updContext_contexts, hctx]
  · intro a; rw [State.retire_mem, h1]
  · rw [State.retire_rest, h1]
  · intro h
    rw [(State.retire_goesOn _ i _ _ hlt' h).1]; rfl
  · intro h
    obtain ⟨h3, h4⟩ := State.retire_ends _ i _ (((s.members i).map fun m => (m, e m)).map fun p =>
      (p.1.key.tid, p.2.next.getD (nextPc i.run.pc))) hlt' h
    refine ⟨by rw [h3], ?_⟩
    intro g hg
    obtain ⟨g', h5, _, h6⟩ := h4 g (by rw [hgrp]; exact hg)
    refine ⟨g', h5, ?_⟩
    intro m hm
    have := h6 (m.key.tid, (e m).next.getD (nextPc i.run.pc))
      (List.mem_map.2 ⟨(m, e m), List.mem_map.2 ⟨m, hm, rfl⟩, rfl⟩)
    simpa [(hl m hm).2] using this
  · rw [State.retire_rets, h1]
    rw [mapIdx_map']; rfl
  · rw [State.retire_rest, h1]; simp

/-- An instruction that acts on each member by itself completes where no member traps, in the words of the statements. -/
theorem acts_memberwise (s : State) (i : Iss) (st : Stream) (fs : List Fld) (ends : Bool)
    (f : Iss → Thread → Reads → Except Trap Eff) (e : Thread → Eff) (h : Ready s i st fs)
    (hf : ∀ m ∈ s.members i, f i m (s.readFields m fs) = .ok (e m))
    (hx : ∀ m ∈ s.members i, m.fpTrap (e m).fl = none)
    (hl : ∀ m ∈ s.members i, (e m).late = none) (hk : ∀ m ∈ s.members i, ∀ u : Thread, ((e m).th u).key = u.key) :
    ∃ t, s.memberwise st fs ends f = .next t ∧
      Acts s t i (ends || (s.members i).any fun m => (e m).next.isSome) (fun m => m.apply (e m))
        (fun m => (e m).next.getD (nextPc i.run.pc)) :=
  ⟨_, s.memberwise_eq st fs ends f i e h.issuing h.operands h.pops h.queues h.scoreboard hf hx,
    acts_finish s i fs ends e h.issuing hl hk⟩

/-- A result is said of the members only: equal on them, equal. -/
theorem Acts.congr {s t : State} {i : Iss} {ends ends' : Bool} {new new' : Thread → Thread} {next next' : Thread → W64}
    (h : Acts s t i ends new next) (he : ends = ends') (h1 : ∀ m ∈ s.members i, new m = new' m)
    (h2 : ∀ m ∈ s.members i, next m = next' m) : Acts s t i ends' new' next' := by
  subst he
  refine ⟨fun m hm => (h1 m hm) ▸ h.members m hm, h.frame, ⟨h.continues.goesOn, fun hr => ?_⟩, h.results⟩
  obtain ⟨h3, h4⟩ := h.continues.ended hr
  refine ⟨h3, fun g hg => ?_⟩
  obtain ⟨g', h5, h6⟩ := h4 g hg
  exact ⟨g', h5, fun m hm => (h2 m hm) ▸ h6 m hm⟩

/-- No flag is raised by an instruction that raises none. -/
theorem fpTrap_zero (m : Thread) : m.fpTrap 0 = none := by simp [Thread.fpTrap]
/-- Raising no flag changes nothing. -/
theorem raise_zero (m : Thread) : m.raise 0 = m := by simp [Thread.raise]

/-- A computation on registers with no flags completes with its writes. -/
theorem acts_compute (s : State) (i : Iss) (st : Stream) (fs : List Fld) (f : Thread → Reads → Eff)
    (new : Thread → Thread) (h : Ready s i st fs)
    (he : ∀ m ∈ s.members i, (f m (s.readFields m fs)).late = none ∧ (f m (s.readFields m fs)).next = none ∧
      (∀ u : Thread, ((f m (s.readFields m fs)).th u).key = u.key) ∧ m.fpTrap (f m (s.readFields m fs)).fl = none ∧
      m.apply (f m (s.readFields m fs)) = new m) :
    ∃ t, s.memberwise st fs false (fun _ t r => .ok (f t r)) = .next t ∧ Acts s t i false new (fall i) := by
  obtain ⟨t, h1, h2⟩ := acts_memberwise s i st fs false (fun _ t r => .ok (f t r)) (fun m => f m (s.readFields m fs)) h
    (fun _ _ => rfl) (fun m hm => (he m hm).2.2.2.1) (fun m hm => (he m hm).1) (fun m hm => (he m hm).2.2.1)
  refine ⟨t, h1, h2.congr ?_ (fun m hm => (he m hm).2.2.2.2) (fun m hm => by rw [(he m hm).2.1]; rfl)⟩
  simp only [Bool.false_or, List.any_eq_false]
  intro m hm
  simp [(he m hm).2.1]

/-- The effect of writing one slot, on the thread. -/
theorem apply_slot (m : Thread) (d : Slot) (v : W32) : m.apply (.slot d v) = toSlot d v m := by
  simp only [Thread.apply, Eff.slot, List.foldl_nil, id, raise_zero, putWords, toSlot]
  split
  · next h => subst h; simp [Thread.writeSlot, Thread.regOf]
  · simp
/-- The effect of writing a pair, on the thread. -/
theorem apply_pair (m : Thread) (d : Slot) (v : W64) : m.apply (.pair d v) = toPair d v m := by
  simp only [Thread.apply, Eff.pair, List.foldl_nil, id, raise_zero, putWords, toPair]
  split
  · simp
  · simp [lo32, hi32, List.range, List.range.loop, List.zipWith]

/-- An instruction that writes one slot from what it reads. -/
theorem slot_acts (s : State) (i : Iss) (st : Stream) (fs : List Fld) (d : Slot) (f g : Reads → W32) (h : Ready s i st fs)
    (hg : ∀ r, f r = g r) :
    ∃ t, s.memberwise st fs false (fun _ _ r => .ok (.slot d (f r))) = .next t ∧
      Acts s t i false (fun m => toSlot d (g (s.readFields m fs)) m) (fall i) :=
  acts_compute s i st fs (fun _ r => .slot d (f r)) _ h fun m _ =>
    ⟨rfl, rfl, fun _ => rfl, fpTrap_zero m, by rw [apply_slot, hg]⟩
/-- An instruction that writes a pair from what it reads. -/
theorem pair_acts (s : State) (i : Iss) (st : Stream) (fs : List Fld) (d : Slot) (f g : Reads → W64) (h : Ready s i st fs)
    (hg : ∀ r, f r = g r) :
    ∃ t, s.memberwise st fs false (fun _ _ r => .ok (.pair d (f r))) = .next t ∧
      Acts s t i false (fun m => toPair d (g (s.readFields m fs)) m) (fall i) :=
  acts_compute s i st fs (fun _ r => .pair d (f r)) _ h fun m _ =>
    ⟨rfl, rfl, fun _ => rfl, fpTrap_zero m, by rw [apply_pair, hg]⟩

end Sys2Proof.Claims
end

