-- ==== Sys2Proof/Laws/Dispatch.lean ====
section
/-! SUPPORT. What exec does with each instruction: its meaning, by name. -/

namespace Sys2Proof.Machine

theorem exec_add d a b s : exec (.add d a b) s = execAdd d a b s := rfl
theorem exec_sub d a b s : exec (.sub d a b) s = execSub d a b s := rfl
theorem exec_mullo d a b s : exec (.mullo d a b) s = execMullo d a b s := rfl
theorem exec_mulhiI32 d a b s : exec (.mulhiI32 d a b) s = execMulhiI32 d a b s := rfl
theorem exec_mulhiN32 d a b s : exec (.mulhiN32 d a b) s = execMulhiN32 d a b s := rfl
theorem exec_minI32 d a b s : exec (.minI32 d a b) s = execMinI32 d a b s := rfl
theorem exec_minN32 d a b s : exec (.minN32 d a b) s = execMinN32 d a b s := rfl
theorem exec_maxI32 d a b s : exec (.maxI32 d a b) s = execMaxI32 d a b s := rfl
theorem exec_maxN32 d a b s : exec (.maxN32 d a b) s = execMaxN32 d a b s := rfl
theorem exec_and d a b s : exec (.and d a b) s = execAnd d a b s := rfl
theorem exec_or d a b s : exec (.or d a b) s = execOr d a b s := rfl
theorem exec_xor d a b s : exec (.xor d a b) s = execXor d a b s := rfl
theorem exec_shl d a b s : exec (.shl d a b) s = execShl d a b s := rfl
theorem exec_shr d a b s : exec (.shr d a b) s = execShr d a b s := rfl
theorem exec_sra d a b s : exec (.sra d a b) s = execSra d a b s := rfl
theorem exec_rol d a b s : exec (.rol d a b) s = execRol d a b s := rfl
theorem exec_ror d a b s : exec (.ror d a b) s = execRor d a b s := rfl
theorem exec_abs d a s : exec (.abs d a) s = execAbs d a s := rfl
theorem exec_clz d a s : exec (.clz d a) s = execClz d a s := rfl
theorem exec_ctz d a s : exec (.ctz d a) s = execCtz d a s := rfl
theorem exec_popc d a s : exec (.popc d a) s = execPopc d a s := rfl
theorem exec_brev d a s : exec (.brev d a) s = execBrev d a s := rfl
theorem exec_bswap d a s : exec (.bswap d a) s = execBswap d a s := rfl
theorem exec_andn d a b s : exec (.andn d a b) s = execAndn d a b s := rfl
theorem exec_mad d a b s : exec (.mad d a b) s = execMad d a b s := rfl
theorem exec_sel d a b s : exec (.sel d a b) s = execSel d a b s := rfl
theorem exec_seq d a b s : exec (.seq d a b) s = execSeq d a b s := rfl
theorem exec_sne d a b s : exec (.sne d a b) s = execSne d a b s := rfl
theorem exec_sltI32 d a b s : exec (.sltI32 d a b) s = execSltI32 d a b s := rfl
theorem exec_sltN32 d a b s : exec (.sltN32 d a b) s = execSltN32 d a b s := rfl
theorem exec_sleI32 d a b s : exec (.sleI32 d a b) s = execSleI32 d a b s := rfl
theorem exec_sleN32 d a b s : exec (.sleN32 d a b) s = execSleN32 d a b s := rfl
theorem exec_addI64 d a b s : exec (.addI64 d a b) s = execAddI64 d a b s := rfl
theorem exec_subI64 d a b s : exec (.subI64 d a b) s = execSubI64 d a b s := rfl
theorem exec_mulloI64 d a b s : exec (.mulloI64 d a b) s = execMulloI64 d a b s := rfl
theorem exec_mulwI32 d a b s : exec (.mulwI32 d a b) s = execMulwI32 d a b s := rfl
theorem exec_mulwN32 d a b s : exec (.mulwN32 d a b) s = execMulwN32 d a b s := rfl
theorem exec_minI64 d a b s : exec (.minI64 d a b) s = execMinI64 d a b s := rfl
theorem exec_minN64 d a b s : exec (.minN64 d a b) s = execMinN64 d a b s := rfl
theorem exec_maxI64 d a b s : exec (.maxI64 d a b) s = execMaxI64 d a b s := rfl
theorem exec_maxN64 d a b s : exec (.maxN64 d a b) s = execMaxN64 d a b s := rfl
theorem exec_shlI64 d a b s : exec (.shlI64 d a b) s = execShlI64 d a b s := rfl
theorem exec_shrI64 d a b s : exec (.shrI64 d a b) s = execShrI64 d a b s := rfl
theorem exec_sraI64 d a b s : exec (.sraI64 d a b) s = execSraI64 d a b s := rfl
theorem exec_seqI64 d a b s : exec (.seqI64 d a b) s = execSeqI64 d a b s := rfl
theorem exec_sltI64 d a b s : exec (.sltI64 d a b) s = execSltI64 d a b s := rfl
theorem exec_sltN64 d a b s : exec (.sltN64 d a b) s = execSltN64 d a b s := rfl
theorem exec_addx d a b s : exec (.addx d a b) s = execAddx d a b s := rfl
theorem exec_addi d a imm s : exec (.addi d a imm) s = execAddi d a imm s := rfl
theorem exec_andi d a imm s : exec (.andi d a imm) s = execAndi d a imm s := rfl
theorem exec_ori d a imm s : exec (.ori d a imm) s = execOri d a imm s := rfl
theorem exec_xori d a imm s : exec (.xori d a imm) s = execXori d a imm s := rfl
theorem exec_sltiI32 d a imm s : exec (.sltiI32 d a imm) s = execSltiI32 d a imm s := rfl
theorem exec_sltiN32 d a imm s : exec (.sltiN32 d a imm) s = execSltiN32 d a imm s := rfl
theorem exec_shli d a n s : exec (.shli d a n) s = execShli d a n s := rfl
theorem exec_shri d a n s : exec (.shri d a n) s = execShri d a n s := rfl
theorem exec_srai d a n s : exec (.srai d a n) s = execSrai d a n s := rfl
theorem exec_rori d a n s : exec (.rori d a n) s = execRori d a n s := rfl
theorem exec_bfx d a sx pos len1 s : exec (.bfx d a sx pos len1) s = execBfx d a sx pos len1 s := rfl
theorem exec_bfi d a pos len1 s : exec (.bfi d a pos len1) s = execBfi d a pos len1 s := rfl
theorem exec_addiI64 d a imm s : exec (.addiI64 d a imm) s = execAddiI64 d a imm s := rfl
theorem exec_lui d imm s : exec (.lui d imm) s = execLui d imm s := rfl
theorem exec_loi d imm s : exec (.loi d imm) s = execLoi d imm s := rfl
theorem exec_fadd d a b ty rm s : exec (.fadd d a b ty rm) s = execFadd d a b ty rm s := rfl
theorem exec_fsub d a b ty rm s : exec (.fsub d a b ty rm) s = execFsub d a b ty rm s := rfl
theorem exec_fmul d a b ty rm s : exec (.fmul d a b ty rm) s = execFmul d a b ty rm s := rfl
theorem exec_ffma d a b ty rm s : exec (.ffma d a b ty rm) s = execFfma d a b ty rm s := rfl
theorem exec_fmin d a b s : exec (.fmin d a b) s = execFmin d a b s := rfl
theorem exec_fmax d a b s : exec (.fmax d a b) s = execFmax d a b s := rfl
theorem exec_fneg d a s : exec (.fneg d a) s = execFneg d a s := rfl
theorem exec_fabs d a s : exec (.fabs d a) s = execFabs d a s := rfl
theorem exec_fcps d a b s : exec (.fcps d a b) s = execFcps d a b s := rfl
theorem exec_fseq d a b s : exec (.fseq d a b) s = execFseq d a b s := rfl
theorem exec_fslt d a b s : exec (.fslt d a b) s = execFslt d a b s := rfl
theorem exec_fsle d a b s : exec (.fsle d a b) s = execFsle d a b s := rfl
theorem exec_fsun d a b s : exec (.fsun d a b) s = execFsun d a b s := rfl
theorem exec_frcp d a s : exec (.frcp d a) s = execFrcp d a s := rfl
theorem exec_frsq d a s : exec (.frsq d a) s = execFrsq d a s := rfl
theorem exec_fsqrt d a s : exec (.fsqrt d a) s = execFsqrt d a s := rfl
theorem exec_fex2 d a s : exec (.fex2 d a) s = execFex2 d a s := rfl
theorem exec_flg2 d a s : exec (.flg2 d a) s = execFlg2 d a s := rfl
theorem exec_fsin d a s : exec (.fsin d a) s = execFsin d a s := rfl
theorem exec_fcos d a s : exec (.fcos d a) s = execFcos d a s := rfl
theorem exec_haddBf16 d a b s : exec (.haddBf16 d a b) s = execHaddBf16 d a b s := rfl
theorem exec_hsubBf16 d a b s : exec (.hsubBf16 d a b) s = execHsubBf16 d a b s := rfl
theorem exec_hmulBf16 d a b s : exec (.hmulBf16 d a b) s = execHmulBf16 d a b s := rfl
theorem exec_hfmaBf16 d a b s : exec (.hfmaBf16 d a b) s = execHfmaBf16 d a b s := rfl
theorem exec_hminBf16 d a b s : exec (.hminBf16 d a b) s = execHminBf16 d a b s := rfl
theorem exec_hmaxBf16 d a b s : exec (.hmaxBf16 d a b) s = execHmaxBf16 d a b s := rfl
theorem exec_haddF16 d a b s : exec (.haddF16 d a b) s = execHaddF16 d a b s := rfl
theorem exec_hsubF16 d a b s : exec (.hsubF16 d a b) s = execHsubF16 d a b s := rfl
theorem exec_hmulF16 d a b s : exec (.hmulF16 d a b) s = execHmulF16 d a b s := rfl
theorem exec_hfmaF16 d a b s : exec (.hfmaF16 d a b) s = execHfmaF16 d a b s := rfl
theorem exec_hminF16 d a b s : exec (.hminF16 d a b) s = execHminF16 d a b s := rfl
theorem exec_hmaxF16 d a b s : exec (.hmaxF16 d a b) s = execHmaxF16 d a b s := rfl
theorem exec_bdot2 d a b s : exec (.bdot2 d a b) s = execBdot2 d a b s := rfl
theorem exec_pk2Bf16 d a b s : exec (.pk2Bf16 d a b) s = execPk2Bf16 d a b s := rfl
theorem exec_pk2F16 d a b s : exec (.pk2F16 d a b) s = execPk2F16 d a b s := rfl
theorem exec_idp4 d a b sat sa sb s : exec (.idp4 d a b sat sa sb) s = execIdp4 d a b sat sa sb s := rfl
theorem exec_idp8 d a b sat sa sb s : exec (.idp8 d a b sat sa sb) s = execIdp8 d a b sat sa sb s := rfl
theorem exec_cvt d a tf sf rm s : exec (.cvt d a tf sf rm) s = execCvt d a tf sf rm s := rfl
theorem exec_cvts d a tf sf rm s : exec (.cvts d a tf sf rm) s = execCvts d a tf sf rm s := rfl
theorem exec_cvtiItof d a int fmt sat rm s : exec (.cvtiItof d a int fmt sat rm) s = execCvtiItof d a int fmt sat rm s := rfl
theorem exec_cvtiFtoi d a int fmt rm s : exec (.cvtiFtoi d a int fmt rm) s = execCvtiFtoi d a int fmt rm s := rfl
theorem exec_br c off s : exec (.br c off) s = execBr c off s := rfl
theorem exec_brz c off s : exec (.brz c off) s = execBrz c off s := rfl
theorem exec_call d off s : exec (.call d off) s = execCall d off s := rfl
theorem exec_jmp a s : exec (.jmp a) s = execJmp a s := rfl
theorem exec_callr d a s : exec (.callr d a) s = execCallr d a s := rfl
theorem exec_ret a s : exec (.ret a) s = execRet a s := rfl
theorem exec_nop s : exec .nop s = execNop s := rfl
theorem exec_exit s : exec .exit s = execExit s := rfl
theorem exec_yield s : exec .yield s = execYield s := rfl
theorem exec_trap n s : exec (.trap n) s = execTrap n s := rfl
theorem exec_brk n s : exec (.brk n) s = execBrk n s := rfl
theorem exec_sys n s : exec (.sys n) s = execSys n s := rfl
theorem exec_eret s : exec .eret s = execEret s := rfl
theorem exec_fenceI s : exec .fenceI s = execFenceI s := rfl
theorem exec_halt s : exec .halt s = execHalt s := rfl
theorem exec_rdsr d sr s : exec (.rdsr d sr) s = execRdsr d sr s := rfl
theorem exec_wrsr a sr s : exec (.wrsr a sr) s = execWrsr a sr s := rfl
theorem exec_wbase v s : exec (.wbase v) s = execWbase v s := rfl
theorem exec_wbadd v s : exec (.wbadd v) s = execWbadd v s := rfl
theorem exec_wadd d a b s : exec (.wadd d a b) s = execWadd d a b s := rfl
theorem exec_wsub d a b s : exec (.wsub d a b) s = execWsub d a b s := rfl
theorem exec_wmul d a b s : exec (.wmul d a b) s = execWmul d a b s := rfl
theorem exec_wfma d a b s : exec (.wfma d a b) s = execWfma d a b s := rfl
theorem exec_wmin d a b s : exec (.wmin d a b) s = execWmin d a b s := rfl
theorem exec_wmax d a b s : exec (.wmax d a b) s = execWmax d a b s := rfl
theorem exec_watt d a b s : exec (.watt d a b) s = execWatt d a b s := rfl
theorem exec_wmov d a s : exec (.wmov d a) s = execWmov d a s := rfl
theorem exec_whsum d a s : exec (.whsum d a) s = execWhsum d a s := rfl
theorem exec_wdot d a b s : exec (.wdot d a b) s = execWdot d a b s := rfl
theorem exec_wsplat d a s : exec (.wsplat d a) s = execWsplat d a s := rfl
theorem exec_wext d a k s : exec (.wext d a k) s = execWext d a k s := rfl
theorem exec_wins d a k s : exec (.wins d a k) s = execWins d a k s := rfl
theorem exec_wpack d a s : exec (.wpack d a) s = execWpack d a s := rfl
theorem exec_wmuellerG d a b s : exec (.wmuellerG d a b) s = execWmuellerG d a b s := rfl
theorem exec_wmuellerW d a b s : exec (.wmuellerW d a b) s = execWmuellerW d a b s := rfl
theorem exec_qsampF32 d a b s : exec (.qsampF32 d a b) s = execQsampF32 d a b s := rfl
theorem exec_qsampN32 d a b s : exec (.qsampN32 d a b) s = execQsampN32 d a b s := rfl
theorem exec_join a s : exec (.join a) s = execJoin a s := rfl
theorem exec_leave s : exec .leave s = execLeave s := rfl
theorem exec_shflIdx d a b s : exec (.shflIdx d a b) s = execShflIdx d a b s := rfl
theorem exec_shflUp d a b s : exec (.shflUp d a b) s = execShflUp d a b s := rfl
theorem exec_shflDown d a b s : exec (.shflDown d a b) s = execShflDown d a b s := rfl
theorem exec_shflXor d a b s : exec (.shflXor d a b) s = execShflXor d a b s := rfl
theorem exec_voteAny d a s : exec (.voteAny d a) s = execVoteAny d a s := rfl
theorem exec_voteAll d a s : exec (.voteAll d a) s = execVoteAll d a s := rfl
theorem exec_voteBallot d a s : exec (.voteBallot d a) s = execVoteBallot d a s := rfl
theorem exec_barSync nb s : exec (.barSync nb) s = execBarSync nb s := rfl
theorem exec_barAddI32 d a nb s : exec (.barAddI32 d a nb) s = execBarAddI32 d a nb s := rfl
theorem exec_barAddF32 d a nb s : exec (.barAddF32 d a nb) s = execBarAddF32 d a nb s := rfl
theorem exec_barMinI32 d a nb s : exec (.barMinI32 d a nb) s = execBarMinI32 d a nb s := rfl
theorem exec_barMinN32 d a nb s : exec (.barMinN32 d a nb) s = execBarMinN32 d a nb s := rfl
theorem exec_barMinF32 d a nb s : exec (.barMinF32 d a nb) s = execBarMinF32 d a nb s := rfl
theorem exec_barMaxI32 d a nb s : exec (.barMaxI32 d a nb) s = execBarMaxI32 d a nb s := rfl
theorem exec_barMaxN32 d a nb s : exec (.barMaxN32 d a nb) s = execBarMaxN32 d a nb s := rfl
theorem exec_barMaxF32 d a nb s : exec (.barMaxF32 d a nb) s = execBarMaxF32 d a nb s := rfl
theorem exec_barAnd d a nb s : exec (.barAnd d a nb) s = execBarAnd d a nb s := rfl
theorem exec_barOr d a nb s : exec (.barOr d a nb) s = execBarOr d a nb s := rfl
theorem exec_barXor d a nb s : exec (.barXor d a nb) s = execBarXor d a nb s := rfl
theorem exec_barScanI32 d a nb s : exec (.barScanI32 d a nb) s = execBarScanI32 d a nb s := rfl
theorem exec_barXscanI32 d a nb s : exec (.barXscanI32 d a nb) s = execBarXscanI32 d a nb s := rfl
theorem exec_barScanF32 d a nb s : exec (.barScanF32 d a nb) s = execBarScanF32 d a nb s := rfl
theorem exec_barXscanF32 d a nb s : exec (.barXscanF32 d a nb) s = execBarXscanF32 d a nb s := rfl
theorem exec_mma d a b s : exec (.mma d a b) s = execMma d a b s := rfl
theorem exec_vxm d a b s : exec (.vxm d a b) s = execVxm d a b s := rfl
theorem exec_accrd d a t col timm s : exec (.accrd d a t col timm) s = execAccrd d a t col timm s := rfl
theorem exec_accwr d a t col timm s : exec (.accwr d a t col timm) s = execAccwr d a t col timm s := rfl
theorem exec_accz a t s : exec (.accz a t) s = execAccz a t s := rfl
theorem exec_accwait a t s : exec (.accwait a t) s = execAccwait a t s := rfl
theorem exec_ld d a k off s : exec (.ld d a k off) s = execLd d a k off s := rfl
theorem exec_st d a k off s : exec (.st d a k off) s = execSt d a k off s := rfl
theorem exec_lds d a k off s : exec (.lds d a k off) s = execLds d a k off s := rfl
theorem exec_sts d a k off s : exec (.sts d a k off) s = execSts d a k off s := rfl
theorem exec_ldp d a k off s : exec (.ldp d a k off) s = execLdp d a k off s := rfl
theorem exec_stp d a k off s : exec (.stp d a k off) s = execStp d a k off s := rfl
theorem exec_ldro d a k off s : exec (.ldro d a k off) s = execLdro d a k off s := rfl
theorem exec_ldw d a off s : exec (.ldw d a off) s = execLdw d a off s := rfl
theorem exec_stw d a off s : exec (.stw d a off) s = execStw d a off s := rfl
theorem exec_ldws d a off s : exec (.ldws d a off) s = execLdws d a off s := rfl
theorem exec_stws d a off s : exec (.stws d a off) s = execStws d a off s := rfl
theorem exec_ldwp d a off s : exec (.ldwp d a off) s = execLdwp d a off s := rfl
theorem exec_stwp d a off s : exec (.stwp d a off) s = execStwp d a off s := rfl
theorem exec_ldq d a off s : exec (.ldq d a off) s = execLdq d a off s := rfl
theorem exec_stq d a off s : exec (.stq d a off) s = execStq d a off s := rfl
theorem exec_ldqs d a off s : exec (.ldqs d a off) s = execLdqs d a off s := rfl
theorem exec_stqs d a off s : exec (.stqs d a off) s = execStqs d a off s := rfl
theorem exec_atomAdd d a ord sc s : exec (.atomAdd d a ord sc) s = execAtomAdd d a ord sc s := rfl
theorem exec_atomMinI32 d a ord sc s : exec (.atomMinI32 d a ord sc) s = execAtomMinI32 d a ord sc s := rfl
theorem exec_atomMinN32 d a ord sc s : exec (.atomMinN32 d a ord sc) s = execAtomMinN32 d a ord sc s := rfl
theorem exec_atomMaxI32 d a ord sc s : exec (.atomMaxI32 d a ord sc) s = execAtomMaxI32 d a ord sc s := rfl
theorem exec_atomMaxN32 d a ord sc s : exec (.atomMaxN32 d a ord sc) s = execAtomMaxN32 d a ord sc s := rfl
theorem exec_atomAnd d a ord sc s : exec (.atomAnd d a ord sc) s = execAtomAnd d a ord sc s := rfl
theorem exec_atomOr d a ord sc s : exec (.atomOr d a ord sc) s = execAtomOr d a ord sc s := rfl
theorem exec_atomXor d a ord sc s : exec (.atomXor d a ord sc) s = execAtomXor d a ord sc s := rfl
theorem exec_atomXchg d a ord sc s : exec (.atomXchg d a ord sc) s = execAtomXchg d a ord sc s := rfl
theorem exec_atomCas d a ord sc s : exec (.atomCas d a ord sc) s = execAtomCas d a ord sc s := rfl
theorem exec_atomInc d a ord sc s : exec (.atomInc d a ord sc) s = execAtomInc d a ord sc s := rfl
theorem exec_atomFadd d a ord sc s : exec (.atomFadd d a ord sc) s = execAtomFadd d a ord sc s := rfl
theorem exec_atomBf16x2 d a ord sc s : exec (.atomBf16x2 d a ord sc) s = execAtomBf16x2 d a ord sc s := rfl
theorem exec_facc d a ord sc s : exec (.facc d a ord sc) s = execFacc d a ord sc s := rfl
theorem exec_atomLd d a ord sc s : exec (.atomLd d a ord sc) s = execAtomLd d a ord sc s := rfl
theorem exec_atomSt d a ord sc s : exec (.atomSt d a ord sc) s = execAtomSt d a ord sc s := rfl
theorem exec_atomsAdd d a ord sc s : exec (.atomsAdd d a ord sc) s = execAtomsAdd d a ord sc s := rfl
theorem exec_atomsMinI32 d a ord sc s : exec (.atomsMinI32 d a ord sc) s = execAtomsMinI32 d a ord sc s := rfl
theorem exec_atomsMinN32 d a ord sc s : exec (.atomsMinN32 d a ord sc) s = execAtomsMinN32 d a ord sc s := rfl
theorem exec_atomsMaxI32 d a ord sc s : exec (.atomsMaxI32 d a ord sc) s = execAtomsMaxI32 d a ord sc s := rfl
theorem exec_atomsMaxN32 d a ord sc s : exec (.atomsMaxN32 d a ord sc) s = execAtomsMaxN32 d a ord sc s := rfl
theorem exec_atomsAnd d a ord sc s : exec (.atomsAnd d a ord sc) s = execAtomsAnd d a ord sc s := rfl
theorem exec_atomsOr d a ord sc s : exec (.atomsOr d a ord sc) s = execAtomsOr d a ord sc s := rfl
theorem exec_atomsXor d a ord sc s : exec (.atomsXor d a ord sc) s = execAtomsXor d a ord sc s := rfl
theorem exec_atomsXchg d a ord sc s : exec (.atomsXchg d a ord sc) s = execAtomsXchg d a ord sc s := rfl
theorem exec_atomsCas d a ord sc s : exec (.atomsCas d a ord sc) s = execAtomsCas d a ord sc s := rfl
theorem exec_atomsInc d a ord sc s : exec (.atomsInc d a ord sc) s = execAtomsInc d a ord sc s := rfl
theorem exec_atomsFadd d a ord sc s : exec (.atomsFadd d a ord sc) s = execAtomsFadd d a ord sc s := rfl
theorem exec_atomsBf16x2 d a ord sc s : exec (.atomsBf16x2 d a ord sc) s = execAtomsBf16x2 d a ord sc s := rfl
theorem exec_atomsLd d a ord sc s : exec (.atomsLd d a ord sc) s = execAtomsLd d a ord sc s := rfl
theorem exec_atomsSt d a ord sc s : exec (.atomsSt d a ord sc) s = execAtomsSt d a ord sc s := rfl
theorem exec_fence sc s : exec (.fence sc) s = execFence sc s := rfl
theorem exec_fenceX sc paths s : exec (.fenceX sc paths) s = execFenceX sc paths s := rfl
theorem exec_tex d a s : exec (.tex d a) s = execTex d a s := rfl
theorem exec_texw d a b s : exec (.texw d a b) s = execTexw d a b s := rfl
theorem exec_texl d a s : exec (.texl d a) s = execTexl d a s := rfl
theorem exec_boxt d a b s : exec (.boxt d a b) s = execBoxt d a b s := rfl
theorem exec_trit d a b s : exec (.trit d a b) s = execTrit d a b s := rfl
theorem exec_xfrm d a b s : exec (.xfrm d a b) s = execXfrm d a b s := rfl
theorem exec_cpyreq d a off s : exec (.cpyreq d a off) s = execCpyreq d a off s := rfl
theorem exec_cpyreqw d a off s : exec (.cpyreqw d a off) s = execCpyreqw d a off s := rfl
theorem exec_nbarInit a nb s : exec (.nbarInit a nb) s = execNbarInit a nb s := rfl
theorem exec_nbarArrive nb s : exec (.nbarArrive nb) s = execNbarArrive nb s := rfl
theorem exec_nbarExpect a nb s : exec (.nbarExpect a nb) s = execNbarExpect a nb s := rfl
theorem exec_nbarWait a nb s : exec (.nbarWait a nb) s = execNbarWait a nb s := rfl
theorem exec_nbarTest d a nb s : exec (.nbarTest d a nb) s = execNbarTest d a nb s := rfl
theorem exec_emit d a b s : exec (.emit d a b) s = execEmit d a b s := rfl
theorem exec_recv d b s : exec (.recv d b) s = execRecv d b s := rfl
theorem exec_capk a b s : exec (.capk a b) s = execCapk a b s := rfl
theorem exec_capd a b s : exec (.capd a b) s = execCapd a b s := rfl
theorem exec_capx a b s : exec (.capx a b) s = execCapx a b s := rfl
theorem exec_fwait a b s : exec (.fwait a b) s = execFwait a b s := rfl
theorem exec_ftest d a b s : exec (.ftest d a b) s = execFtest d a b s := rfl
theorem exec_trig a s : exec (.trig a) s = execTrig a s := rfl
theorem exec_launch a s : exec (.launch a) s = execLaunch a s := rfl
theorem exec_tlw a b s : exec (.tlw a b) s = execTlw a b s := rfl
theorem exec_slotArbitration s : exec .slotArbitration s = execSlotArbitration s := rfl
theorem exec_groupFormation s : exec .groupFormation s = execGroupFormation s := rfl
theorem exec_loadReturn s : exec .loadReturn s = execLoadReturn s := rfl
theorem exec_qsampResult s : exec .qsampResult s = execQsampResult s := rfl
theorem exec_packetResult s : exec .packetResult s = execPacketResult s := rfl
theorem exec_queueDeadlock s : exec .queueDeadlock s = execQueueDeadlock s := rfl
theorem exec_gatherClose s : exec .gatherClose s = execGatherClose s := rfl
theorem exec_mmaStart s : exec .mmaStart s = execMmaStart s := rfl
theorem exec_mmaSuspend s : exec .mmaSuspend s = execMmaSuspend s := rfl
theorem exec_mmaComplete s : exec .mmaComplete s = execMmaComplete s := rfl
theorem exec_vxmComplete s : exec .vxmComplete s = execVxmComplete s := rfl
theorem exec_scoreDecay s : exec .scoreDecay s = execScoreDecay s := rfl
theorem exec_l2Request s : exec .l2Request s = execL2Request s := rfl
theorem exec_retryResend s : exec .retryResend s = execRetryResend s := rfl
theorem exec_tableWalk s : exec .tableWalk s = execTableWalk s := rfl
theorem exec_cohortPlacement s : exec .cohortPlacement s = execCohortPlacement s := rfl
theorem exec_cohortComplete s : exec .cohortComplete s = execCohortComplete s := rfl
theorem exec_completionRecord s : exec .completionRecord s = execCompletionRecord s := rfl
theorem exec_copyTakeUp s : exec .copyTakeUp s = execCopyTakeUp s := rfl
theorem exec_copyLastBeat s : exec .copyLastBeat s = execCopyLastBeat s := rfl
theorem exec_multicastParked s : exec .multicastParked s = execMulticastParked s := rfl
theorem exec_multicastDrain s : exec .multicastDrain s = execMulticastDrain s := rfl
theorem exec_flueBatchApply s : exec .flueBatchApply s = execFlueBatchApply s := rfl
theorem exec_counterFire s : exec .counterFire s = execCounterFire s := rfl
theorem exec_frameTriggerFire s : exec .frameTriggerFire s = execFrameTriggerFire s := rfl
theorem exec_haltLineArrival s : exec .haltLineArrival s = execHaltLineArrival s := rfl
theorem exec_stopComplete s : exec .stopComplete s = execStopComplete s := rfl
theorem exec_scratchUncorrectable s : exec .scratchUncorrectable s = execScratchUncorrectable s := rfl
theorem exec_softError s : exec .softError s = execSoftError s := rfl
theorem exec_create s : exec .create s = execCreate s := rfl
theorem exec_resume s : exec .resume s = execResume s := rfl
theorem exec_preempt s : exec .preempt s = execPreempt s := rfl
theorem exec_preemptDrained s : exec .preemptDrained s = execPreemptDrained s := rfl
theorem exec_preemptSaved s : exec .preemptSaved s = execPreemptSaved s := rfl
theorem exec_switchout s : exec .switchout s = execSwitchout s := rfl
theorem exec_switchoutComplete s : exec .switchoutComplete s = execSwitchoutComplete s := rfl
theorem exec_switchin s : exec .switchin s = execSwitchin s := rfl
theorem exec_destroy s : exec .destroy s = execDestroy s := rfl
theorem exec_ctxHalt s : exec .ctxHalt s = execCtxHalt s := rfl
theorem exec_tlbinv s : exec .tlbinv s = execTlbinv s := rfl
theorem exec_tlbinvComplete s : exec .tlbinvComplete s = execTlbinvComplete s := rfl
theorem exec_hostpt s : exec .hostpt s = execHostpt s := rfl
theorem exec_hostClose s : exec .hostClose s = execHostClose s := rfl
theorem exec_hostDoorbell s : exec .hostDoorbell s = execHostDoorbell s := rfl
theorem exec_hostRecord s : exec .hostRecord s = execHostRecord s := rfl
theorem exec_partitionEntryWrite s : exec .partitionEntryWrite s = execPartitionEntryWrite s := rfl
theorem exec_frameTriggerEnable s : exec .frameTriggerEnable s = execFrameTriggerEnable s := rfl
theorem exec_frameTriggerDisable s : exec .frameTriggerDisable s = execFrameTriggerDisable s := rfl
theorem exec_stepi s : exec .stepi s = execStepi s := rfl
theorem exec_stepr s : exec .stepr s = execStepr s := rfl
theorem exec_stepEnd s : exec .stepEnd s = execStepEnd s := rfl
theorem exec_causalTrialStart s : exec .causalTrialStart s = execCausalTrialStart s := rfl
theorem exec_causalTrialEnd s : exec .causalTrialEnd s = execCausalTrialEnd s := rfl
theorem exec_smpctlWrite s : exec .smpctlWrite s = execSmpctlWrite s := rfl
theorem exec_stallSample s : exec .stallSample s = execStallSample s := rfl
theorem exec_rdctlWrite s : exec .rdctlWrite s = execRdctlWrite s := rfl
theorem exec_rplbaseWrite s : exec .rplbaseWrite s = execRplbaseWrite s := rfl
theorem exec_attgo s : exec .attgo s = execAttgo s := rfl
theorem exec_attestationComplete s : exec .attestationComplete s = execAttestationComplete s := rfl
theorem exec_podJoin s : exec .podJoin s = execPodJoin s := rfl
theorem exec_podLeave s : exec .podLeave s = execPodLeave s := rfl
theorem exec_podResume s : exec .podResume s = execPodResume s := rfl
theorem exec_haltMessage s : exec .haltMessage s = execHaltMessage s := rfl
theorem exec_causeMessage s : exec .causeMessage s = execCauseMessage s := rfl
theorem exec_prepMessage s : exec .prepMessage s = execPrepMessage s := rfl
theorem exec_confirmMessage s : exec .confirmMessage s = execConfirmMessage s := rfl
theorem exec_resentMessage s : exec .resentMessage s = execResentMessage s := rfl
theorem exec_releaseMessage s : exec .releaseMessage s = execReleaseMessage s := rfl
theorem exec_releaseTimeReached s : exec .releaseTimeReached s = execReleaseTimeReached s := rfl
theorem exec_flueMessage s : exec .flueMessage s = execFlueMessage s := rfl
theorem exec_digestMessage s : exec .digestMessage s = execDigestMessage s := rfl
theorem exec_fenceMessage s : exec .fenceMessage s = execFenceMessage s := rfl
theorem exec_confirmTimeout s : exec .confirmTimeout s = execConfirmTimeout s := rfl
theorem exec_digestCompute s : exec .digestCompute s = execDigestCompute s := rfl
theorem exec_digestTimeout s : exec .digestTimeout s = execDigestTimeout s := rfl
theorem exec_ualinkDataMessage s : exec .ualinkDataMessage s = execUalinkDataMessage s := rfl
theorem exec_dataAcknowledge s : exec .dataAcknowledge s = execDataAcknowledge s := rfl
theorem exec_remoteResponseTimeout s : exec .remoteResponseTimeout s = execRemoteResponseTimeout s := rfl
theorem exec_chunkLanding s : exec .chunkLanding s = execChunkLanding s := rfl
theorem exec_collectiveMemberTimeout s : exec .collectiveMemberTimeout s = execCollectiveMemberTimeout s := rfl
theorem exec_linkDown s : exec .linkDown s = execLinkDown s := rfl
theorem exec_ptpSync s : exec .ptpSync s = execPtpSync s := rfl
theorem exec_ptpSyncTimeout s : exec .ptpSyncTimeout s = execPtpSyncTimeout s := rfl
theorem exec_ppsInput s : exec .ppsInput s = execPpsInput s := rfl
theorem exec_ppsOutput s : exec .ppsOutput s = execPpsOutput s := rfl
theorem exec_freezeAssert s : exec .freezeAssert s = execFreezeAssert s := rfl
theorem exec_freezeRelease s : exec .freezeRelease s = execFreezeRelease s := rfl
theorem exec_extest s : exec .extest s = execExtest s := rfl
theorem exec_idcode s : exec .idcode s = execIdcode s := rfl
theorem exec_samplePreload s : exec .samplePreload s = execSamplePreload s := rfl
theorem exec_bypass s : exec .bypass s = execBypass s := rfl
theorem exec_scanout s : exec .scanout s = execScanout s := rfl
theorem exec_powerThrottle s : exec .powerThrottle s = execPowerThrottle s := rfl
theorem exec_thermalTrip s : exec .thermalTrip s = execThermalTrip s := rfl
theorem exec_boot s : exec .boot s = execBoot s := rfl
theorem exec_windowAccess s : exec .windowAccess s = execWindowAccess s := rfl
theorem exec_registerWrite s : exec .registerWrite s = execRegisterWrite s := rfl
theorem exec_textureResult s : exec .textureResult s = execTextureResult s := rfl
theorem exec_rayTestResult s : exec .rayTestResult s = execRayTestResult s := rfl
theorem exec_createComplete s : exec .createComplete s = execCreateComplete s := rfl
theorem exec_switchinComplete s : exec .switchinComplete s = execSwitchinComplete s := rfl
theorem exec_throttleCauseClears s : exec .throttleCauseClears s = execThrottleCauseClears s := rfl
theorem exec_ualinkPortUp s : exec .ualinkPortUp s = execUalinkPortUp s := rfl
theorem exec_joinConfirmation s : exec .joinConfirmation s = execJoinConfirmation s := rfl
theorem exec_ppsInputLoss s : exec .ppsInputLoss s = execPpsInputLoss s := rfl

end Sys2Proof.Machine
end

