-- ==== Sys2Proof/Laws/Paths.lean ====
section
/-! SUPPORT. What the operations of Machine/Paths.lean can do: the values a read on a path may give, and what keeping and bridging leave. -/

namespace Sys2Proof.Machine

/-- Keeping what scratch and tiles hold changes nothing else of the cohort. -/
theorem Cohort.keep_eq (c : Cohort) (p : MemPath) : c.keep p = { c with older := (c.keep p).older } := by
  unfold Cohort.keep
  split
  · split <;> rfl
  · rfl
@[simp] theorem Cohort.keep_key (c : Cohort) (p : MemPath) : (c.keep p).key = c.key := by rw [c.keep_eq p]
@[simp] theorem Cohort.keep_st (c : Cohort) (p : MemPath) : (c.keep p).st = c.st := by rw [c.keep_eq p]
@[simp] theorem Cohort.keep_residency (c : Cohort) (p : MemPath) : (c.keep p).residency = c.residency := by rw [c.keep_eq p]
@[simp] theorem Cohort.keep_relaunches (c : Cohort) (p : MemPath) : (c.keep p).relaunches = c.relaunches := by rw [c.keep_eq p]
@[simp] theorem Cohort.keep_scratchSize (c : Cohort) (p : MemPath) : (c.keep p).scratchSize = c.scratchSize := by rw [c.keep_eq p]
@[simp] theorem Cohort.keep_scratch (c : Cohort) (p : MemPath) : (c.keep p).scratch = c.scratch := by rw [c.keep_eq p]
@[simp] theorem Cohort.keep_bars (c : Cohort) (p : MemPath) : (c.keep p).bars = c.bars := by rw [c.keep_eq p]
@[simp] theorem Cohort.keep_caps (c : Cohort) (p : MemPath) : (c.keep p).caps = c.caps := by rw [c.keep_eq p]
@[simp] theorem Cohort.keep_tiles (c : Cohort) (p : MemPath) : (c.keep p).tiles = c.tiles := by rw [c.keep_eq p]
@[simp] theorem Cohort.keep_queues (c : Cohort) (p : MemPath) : (c.keep p).queues = c.queues := by rw [c.keep_eq p]
@[simp] theorem Cohort.keep_slotWaiting (c : Cohort) (p : MemPath) : (c.keep p).slotWaiting = c.slotWaiting := by rw [c.keep_eq p]
@[simp] theorem Cohort.keep_cell (c : Cohort) (p : MemPath) (x : ScrCell) : (c.keep p).cell x = c.cell x := by simp [Cohort.cell]
/-- Once a path is about to write, a read on any other path may give what stood there (R215). -/
theorem Cohort.keep_blind (c : Cohort) (p q : MemPath) (t : Nat) (h : p ≠ q) : (c.keep p).blind t q = true := by
  unfold Cohort.keep
  split
  · split
    · next o ho hc =>
      simp only [Bool.and_eq_true, decide_eq_true_eq, List.isEmpty_iff] at hc
      exact List.any_eq_true.2 ⟨o, List.mem_of_getLast? ho, by simp [OldScratch.known, hc.1.1, hc.1.2, h]⟩
    · simp [Cohort.blind, OldScratch.known, h]
  · simp [Cohort.blind, OldScratch.known, h]

@[simp] theorem Cohort.bridge_key (c : Cohort) (ts : List Nat) (ps : List MemPath) : (c.bridge ts ps).key = c.key := rfl
@[simp] theorem Cohort.bridge_scratch (c : Cohort) (ts : List Nat) (ps : List MemPath) : (c.bridge ts ps).scratch = c.scratch := rfl
@[simp] theorem Cohort.bridge_tiles (c : Cohort) (ts : List Nat) (ps : List MemPath) : (c.bridge ts ps).tiles = c.tiles := rfl
@[simp] theorem Cohort.bridge_cell (c : Cohort) (ts : List Nat) (ps : List MemPath) (x : ScrCell) : (c.bridge ts ps).cell x = c.cell x := rfl
/-- After a FENCE.X of a thread, its reads on a path of the set see every run of writes on a path of the set (R215). -/
theorem Cohort.bridge_known {c : Cohort} {ts : List Nat} {ps : List MemPath} {o : OldScratch} {t : Nat} {p : MemPath}
    (ho : o ∈ (c.bridge ts ps).older) (hp : o.path ∈ ps) (ht : t ∈ ts) (hq : p ∈ ps) : o.known t p = true := by
  obtain ⟨x, -, rfl⟩ := List.mem_map.1 ho
  by_cases hx : ps.contains x.path = true
  · simp only [hx, if_true, OldScratch.known] at hp ⊢
    by_cases e : x.path = p
    · simp [e]
    · simp only [Bool.or_eq_true, List.contains_iff_mem, List.mem_eraseDups, List.mem_append, List.mem_flatMap, List.mem_map,
        List.mem_filter, decide_eq_true_eq]
      exact .inr (.inr ⟨t, ht, p, ⟨hq, fun h => e h.symm⟩, rfl⟩)
  · simp only [hx] at hp
    exact absurd (List.contains_iff_mem.2 hp) hx
/-- A bridge takes no knowledge away. -/
theorem Cohort.bridge_blind {c : Cohort} {ts : List Nat} {ps : List MemPath} {t : Nat} {p : MemPath} (h : c.blind t p = false) :
    (c.bridge ts ps).blind t p = false := by
  simp only [Cohort.blind, List.any_eq_false, Cohort.bridge, List.mem_map, OldScratch.known] at h ⊢
  rintro _ ⟨o, ho, rfl⟩
  have := h o ho
  split
  · simp_all
  · exact this

@[simp] theorem Cohort.noteRead_key (c : Cohort) (t : Nat) (p : MemPath) (x : ScrCell) (n : Nat) : (c.noteRead t p x n).key = c.key := rfl
@[simp] theorem Cohort.noteRead_scratch (c : Cohort) (t : Nat) (p : MemPath) (x : ScrCell) (n : Nat) :
    (c.noteRead t p x n).scratch = c.scratch := rfl
@[simp] theorem Cohort.noteRead_tiles (c : Cohort) (t : Nat) (p : MemPath) (x : ScrCell) (n : Nat) : (c.noteRead t p x n).tiles = c.tiles := rfl

/-- The older values that a read may give stood before a run of writes that its thread need not see. -/
theorem oldValues_mem {t : Nat} {p : MemPath} {x : ScrCell} : ∀ {l : List (Nat × OldScratch)} {v : W32} {q : Nat × W32},
    q ∈ oldValues t p x l v → ∃ o ∈ l.map (·.2), o.known t p = false ∧ q.2 = o.cell x
  | (j, o) :: rest, v, q, h => by
    simp only [oldValues] at h
    split at h
    · split at h
      · obtain ⟨y, hy, r⟩ := oldValues_mem h
        exact ⟨y, List.mem_cons_of_mem _ hy, r⟩
      · cases h
    · next hk =>
      simp only [Bool.or_eq_true, not_or, Bool.not_eq_true] at hk
      rcases List.mem_cons.1 h with rfl | h
      · exact ⟨o, .head _, hk.1, rfl⟩
      · obtain ⟨y, hy, r⟩ := oldValues_mem h
        exact ⟨y, List.mem_cons_of_mem _ hy, r⟩
/-- A read gives the word, or what it held before a run of writes that its thread need not see (R214, R215). -/
theorem State.seeCell_value (s : State) (c : Cohort) (t : Nat) (p : MemPath) (x : ScrCell) (h : s.cohort? c.key = some c) :
    (s.seeCell c.key t p x).1 = c.cell x ∨ ∃ o ∈ c.older, o.known t p = false ∧ (s.seeCell c.key t p x).1 = o.cell x := by
  simp only [State.seeCell, h]
  split
  · exact .inl rfl
  · split
    · next v hv =>
      obtain ⟨o, ho, r⟩ := oldValues_mem (List.mem_of_getElem? hv)
      refine .inr ⟨o, ?_, r⟩
      obtain ⟨y, hy, rfl⟩ := List.mem_map.1 ho
      exact (List.of_mem_zip (List.mem_reverse.1 hy)).2
    · exact .inl rfl
/-- Where every reader sees every write, reads give what the words hold now, and no free value is spent. -/
theorem State.see_current (s : State) (c : Cohort) (p : MemPath) (l : List (Nat × ScrCell)) (h : ∀ x ∈ l, c.blind x.1 p = false) :
    s.see c p l = (fun _ x => c.cell x, s) := by
  have : (l.any fun x => c.blind x.1 p) = false := List.any_eq_false.2 fun x hx => by simp [h x hx]
  simp [State.see, this]
/-- The same of bytes of scratch. -/
theorem State.seeScratch_current (s : State) (c : Cohort) (p : MemPath) (n : Nat) (l : List (Nat × Nat)) (h : ∀ x ∈ l, c.blind x.1 p = false) :
    s.seeScratch c p n l = (fun _ o => c.readScratch o n, s) := by
  have : (l.any fun x => c.blind x.1 p) = false := List.any_eq_false.2 fun x hx => by simp [h x hx]
  simp [State.seeScratch, State.seeBytes, this]

end Sys2Proof.Machine
end

