-- ==== Sys2Proof/Laws/Xlate.lean ====
section
/-! SUPPORT. Translations: an entry that a structure holds is not entered again, and an access whose structures hold the table's
translation uses it and changes nothing. -/

namespace Sys2Proof.Machine
/-- A list of one value over and over is that value once. -/
theorem eraseDups_const {α : Type} [BEq α] [LawfulBEq α] (a : α) (l : List α) (h : ∀ x ∈ l, x = a) (hn : l ≠ []) :
    l.eraseDups = [a] := by
  cases l with
  | nil => exact absurd rfl hn
  | cons b l =>
    obtain rfl : b = a := h b (by simp)
    have hl : l.filter (fun x => !x == b) = [] := by
      rw [List.filter_eq_nil_iff]; intro x hx; simp [h x (by simp [hx])]
    simp [List.eraseDups_cons, hl]
/-- A structure that holds an entry takes no second one. -/
theorem State.enterTlb_mem (s : State) (e : TlbEntry) (h : e ∈ s.tlb) : s.enterTlb e = s := by
  simp [State.enterTlb, h]
/-- Structures that hold a translation are left as they are. -/
theorem State.fillTlb_mem (s : State) (ctx : Nat) (src : ReqSrc) (die va : Nat) (pte : W64) (size : Nat)
    (h : ∀ l ∈ fillsOf src die, { lvl := l, ctx := ctx, vbase := va / size * size, size := size, pte := pte } ∈ s.tlb) :
    s.fillTlb ctx src die va pte size = s := by
  unfold State.fillTlb
  generalize fillsOf src die = ls at h ⊢
  induction ls with
  | nil => rfl
  | cons l ls ih => rw [List.foldl_cons, s.enterTlb_mem _ (h l (by simp)), ih fun x hx => h x (by simp [hx])]
/-- A translation that the structures of its source hold, as the table has it, is used and changes nothing (R197, R201). -/
theorem State.xlate_held (s : State) (c : Context) (die : Nat) (src : ReqSrc) (va : W64) (k : AccK) (w : Who) (pte : W64) (size : Nat)
    (h1 : s.walk c src va.toNat = .leaf pte size) (h2 : s.tlbHits c.id src die va.toNat ≠ [])
    (h3 : ∀ e ∈ s.tlbHits c.id src die va.toNat, e.pte = pte ∧ e.size = size)
    (h4 : ∀ l ∈ fillsOf src die, { lvl := l, ctx := c.id, vbase := va.toNat / size * size, size := size, pte := pte } ∈ s.tlb) :
    s.xlate c die src va k w = (leafOutcome c va k w pte size, s) := by
  unfold State.xlate
  cases h : s.tlbHits c.id src die va.toNat with
  | nil => exact absurd h h2
  | cons e es =>
    rw [h] at h3
    have he : (((e :: es).map fun x => (x.pte, x.size)) ++ [(pte, size)]).eraseDups = [(pte, size)] := by
      refine eraseDups_const _ _ (fun p hp => ?_) (by simp)
      rcases List.mem_append.1 hp with hp | hp
      · obtain ⟨x, hx, rfl⟩ := List.mem_map.1 hp
        rw [(h3 x hx).1, (h3 x hx).2]
      · simpa using hp
    simp only [h1, he]
    simp [(h3 e (by simp)).1, (h3 e (by simp)).2, s.fillTlb_mem _ _ _ _ _ _ h4]
end Sys2Proof.Machine
end

