-- ==== Sys2Proof/Tests/Slice0.lean ====
section
/-! SUPPORT. Tests of the model: ill-formed terms, words of every family written from the encoding tables of the specification
(R46 to R53 and the tables of each family), what single instructions give by hand calculation, and states that meet the
hypotheses of the statements. -/

namespace Sys2Proof.Tests

open Sys2Proof Sys2Proof.Machine Sys2Proof.Claims

/-! Ill-formed operands (R49 to R53): one for each check. -/

theorem test_pair_is_even : (Instr.addI64 1 2 4).wf = false ∧ (Instr.addI64 2 126 4).wf = true := by decide
theorem test_wide_register_takes_pair : (Instr.rdsr 3 .clock).wf = false ∧ (Instr.rdsr 3 .lane).wf = true := by decide
theorem test_wide_integer_takes_pair : (Instr.cvtiItof 2 3 .i64 .f32 false .rne).wf = false := by decide
theorem test_load_kind_aligns : (Instr.ld 6 2 .n128 0).wf = false ∧ (Instr.ld 3 2 .n64 0).wf = false := by decide
theorem test_load_block_not_at_zero : (Instr.ld 0 2 .n128 0).wf = false := by decide
theorem test_store_kind_aligns : (Instr.st 2 2 .n128 0).wf = false ∧ (Instr.st 2 2 .n64 0).wf = true := by decide
theorem test_field_fits : (Instr.bfx 1 2 false 16 16).wf = false ∧ (Instr.bfx 1 2 false 16 15).wf = true := by decide
theorem test_insert_fits : (Instr.bfi 1 2 31 1).wf = false := by decide
theorem test_spectral_number : (Instr.wadd 32 0 0).wf = false ∧ (Instr.wadd 31 0 0).wf = true := by decide
theorem test_four_spectral : (Instr.wmuellerG 2 0 16).wf = false := by decide
theorem test_sixteen_slots : (Instr.wmuellerG 4 0 113).wf = false ∧ (Instr.wmuellerG 4 0 0).wf = false := by decide
theorem test_sixteen_spectral : (Instr.wmuellerW 4 0 8).wf = false := by decide
theorem test_fragment : (Instr.mma 1 32 0).wf = false ∧ (Instr.mma 1 48 64).wf = false := by decide
theorem test_eight_slots : (Instr.vxm 8 0 3).wf = false ∧ (Instr.vxm 4 16 3).wf = false := by decide
theorem test_sixteen_block : (Instr.emit 1 8 4).wf = false := by decide
theorem test_pushed_queue : (Instr.ldq 124 6 0).wf = false ∧ (Instr.ldq 119 6 0).wf = false := by decide
theorem test_popped_queue : (Instr.stq 123 6 0).wf = false ∧ (Instr.stq 124 6 0).wf = true := by decide
theorem test_second_pair_exists : (Instr.atomCas 126 6 .rlx .die).wf = false := by decide
theorem test_scratch_scope : (Instr.atomsAdd 1 2 .rlx .die).wf = false := by decide
theorem test_branch_reads_a_slot : (Instr.brz 0 4).wf = false := by decide
theorem test_conversion_changes_format : (Instr.cvt 1 2 .f32 .f32 .rne).wf = false := by decide
theorem test_two_paths : (Instr.fenceX .die 1).wf = false ∧ (Instr.fenceX .die 3).wf = true := by decide

/-! Words of each family. -/

/-- Integer (R68 to R74). -/
theorem test_decode_1 :
    decodeWord 0x04007FC0#32 = .ok (.ror 1 127 64) ∧
    decodeWord 0x0600BF04#32 = .ok (.addI64 2 126 4) ∧
    decodeWord 0x080C27FF#32 = .ok (.addi 3 4 0x7FF) ∧
    decodeWord 0x140C201F#32 = .ok (.shli 3 4 31) ∧
    decodeWord 0x160C249B#32 = .ok (.bfx 3 4 true 4 27) ∧
    decodeWord 0x1C0E0001#32 = .ok (.lui 3 0x20001) ∧
    decodeWord 0x2C0C2505#32 = .ok (.idp4 3 4 5 true false true) := by
  repeat' constructor
/-- Floating point (R75 to R86). -/
theorem test_decode_2 :
    decodeWord 0x20041783#32 = .ok (.fadd 1 2 3 .fx19 .dyn) ∧
    decodeWord 0x28004103#32 = .ok (.fmin 1 2 3) ∧
    decodeWord 0x28404100#32 = .ok (.fneg 1 2) ∧
    decodeWord 0x28A04103#32 = .ok (.fseq 1 2 3) ∧
    decodeWord 0x29204100#32 = .ok (.frcp 1 2) ∧
    decodeWord 0x2A004103#32 = .ok (.haddBf16 1 2 3) ∧
    decodeWord 0x2BA04103#32 = .ok (.pk2Bf16 1 2 3) := by
  repeat' constructor
/-- Control (R88 to R100). -/
theorem test_decode_3 :
    decodeWord 0x3417FFFF#32 = .ok (.br 5 0x3FFFF) ∧
    decodeWord 0x38180002#32 = .ok (.call 6 2) ∧
    decodeWord 0x3C600055#32 = .ok (.trap 0x55) ∧
    decodeWord 0x3CA0007F#32 = .ok (.sys 0x7F) ∧
    decodeWord 0x3CC00000#32 = .ok (.eret) ∧
    decodeWord 0x3C200000#32 = .ok (.exit) ∧
    decodeWord 0x3C400000#32 = .ok (.yield) ∧
    decodeWord 0x3D000000#32 = .ok (.halt) ∧
    decodeWord 0x3CE00000#32 = .ok (.fenceI) := by
  repeat' constructor
/-- Packets and sampling (R106 to R115). -/
theorem test_decode_4 :
    decodeWord 0x4007C082#32 = .ok (.wadd 31 1 2) ∧
    decodeWord 0x40C0C082#32 = .ok (.watt 3 1 2) ∧
    decodeWord 0x411FCF80#32 = .ok (.whsum 127 31) ∧
    decodeWord 0x4147FF80#32 = .ok (.wsplat 31 127) ∧
    decodeWord 0x41A08180#32 = .ok (.wpack 2 3) ∧
    decodeWord 0x41C70210#32 = .ok (.wmuellerG 28 4 16) ∧
    decodeWord 0x42004103#32 = .ok (.qsampF32 1 2 3) := by
  repeat' constructor
/-- Groups, barriers and matrices (R147 to R170). -/
theorem test_decode_5 :
    decodeWord 0x44000480#32 = .ok (.join 9) ∧
    decodeWord 0x44200000#32 = .ok (.leave) ∧
    decodeWord 0x44C04100#32 = .ok (.voteAny 1 2) ∧
    decodeWord 0x4600000F#32 = .ok (.barSync 15) ∧
    decodeWord 0x46041083#32 = .ok (.barAddI32 1 2 3) ∧
    decodeWord 0x48005040#32 = .ok (.mma 1 32 64) ∧
    decodeWord 0x48220803#32 = .ok (.vxm 8 16 3) ∧
    decodeWord 0x4A0824FF#32 = .ok (.accrd 2 4 9 true 63) ∧
    decodeWord 0x4E0021FF#32 = .ok (.accz 4 0x1FF) := by
  repeat' constructor
/-- Memory (R229 to R242). -/
theorem test_decode_6 :
    decodeWord 0x50203680#32 = .ok (.ld 8 6 .n128 0x80) ∧
    decodeWord 0x5E7C3001#32 = .ok (.ldw 31 6 1) ∧
    decodeWord 0x61EC3001#32 = .ok (.ldq 123 6 1) ∧
    decodeWord 0x62043074#32 = .ok (.atomAdd 1 6 .acqrel .pod) ∧
    decodeWord 0x62103480#32 = .ok (.atomCas 4 6 .rlx .thread) ∧
    decodeWord 0x6208362C#32 = .ok (.atomBf16x2 2 6 .acq .die) ∧
    decodeWord 0x620836D0#32 = .ok (.facc 2 6 .rel .device) ∧
    decodeWord 0x66000003#32 = .ok (.fence .die) ∧
    decodeWord 0x68010400#32 = .ok (.tex 4 8) := by
  repeat' constructor
/-- Rays (R244 to R248). -/
theorem test_decode_7 :
    decodeWord 0x6A020806#32 = .ok (.boxt 8 16 6) ∧
    decodeWord 0x6A210806#32 = .ok (.trit 4 16 6) ∧
    decodeWord 0x6A420806#32 = .ok (.xfrm 8 16 6) := by
  repeat' constructor
/-- Copies, barriers and logical time (R307 to R325). -/
theorem test_decode_8 :
    decodeWord 0x6C4020FF#32 = .ok (.cpyreq 16 4 0xFF) ∧
    decodeWord 0x6E000082#32 = .ok (.nbarInit 1 2) ∧
    decodeWord 0x6E80C082#32 = .ok (.nbarTest 3 1 2) ∧
    decodeWord 0x7000D004#32 = .ok (.emit 3 32 4) ∧
    decodeWord 0x70400184#32 = .ok (.capk 3 4) ∧
    decodeWord 0x70A00184#32 = .ok (.fwait 3 4) ∧
    decodeWord 0x71000300#32 = .ok (.launch 6) ∧
    decodeWord 0x71200305#32 = .ok (.tlw 6 5) := by
  repeat' constructor

/-! States that meet the hypotheses of the statements. All of them are the small state in which a given word runs next (log entry 9), with
what a statement asks for put into it. -/

set_option maxRecDepth 100000

/-- The page tables that map virtual address 0, as bytes of memory. -/
def tables : List Host.Cell :=
  [(0x10000, 3), (0x10002, 2), (0x20000, 3), (0x20002, 3), (0x30000, 3), (0x30001, 0x10), (0x30002, 3), (0x31000, 0x1D), (0x31002, 4)]
theorem tables_of_fetch : (State.reset.withFetchWord 32 0).mem = tables := by decide
/-- One thread in supervisor mode, issuing. -/
def base : State :=
  let s := State.reset.withFetchWord 32 0
  { s.forSlot 0 0 with mem := tables }
def ck0 : CohKey := { ctx := 1, launch := 1, coh := 0 }
def gk0 : GrpKey := { ck := ck0, gid := 0 }
def k0 : ThKey := { ck := ck0, tid := 0, addr := false }
def i0 : Iss :=
  { core := 0, slot := 0, run := { gk := gk0, addr := false, members := [0], pc := 0, startPc := 0, e := false, count := 0,
                                   noMatch := false, single := false, stalledSince := none, waits := [] } }
/-- The thread changed. -/
def onThread (s : State) (f : Thread → Thread) : State := s.setThreads (s.threads.map f)
/-- The registers of the thread set. -/
def withRegs (s : State) (l : Sparse W32) : State := onThread s fun m => { m with regs := l }
/-- The thread in user mode, with flags enabled. -/
def withStatus (s : State) (v : W32) : State := onThread s fun m => { m with status := v }
/-- The context changed. -/
def onContext (s : State) (f : Context → Context) : State := s.updContext 1 f
def ctxOf (s : State) : Context := (s.context? 1).getD probeContext
def cohOf (s : State) : Cohort := (s.cohort? ck0).getD (Cohort.mk ck0 .waiting 0 0 0 [] [] [] [] [] [] [])
def grpOf (s : State) : Sys2Proof.Machine.Group := (s.group? gk0).getD (Sys2Proof.Machine.Group.mk gk0 0 [] [] 0 0 0 0)
def thOf (s : State) : Thread :=
  s.threads.headD { key := k0, role := 0, split := false, gid := 0, gallot := 0, wallot := 0, regs := [], wregs := [], wb := 0, visit := 0,
                    status := 0, trap := 0, xpc := 0, xsup := false, time := 0, phase := .start 0 1, exited := false, join := none,
                    recSeq := 0 }
/-- Whether an entry may execute, as a test. -/
def readyB (s : State) (i : Iss) (st : Stream) (fs : List Fld) : Bool :=
  decide (s.issuing = some i) && (s.members i).all fun m =>
    decide (m.operandTrap st fs = none) && decide (s.queueDead m fs = none) && decide (s.queueWait m fs = none) &&
      fs.all fun f => decide (s.fieldBusy m f = false)
theorem ready_of {s i st fs} (h : readyB s i st fs = true) : Ready s i st fs := by
  simp only [readyB, Bool.and_eq_true, decide_eq_true_eq, List.all_eq_true] at h
  exact ⟨h.1, fun m hm => (h.2 m hm).1.1.1, fun m hm => (h.2 m hm).1.1.2, fun m hm => (h.2 m hm).1.2, fun m hm => (h.2 m hm).2⟩
/-- The first member of which something holds, where it is the first of all. -/
theorem first_of {s i p m post} (h : s.members i = m :: post) (hp : p m) : First s i p m := ⟨[], post, h, hp, by simp⟩
/-- What a copy engine has written to a cohort's scratch and an MMA to its tile 511, of which nothing is bridged. -/
def apart (c : Cohort) : Cohort :=
  { c with older := [{ path := .copy, scratch := [(65532, 7)], tiles := [], seen := [], read := [] },
                     { path := .acc, scratch := [], tiles := [{ no := 511, elems := [(0, 5#32)] }], seen := [], read := [] }] }
/-- Scratch and tiles of which every read sees every write; the thread has bridged the GEN and COPY paths. -/
def bridged (c : Cohort) : Cohort :=
  { c with older := [{ path := .copy, scratch := [(65532, 7)], tiles := [], seen := [(0, .gen), (0, .acc)], read := [] }] }

/-! What single instructions give, by hand calculation. -/

/-- General register `k` of the thread after an instruction from given registers. -/
def gives (i : Instr) (l : Sparse W32) (k : Nat) : Option W32 :=
  match exec i (withRegs base l) with
  | .next t => t.threads.head?.map fun m => sget 0 m.regs k
  | .fault _ => none
  | .refused _ => none
/-- The flags of the thread after an instruction, and the causes of its context's stop. -/
def flagsAfter (i : Instr) (l : Sparse W32) : Option (Nat × List Nat) :=
  match exec i (withRegs base l) with
  | .next t => some ((thOf t).status.toNat % 32, (ctxOf t).traps.map (·.cause))
  | .fault _ => none
  | .refused _ => none
theorem test_add_wraps : gives (.add 5 6 7) [(6, 0xFFFFFFFF), (7, 2)] 5 = some 1 := by decide
theorem test_sub_source_is_destination : gives (.sub 6 7 6) [(6, 3), (7, 1)] 6 = some 0xFFFFFFFE := by decide
theorem test_mulhi_signed : gives (.mulhiI32 5 6 7) [(6, 0xFFFFFFFF), (7, 1)] 5 = some 0xFFFFFFFF := by decide
theorem test_mulhi_unsigned : gives (.mulhiN32 5 6 7) [(6, 0xFFFFFFFF), (7, 1)] 5 = some 0 := by decide
theorem test_slot_zero_discards : gives (.add 0 6 7) [(6, 1), (7, 1)] 0 = some 0 := by decide
theorem test_sra_sign : gives (.srai 5 6 31) [(6, 0x80000000)] 5 = some 0xFFFFFFFF := by decide
theorem test_clz_zero : gives (.clz 5 6) [] 5 = some 32 := by decide
theorem test_slt_signed : gives (.sltI32 5 6 7) [(6, 0x80000000), (7, 1)] 5 = some 1 := by decide
theorem test_addi_negative : gives (.addi 5 6 0x7FF) [(6, 0)] 5 = some 0xFFFFFFFF := by decide
theorem test_bfx_signed : gives (.bfx 5 6 true 4 3) [(6, 0xF8)] 5 = some 0xFFFFFFFF := by decide
theorem test_lui : gives (.lui 5 0x20001) [] 5 = some 0x80004000 := by decide
theorem test_add64_carry : gives (.addI64 4 6 8) [(6, 0xFFFFFFFF), (8, 1)] 5 = some 1 := by decide
theorem test_fadd_exact : gives (.fadd 5 6 7 .f32 .rne) [(6, 0x3F800000), (7, 0x3F800000)] 5 = some 0x40000000 := by decide
theorem test_fadd_invalid : flagsAfter (.fadd 5 6 7 .f32 .rne) [(6, 0x7F800000), (7, 0xFF800000)] = some (16, []) := by decide
theorem test_fmul_inexact : flagsAfter (.fmul 5 6 7 .f32 .rne) [(6, 0x3F800001), (7, 0x3F800001)] = some (1, []) := by decide
theorem test_trap_halts : flagsAfter (.trap 5) [] = some (0, [0x0D]) := by decide
theorem test_wrsr_reserved_rounding : flagsAfter (.wrsr 6 .status) [(6, 0x500)] = some (0, [0x01]) := by decide
theorem test_call_links : gives (.call 6 4) [] 6 = some 4 := by decide

/-! Witnesses: registers, control and traps. -/

theorem wit_IntArith : (Instr.add 5 6 7).wf = true ∧ Ready base i0 .both [.dg 5, .g 6, .g 7] ∧
    Ready base i0 .both [.dg 127, .g 127] ∧ Ready base i0 .both [.rwg 0, .g 127, .g 0] :=
  ⟨rfl, ready_of (by decide), ready_of (by decide), ready_of (by decide)⟩
theorem wit_IntWide : (Instr.addI64 126 126 0).wf = true ∧ Ready base i0 .both [.dgs 126 2, .gs 126 2, .gs 0 2] ∧
    (Instr.bfx 5 6 true 31 0).wf = true ∧ (Instr.idp4 5 6 7 true true true).wf = true ∧
    Ready base i0 .compute [.rwg 5, .g 6, .g 7] ∧ Ready base i0 .both [.rwg 5] :=
  ⟨rfl, ready_of (by decide), rfl, rfl, ready_of (by decide), ready_of (by decide)⟩
theorem wit_FpArith : ∃ f, (Instr.fadd 5 6 7 .f32 .dyn, f) ∈ fpArith 5 6 7 .f32 .dyn ∧ Ready base i0 .compute f.fields ∧
    ∀ m ∈ base.members i0, (f.res m (base.readFields m f.fields)).1 &&& enabled m = 0 :=
  ⟨_, .head _, ready_of (by decide), by decide⟩
theorem wit_FpForms : ∃ f, (Instr.fmin 5 6 7, f) ∈ fpForms 5 6 7 ∧ Ready base i0 .compute f.fields ∧
    ∀ m ∈ base.members i0, (f.res m (base.readFields m f.fields)).1 &&& enabled m = 0 :=
  ⟨_, .head _, ready_of (by decide), by decide⟩
theorem wit_FpUnary : (∃ f, (Instr.fneg 5 6, f) ∈ fpUnary 5 6 7 ∧ Ready base i0 .compute f.fields ∧
      ∀ m ∈ base.members i0, (f.res m (base.readFields m f.fields)).1 &&& enabled m = 0) ∧
    ∃ f, (Instr.cvt 5 6 .f32 .bf16 .rne, f) ∈ fpConvert 5 6 .f32 .bf16 .i64 .f32 false .rne ∧
      (Instr.cvt 5 6 .f32 .bf16 .rne).wf = true ∧ Ready base i0 .compute f.fields ∧
      ∀ m ∈ base.members i0, (f.res m (base.readFields m f.fields)).1 &&& enabled m = 0 :=
  ⟨⟨_, .head _, ready_of (by decide), by decide⟩, _, .head _, rfl, ready_of (by decide), by decide⟩
theorem wit_Packets : (Instr.wadd 31 0 1).wf = true ∧ Ready base i0 .compute [.dw 31, .w 0, .w 1] ∧
    (Instr.watt 3 1 2).wf = true ∧ Ready base i0 .compute [.dw 3, .w 1, .w 2] ∧
    (Instr.wmuellerG 28 4 112).wf = true ∧ Ready base i0 .compute [.dw 28 4, .w 4 4, .gs 112 16] ∧
    (∀ m ∈ base.members i0, ∀ f : Fl, f &&& enabled m = 0) :=
  ⟨rfl, ready_of (by decide), rfl, ready_of (by decide), rfl, ready_of (by decide), by decide⟩
/-- 1.0 plus the least subnormal is inexact, and the member has that flag enabled. -/
def trapsFp : State := withRegs (withStatus base 0x801F0000#32) [(6, 0x3F800000#32), (7, 1#32)]
theorem wit_FpException : ∃ f, (Instr.fadd 5 6 7 .f32 .rne, f) ∈ fpArith 5 6 7 .f32 .rne ∧ Ready trapsFp i0 .compute f.fields ∧
    First trapsFp i0 (fun m => (f.res m (trapsFp.readFields m f.fields)).1 &&& enabled m ≠ 0) (thOf trapsFp) :=
  ⟨_, .head _, ready_of (by decide), first_of (post := []) (by decide) (by decide)⟩
/-- Jump targets: legal, out of range, misaligned. -/
def jumps (v : W64) : State := withRegs base ([(6, lo32 v), (7, hi32 v)].filter fun x => x.2 != 0)
theorem wit_Branches : Ready base i0 .both [.g 5] ∧ (Instr.brz 5 0).wf = true ∧ (Instr.jmp 6).wf = true ∧
    (Ready (jumps 0x00FFFFFFFFFFFFFC) i0 .both [.gs 6 2] ∧
      ∀ m ∈ (jumps 0x00FFFFFFFFFFFFFC).members i0, let r := (jumps 0x00FFFFFFFFFFFFFC).readFields m [.gs 6 2]
        inRange (r.p 0) ∧ aligned4 (r.p 0)) ∧
    (Ready (jumps 0x0100000000000000) i0 .both [.gs 6 2] ∧
      First (jumps 0x0100000000000000) i0 (fun m => ¬inRange (((jumps 0x0100000000000000).readFields m [.gs 6 2]).p 0))
        (thOf (jumps 0x0100000000000000))) ∧
    (Ready (jumps 2) i0 .both [.gs 6 2] ∧ (∀ u ∈ (jumps 2).members i0, inRange (((jumps 2).readFields u [.gs 6 2]).p 0)) ∧
      First (jumps 2) i0 (fun m => ¬aligned4 (((jumps 2).readFields m [.gs 6 2]).p 0)) (thOf (jumps 2))) := by
  refine ⟨ready_of (by decide), rfl, rfl, ⟨ready_of (by decide), ?_⟩, ⟨ready_of (by decide), first_of (post := []) (by decide) ?_⟩,
    ready_of (by decide), ?_, first_of (post := []) (by decide) ?_⟩
  all_goals (try unfold inRange); (try unfold aligned4); decide
theorem wit_SpecialRegisters :
    (Ready base i0 .both [] ∧ (∀ m ∈ base.members i0, legalBase m (8 * ux (15 : BitVec 7))) ∧
      First base i0 (fun m => ¬legalBase m (8 * ux (16 : BitVec 7))) (thOf base) ∧
      First base i0 (fun m => ¬legalBase m (m.wb + 8 * sx (0x7F : BitVec 7))) (thOf base)) ∧
    (Ready base i0 .both [.dgs 4 2] ∧ ∀ m ∈ base.members i0, m.status.toNat / 2 ^ 26 % 4 = 0) ∧
    (let s := withRegs (withStatus base 0) [(5, 0x00000500#32)]
     Ready s i0 .both [.g 5] ∧ First s i0 (fun m => 5 ≤ rmOf ((s.readFields m [.g 5]).x 0)) (thOf s)) ∧
    (let s := withRegs (withStatus base 0) [(5, 0x00010400#32)]
     Ready s i0 .both [.g 5] ∧ (∀ u ∈ s.members i0, ¬5 ≤ rmOf ((s.readFields u [.g 5]).x 0)) ∧
     First s i0 (fun m => ¬supervisor m ∧ ((s.readFields m [.g 5]).x 0).extractLsb' 16 5 ≠ enabled m) (thOf s)) ∧
    (let s := withRegs base [(5, 0x001F041F#32)]
     Ready s i0 .both [.g 5] ∧ ∀ m ∈ s.members i0, ¬5 ≤ rmOf ((s.readFields m [.g 5]).x 0) ∧
       ¬(¬supervisor m ∧ ((s.readFields m [.g 5]).x 0).extractLsb' 16 5 ≠ enabled m)) ∧
    (base.members i0).head? = some (thOf base) := by
  refine ⟨⟨ready_of (by decide), ?_, first_of (post := []) (by decide) ?_, first_of (post := []) (by decide) ?_⟩,
    ⟨ready_of (by decide), by decide⟩, ⟨ready_of (by decide), first_of (post := []) (by decide) (by decide)⟩,
    ⟨ready_of (by decide), by decide, first_of (post := []) (by decide) ?_⟩, ⟨ready_of (by decide), ?_⟩, by decide⟩
  all_goals (try unfold legalBase); (try unfold supervisor); decide
theorem wit_NopYieldTraps : Ready base i0 .both [] ∧ (base.members i0).head? = some (thOf base) ∧
    ∀ u ∈ base.members i0, supervisor u := ⟨ready_of (by decide), by decide, by unfold supervisor; decide⟩
theorem wit_UserMode : let s := withStatus base 0
    First s i0 (fun m => ¬supervisor m) (thOf s) ∧ Ready s i0 .both [] ∧ (Instr.tlw 6 5).wf = true ∧
      Ready s i0 .compute [.gs 6 2, .g 5] :=
  ⟨first_of (post := []) (by decide) (by unfold supervisor; decide), ready_of (by decide), rfl, ready_of (by decide)⟩
theorem wit_Return : Ready base i0 .both [] ∧ ∀ m ∈ base.members i0, supervisor m :=
  ⟨ready_of (by decide), by unfold supervisor; decide⟩
theorem wit_TakeTrap : base.issuing = some i0 ∧ (base.group? gk0).isSome = true ∧
    ∃ c, base.context? 1 = some c ∧ c.st = .running := ⟨by decide, by decide, ctxOf base, by decide, by decide⟩
theorem wit_SlotRules : let m := thOf base
    swf 0 m.regs = true ∧ m.mayRun .both = true ∧ [Fld.g 127, .dw 31].any m.badQueue = false ∧
    m.operandTrap .both [.g 127, .dw 31] = none ∧ ({ m with gallot := 127 }).operandTrap .both [.g 127] = some (.range 127 false) ∧
    (m.split = false ∧ ({ m with split := true }).split = true) := by decide

/-! Witnesses: decoding and steps. -/

theorem wit_EncodeDecode_DecodeEncode : (Instr.addI64 126 126 0).wf = true ∧ encode true (.addI64 126 126 0) = some 0x861FBF00#32 ∧
    decodeWord 0x861FBF00#32 = .ok (.addI64 126 126 0) := ⟨rfl, by decide, rfl⟩
/-- The leaf of the page that is mapped. -/
def pte0 : W64 := 0x4001D#64
/-- Virtual address 0 is mapped to 0x4_0000, and core 0 and its die have the leaf cached. -/
def cached (s : State) : State :=
  { s with tlb := [.micro 0, .core 0, .shared 0].map fun l => { lvl := l, ctx := 1, vbase := 0, size := 65536, pte := pte0 } }
/-- The device about to run ADD g5, g8, g7. -/
def next : State := cached (State.reset.withFetchWord 32 0x02014407)
theorem mapped_of {s c i va pte size} (h1 : s.walk c (.core i.core) va.toNat = .leaf pte size)
    (h2 : 0 < size ∧ (∀ l ∈ [TlbAt.micro i.core, .core i.core, .shared (physDie i.core)],
        { lvl := l, ctx := c.id, vbase := va.toNat / size * size, size := size, pte := pte } ∈ s.tlb) ∧
      ∀ e ∈ s.tlbHits c.id (.core i.core) (physDie i.core) va.toNat, e.pte = pte ∧ e.size = size)
    (h3 : pteRemote c.self pte = none) : Mapped s c i va pte size := ⟨h1, h2.1, h2.2.1, h2.2.2, h3⟩
theorem wit_StepDecoded : ∃ s0, next.choose = (some (.slot 0 0), s0) ∧ (s0.forSlot 0 0).issuing = some i0 ∧ s0.members i0 ≠ [] ∧
    s0.context? 1 = some (ctxOf next) ∧ Mapped s0 (ctxOf next) i0 0 pte0 65536 ∧
    (∀ m ∈ s0.members i0, permTrap 0 .fetch m.who pte0 = none) ∧ pteAddr pte0 + 0 % 65536 = 0x40000 ∧
    s0.refused (.core 0) (0x40000 / 64) = false ∧ s0.poisoned 0x40000 4 = false ∧ (s0.core 0).fetchBuf = [] ∧
    w32 (leNat (Memory.read s0.mem 0x40000 4)) = 0x02014407#32 :=
  ⟨_, rfl, by decide, by decide, by decide, mapped_of (by decide) (by decide) (by decide), by decide, by decide, by decide, by decide,
    by decide, by decide⟩
theorem wit_StepEvent : ∃ s0, State.reset.choose = (some (.event .boot .none), s0) ∧ State.reset.frozen = false := ⟨_, rfl, rfl⟩
theorem wit_StepsGoOn : ∀ x ∈ State.reset.inputs, ∀ e, encode e x.1 = none := by intro x h; cases h
theorem wit_MemoryCanonical : next.memOk ∧ ∃ t, step next = .next t := ⟨by unfold State.memOk; decide, _, rfl⟩

/-! Witnesses: system calls, groups, fences and barriers. -/

/-- The cohort changed. -/
def onCohort (s : State) (f : Cohort → Cohort) : State := s.updCohort ck0 f
/-- Named barrier 3 of the cohort changed. -/
def onBar (s : State) (f : Barrier → Barrier) : State := onCohort s fun c => { c with bars := c.bars.set 3 (f (c.bar 3)) }
/-- A second thread in the group. -/
def pair : State := base.updGroup gk0 fun g => { g with members := [0, 1] }
/-- Lines in the L1 of core 0. -/
def withLines (s : State) (l : List L1Line) : State := s.updCore 0 fun c => { c with l1 := l }
/-- A whole line of this device. -/
def wholeLine (tag : PathTag) (n : Nat) (dirty : Bool) (data : Bytes) : L1Line :=
  { vdev := none, line := n, tag := tag, checked := false, valid := [true, true], dirty := List.replicate 64 dirty,
    data := (data ++ List.replicate 64 0).take 64, owner := none }

theorem wit_SystemCall :
    (Ready base i0 .both [] ∧ First base i0 supervisor (thOf base)) ∧
    (let s := cached (withStatus base 0)
     Ready s i0 .both [] ∧ s.context? 1 = some (ctxOf s) ∧ (∀ m ∈ s.members i0, ¬supervisor m) ∧ s.reqs = [] ∧ s.pins = [] ∧
       wrapTo 64 (ux (ctxOf s).desc.syscall + 8 * ux (0 : BitVec 7)) = (0 : W64) ∧ Mapped s (ctxOf s) i0 0 pte0 65536 ∧
       permTrap 0 .load .device pte0 = none ∧ s.poisoned 0x40000 8 = false ∧ (s.members i0).head? = some (thOf s) ∧
       w64 (leNat (Memory.read s.mem 0x40000 8)) = 0) ∧
    let s := cached (withStatus ((State.reset.withFetchWord 32 0x1000).forSlot 0 0) 0)
    Mapped s (ctxOf s) i0 0 pte0 65536 ∧ w64 (leNat (Memory.read s.mem 0x40000 8)) = 0x1000#64 ∧ aligned4 0x1000#64 ∧ inRange 0x1000#64 :=
  ⟨⟨ready_of (by decide), first_of (post := []) (by decide) (by unfold supervisor; decide)⟩,
   ⟨ready_of (by decide), by decide, by unfold supervisor; decide, by decide, by decide, by decide,
    mapped_of (by decide) (by decide) (by decide), by decide, by decide, by decide, by decide⟩,
   mapped_of (by decide) (by decide) (by decide), by decide, by unfold aligned4; decide, by unfold inRange; decide⟩
theorem noArrivals_base : noArrivals base i0 := by
  intro c h
  have e : base.cohort? ck0 = some (cohOf base) := by decide
  obtain rfl : cohOf base = c := by simpa [i0, gk0] using e.symm.trans h
  decide
theorem wit_ExitJoinLeave : noArrivals base i0 ∧ i0.run.members.Nodup ∧ Ready base i0 .both [] ∧ Ready base i0 .unsplit [.g 127] ∧
    i0.run.addr = false ∧ Ready base i0 .unsplit [] ∧ i0.run.gk.gid < 2048 ∧ (base.group? gk0).isSome = true ∧
    ∀ m ∈ base.members i0, base.group? { i0.run.gk with gid := 2048 + m.key.tid } = none :=
  ⟨noArrivals_base, by decide, ready_of (by decide), ready_of (by decide), by decide, ready_of (by decide), by decide, by decide, by decide⟩
/-- A dirty GEN line and an RO line. -/
def lined : State := withLines base [wholeLine .gen 0x1000 true [1], wholeLine .ro 0x1001 false []]
theorem linesOk_lined : LinesOk lined 0 := ⟨by decide, by decide, by unfold State.memOk; decide⟩
theorem wit_Fences : Ready lined i0 .both [] ∧ lined.reqs = [] ∧ lined.pins = [] ∧ LinesOk lined 0 ∧
    (∀ c, lined.context? 1 = some c → c.pod.held = []) ∧ wideScope .die = true ∧ wideScope .thread = false ∧
    (lined.dirtyLines 0).length = 1 := by
  refine ⟨ready_of (by decide), by decide, by decide, linesOk_lined, ?_, by decide, by decide, by decide⟩
  intro c h
  obtain rfl : ctxOf lined = c := by simpa using (show lined.context? 1 = some (ctxOf lined) by decide).symm.trans h
  decide
theorem wit_Shuffles : Ready base i0 .compute [.dg 5, .g 6, .g 7] ∧ base.group? gk0 = some (grpOf base) ∧ (grpOf base).members.Nodup ∧
    ∀ u ∈ i0.run.members, u ∈ (grpOf base).members := ⟨ready_of (by decide), by decide, by decide, by decide⟩
theorem mayArrive_of {s : State} {c g} (h1 : s.reqs = []) (h2 : s.dirtyLines 0 = []) (h3 : s.cohort? ck0 = some c) (h4 : c.bars.length = 16)
    (h5 : s.group? gk0 = some g) (h6 : ∀ u ∈ i0.run.members, u ∈ g.members ∧ ∀ a ∈ (c.bar 3).arrivals, a.tid ≠ u)
    (h7 : (s.members i0).map (·.key.tid) = [0]) : MayArrive s i0 3 c g :=
  ⟨h1, h2, h3, h4, h5, h6, by decide, h7, by decide⟩
/-- The arrival of another thread with ADD.i32. -/
def other : Arrival := { tid := 1, addr := false, waits := true, op := .addI, x := 1, d := 5 }
theorem wit_BarPhases :
    (Ready pair i0 .compute [.dg 5, .g 6] ∧ MayArrive pair i0 3 (cohOf pair) (grpOf pair) ∧ ((cohOf pair).bar 3).arrivals = [] ∧
      1 ∈ (grpOf pair).members ∧ 1 ∉ i0.run.members) ∧
    (let s := onBar pair fun b => { b with arrivals := [other] }
     MayArrive s i0 3 (cohOf s) (grpOf s) ∧ (s.members i0).head? = some (thOf s) ∧
       other ∈ ((cohOf s).bar 3).arrivals ∧ other.op ≠ .addF) ∧
    (MayArrive base i0 3 (cohOf base) (grpOf base) ∧ (grpOf base).members = i0.run.members ∧ (grpOf base).frontier = [] ∧
      (cohOf base).bar 3 = Barrier.fresh 1) ∧
    let s := onBar base fun b => { b with expa := 0 }
    MayArrive s i0 3 (cohOf s) (grpOf s) ∧ (cohOf s).bar 3 = Barrier.fresh 0 ∧ (s.members i0).head? = some (thOf s) :=
  ⟨⟨ready_of (by decide), mayArrive_of (by decide) (by decide) (by decide) (by decide) (by decide) (by decide) (by decide), by decide,
    by decide, by decide⟩,
   ⟨mayArrive_of (by decide) (by decide) (by decide) (by decide) (by decide) (by decide) (by decide), by decide, by decide, by decide⟩,
   ⟨mayArrive_of (by decide) (by decide) (by decide) (by decide) (by decide) (by decide) (by decide), by decide, by decide, by decide⟩,
   mayArrive_of (by decide) (by decide) (by decide) (by decide) (by decide) (by decide) (by decide), by decide, by decide⟩
theorem wit_NamedBarriers :
    (let s := withRegs base [(6, 1)]
     s.cohort? ck0 = some (cohOf s) ∧ (cohOf s).bars.length = 16 ∧ Ready s i0 .compute [.g 6] ∧ (s.members i0).getLast? = some (thOf s) ∧
       (cohOf s).bar 3 = Barrier.fresh 1 ∧ (∀ m ∈ s.members i0, ((s.readFields m [.g 6]).x 0).getLsbD 0 ≠ ((cohOf s).bar 3).phase) ∧
       ((s.members i0).map fun m => ux ((s.readFields m [.g 6]).x 0)).sum = 1) ∧
    (let s := onBar base fun b => { b with arr := 1, expb := 2 ^ 32 - 1, pend := 2 ^ 31 - 1 }
     (s.members i0).head? = some (thOf s) ∧ ((cohOf s).bar 3).arr ≠ 0 ∧ Ready s i0 .compute [.g 6]) ∧
    (let s := withRegs (onBar base fun b => { b with expb := 2 ^ 32 - 1 }) [(6, 1)]
     2 ^ 32 - 1 < ((cohOf s).bar 3).expb + ((s.members i0).map fun m => ux ((s.readFields m [.g 6]).x 0)).sum) ∧
    (∃ m ∈ base.members i0, ((base.readFields m [.g 6]).x 0).getLsbD 0 = ((cohOf base).bar 3).phase) ∧
    (base.group? gk0).isSome = true ∧
    (Ready pair i0 .compute [] ∧ MayArrive pair i0 3 (cohOf pair) (grpOf pair) ∧ 1 ∈ (grpOf pair).members ∧ 1 ∉ i0.run.members) ∧
    Ready base i0 .compute [.dg 5, .g 6] ∧ (∀ m ∈ base.members i0, m.status.toNat / 2 ^ 26 % 4 = 0) :=
  ⟨⟨by decide, by decide, ready_of (by decide), by decide, by decide, by decide, by decide⟩,
   ⟨by decide, by decide, ready_of (by decide)⟩, by decide, by decide, by decide,
   ⟨ready_of (by decide), mayArrive_of (by decide) (by decide) (by decide) (by decide) (by decide) (by decide) (by decide), by decide,
    by decide⟩, ready_of (by decide), by decide⟩

/-! Witnesses: memory. -/

theorem wit_Addresses :
    (let s := withRegs base [(7, 0x01000000#32)]
     let f := globalForm .both (.dgs 5 (slotsFor 4)) 6 4 .load 0
     Ready s i0 f.stream f.fields ∧ s.context? 1 = some (ctxOf s) ∧
       First s i0 (fun m => ¬f.inside (ctxOf s) m (s.readFields m f.fields) ∨ aperture (ctxOf s) (f.addr (ctxOf s) m (s.readFields m f.fields)) ∨
         ¬inRange (f.addr (ctxOf s) m (s.readFields m f.fields))) (thOf s)) ∧
    (let s := withRegs base [(6, 0x1FFFF#32), (7, 0x00FFFE00#32)]
     aperture (ctxOf s) ((globalForm .both (.dgs 5 1) 6 4 .load 0).addr (ctxOf s) (thOf s) (s.readFields (thOf s) [.dgs 5 1, .gs 6 2]))) ∧
    (let s := withRegs base [(6, 0xFFFF#32)]
     ¬(privateForm .both (.dgs 5 1) 6 4 .load 0).inside (ctxOf s) (thOf s) (s.readFields (thOf s) [.dgs 5 1, .g 6])) ∧
    (let s := withRegs base [(6, 2#32)]
     let f := globalForm .both (.dgs 5 1) 6 4 .load 0
     let r := s.readFields (thOf s) f.fields
     ¬(¬f.inside (ctxOf s) (thOf s) r ∨ aperture (ctxOf s) (f.addr (ctxOf s) (thOf s) r) ∨ ¬inRange (f.addr (ctxOf s) (thOf s) r)) ∧
       First s i0 (fun m => (f.addr (ctxOf s) m (s.readFields m f.fields)).toNat % f.size ≠ 0) (thOf s)) ∧
    (let s := withRegs base [(6, 65533#32)]
     let f : ScratchForm := { stream := .both, fields := [.dgs 5 1, .g 6], size := 4, base := 1, off := 0, write := false }
     Ready s i0 f.stream f.fields ∧ s.cohort? ck0 = some (cohOf s) ∧
       First s i0 (fun m => f.at (s.readFields m f.fields) < 0 ∨ ((cohOf s).scratchSize : Int) < f.at (s.readFields m f.fields) + f.size) (thOf s)) ∧
    (let s := withRegs base [(6, 65530#32)]
     let f : ScratchForm := { stream := .both, fields := [.dgs 5 1, .g 6], size := 4, base := 1, off := 0, write := false }
     (∀ u ∈ s.members i0, ¬(f.at (s.readFields u f.fields) < 0 ∨ ((cohOf s).scratchSize : Int) < f.at (s.readFields u f.fields) + f.size)) ∧
       First s i0 (fun m => f.at (s.readFields m f.fields) % f.size ≠ 0) (thOf s)) := by
  refine ⟨⟨ready_of (by decide), by decide, first_of (post := []) (by decide) (Or.inr (Or.inr (by unfold inRange; decide)))⟩,
    by unfold aperture; decide, ?_, ⟨?_, first_of (post := []) (by decide) (by decide)⟩,
    ⟨ready_of (by decide), by decide, first_of (post := []) (by decide) (by decide)⟩,
    by decide, first_of (post := []) (by decide) (by decide)⟩
  · show ¬(0 ≤ _ ∧ _ ≤ _)
    decide
  · rintro (h | h | h)
    · exact h trivial
    · revert h; unfold aperture; decide
    · exact h (by unfold inRange; decide)
theorem calm_of {s : State} {c} (h1 : s.context? 1 = some c) (h2 : s.reqs = []) (h3 : s.pins = []) (h4 : s.poison = [])
    (h5 : c.dbg.dbgctl.getLsbD 31 = false) : Calm s i0 c := ⟨h1, h2, h3, h4, h5⟩
/-- A global access at address 0 of a cached state reaches the page, checked or not. -/
theorem reaches_of {s i c f m pte checked} (h0 : f.inside c m (s.readFields m f.fields)) (h1 : f.addr c m (s.readFields m f.fields) = 0)
    (h2 : ¬aperture c 0) (h3 : Mapped s c i 0 pte 65536) (h4 : permTrap 0 f.kind m.who pte = none)
    (h5 : pteAddr pte = 0x40000) (h6 : pte.getLsbD 58 = checked) : Reaches s i c f m 0x40000 checked := by
  simp only [Reaches, h1]
  exact ⟨h0, h2, by unfold inRange; decide, by simp, pte, 65536, h3, h4, by rw [h5]; rfl, h6⟩
theorem only {s : State} {m t} (h0 : s.members i0 = [t]) (h : m ∈ s.members i0) : m = t := by rw [h0] at h; simpa using h
/-- The page is cached and the core holds its first line. -/
def hitting (tag : PathTag) : State := withLines (cached base) [wholeLine tag 0x1000 false [1, 2, 3, 4]]
theorem wit_Loads :
    (∃ f, (Instr.ld 5 6 .n32 0, f) ∈ loadForms 5 6 .n32 0 ∧ Ready (hitting .gen) i0 f.stream f.fields ∧
      Calm (hitting .gen) i0 (ctxOf (hitting .gen)) ∧
      (∀ m ∈ (hitting .gen).members i0, Reaches (hitting .gen) i0 (ctxOf (hitting .gen)) f.toMemForm m 0x40000 false) ∧
      (hitting .gen).l1Read 0 none 0x40000 f.size f.tag = some [1, 2, 3, 4]) ∧
    (∃ f, (Instr.ldro 5 6 .n32 0, f) ∈ loadForms 5 6 .n32 0 ∧ (hitting .ro).l1Read 0 none 0x40000 f.size f.tag = some [1, 2, 3, 4]) ∧
    ∃ f, (Instr.ld 5 6 .n32 0, f) ∈ loadForms 5 6 .n32 0 ∧ Ready (cached base) i0 f.stream f.fields ∧
      Calm (cached base) i0 (ctxOf base) ∧ (∀ m ∈ (cached base).members i0, Reaches (cached base) i0 (ctxOf base) f.toMemForm m 0x40000 false) ∧
      (cached base).l1Read 0 none 0x40000 f.size f.tag = none := by
  refine ⟨⟨_, .head _, ready_of (by decide), calm_of (by decide) (by decide) (by decide) (by decide) (by decide), ?_, by decide⟩,
    ⟨_, .tail _ (.head _), by decide⟩, _, .head _, ready_of (by decide),
    calm_of (by decide) (by decide) (by decide) (by decide) (by decide), ?_, by decide⟩ <;>
  · intro m h
    obtain rfl : m = thOf base := only (by decide) h
    exact reaches_of (pte := pte0) trivial (by decide) (by unfold aperture; decide) (mapped_of (by decide) (by decide) (by decide)) (by decide) (by decide)
      (by decide)
theorem wit_Stores : ∃ f, (Instr.st 5 6 .n32 0, f) ∈ storeForms 5 6 .n32 0 ∧ Ready (cached base) i0 f.stream f.fields ∧
    Calm (cached base) i0 (ctxOf base) ∧ LinesOk (cached base) 0 ∧ room (cached base) i0 ∧
    ∀ m ∈ (cached base).members i0, Reaches (cached base) i0 (ctxOf base) f.toMemForm m 0x40000 false := by
  refine ⟨_, .head _, ready_of (by decide), calm_of (by decide) (by decide) (by decide) (by decide) (by decide),
    ⟨by decide, by decide, by unfold State.memOk; decide⟩, by unfold room; decide, ?_⟩
  intro m h
  obtain rfl : m = thOf base := only (by decide) h
  exact reaches_of (pte := pte0) trivial (by decide) (by unfold aperture; decide) (mapped_of (by decide) (by decide) (by decide)) (by decide) (by decide)
    (by decide)
/-- The page is CHECKED, and `l` is the record of its first sector. -/
def checkedPage (l : List (Nat × Shadow)) : State :=
  let s := cached base
  { s with mem := Memory.writeByte s.mem 0x31007 4, tlb := s.tlb.map fun e => { e with pte := 0x40000000004001D#64 }, shadow := l }
def pteC : W64 := 0x40000000004001D#64
/-- Another thread has written the first word of the sector in the thread's phase. -/
def record0 : Shadow :=
  let p := ((checkedPage []).chkOf (thOf base)).phase
  { ctx := 1, phase := p, words := (some (.thread 0 ck0 7), .none) :: List.replicate 7 (none, .none) }
def raced : State := checkedPage [(8192, record0)]
theorem quiet (n : Nat) (wr : Bool) : ¬conflicts (checkedPage []) i0 (thOf base) 0x40000 n wr := by
  rintro ⟨w, -, -, sh, h, -⟩
  cases h
theorem conflict_of {s : State} {m pa n wr} (w : Nat) (sh : Shadow) (e : Option Agent × ReadSt) (y : Agent) (h1 : pa / 4 ≤ w)
    (h2 : w ≤ (pa + n - 1) / 4) (h3 : s.shadowOf (w / 8) = some sh) (h4 : sh.ctx = 1) (h5 : sh.phase = (s.chkOf m).phase)
    (h6 : sh.words[w % 8]? = some e) (h7 : e.1 = some y) (h8 : y ≠ (s.chkOf m).agent) : conflicts s i0 m pa n wr :=
  ⟨w, h1, h2, sh, h3, h4, h5, e, h6, Or.inl ⟨y, h7, h8⟩⟩
theorem wit_CheckedPages :
    (∃ f, (Instr.st 5 6 .n32 0, f) ∈ storeForms 5 6 .n32 0 ∧ Ready (checkedPage []) i0 f.stream f.fields ∧
      Calm (checkedPage []) i0 (ctxOf base) ∧ (checkedPage []).memOk ∧
      (∀ m ∈ (checkedPage []).members i0, Reaches (checkedPage []) i0 (ctxOf base) f.toMemForm m 0x40000 true) ∧
      ∀ m ∈ (checkedPage []).members i0, ¬conflicts (checkedPage []) i0 m 0x40000 f.size true) ∧
    (∃ f, (Instr.ld 5 6 .n32 0, f) ∈ loadForms 5 6 .n32 0 ∧ f.tag = .gen ∧ Ready (checkedPage []) i0 f.stream f.fields ∧
      (∀ m ∈ (checkedPage []).members i0, Reaches (checkedPage []) i0 (ctxOf base) f.toMemForm m 0x40000 true) ∧
      room (checkedPage []) i0 ∧ (∀ m ∈ (checkedPage []).members i0, noLine (checkedPage []) i0 0x40000) ∧
      ∀ m ∈ (checkedPage []).members i0, ¬conflicts (checkedPage []) i0 m 0x40000 f.size false) ∧
    (Calm raced i0 (ctxOf base) ∧ ∀ wr, First raced i0 (fun m => conflicts raced i0 m 0x40000 4 wr) (thOf base)) := by
  refine ⟨⟨_, .head _, ready_of (by decide), calm_of (by decide) (by decide) (by decide) (by decide) (by decide),
      by unfold State.memOk; decide, ?_, ?_⟩, ⟨_, .head _, rfl, ready_of (by decide), ?_, by unfold room; decide, ?_, ?_⟩,
    calm_of (by decide) (by decide) (by decide) (by decide) (by decide), fun wr => first_of (post := []) (by decide)
      (conflict_of 0x10000 record0 (some (.thread 0 ck0 7), .none) (.thread 0 ck0 7) (by decide) (by decide) (by decide) rfl (by decide) (by decide)
        (by decide) (by decide))⟩
  all_goals
    intro m h
    obtain rfl : m = thOf base := only (by decide) h
  · exact reaches_of (pte := pteC) trivial (by decide) (by unfold aperture; decide) (mapped_of (by decide) (by decide) (by decide)) (by decide)
      (by decide) (by decide)
  · exact quiet _ _
  · exact reaches_of (pte := pteC) trivial (by decide) (by unfold aperture; decide) (mapped_of (by decide) (by decide) (by decide)) (by decide)
      (by decide) (by decide)
  · unfold noLine; decide
  · exact quiet _ _
/-- Two threads of one group, issuing together. -/
def twins : State :=
  let s := (base.setThreads [thOf base, { thOf base with key := { k0 with tid := 1 } }]).updGroup gk0 fun g => { g with members := [0, 1] }
  cached (s.updSlot 0 0 fun x => { x with run := some { i0.run with members := [0, 1] } })
def iTwo : Iss := { i0 with run := { i0.run with members := [0, 1] } }
theorem wit_AtomicRequests : ((Instr.atomCas 4 6 .acqrel .pod, AtomOp.cas) ∈ atomForms 4 6 .acqrel .pod ∧
    (Instr.atomCas 4 6 .acqrel .pod).wf = true ∧ Ready (cached base) i0 .both (atomForm .cas 4 6).fields ∧
    Calm (cached base) i0 (ctxOf base) ∧ (∀ m ∈ (cached base).members i0, Reaches (cached base) i0 (ctxOf base) (atomForm .cas 4 6) m 0x40000 false) ∧
    (cached base).dirtyLines 0 = []) ∧
    (Instr.atomBf16x2 4 6 .acqrel .pod, AtomOp.bf16x2) ∈ atomForms 4 6 .acqrel .pod ∧
    (Instr.atomBf16x2 4 6 .acqrel .pod).wf = true ∧ Ready twins iTwo .both (atomForm .bf16x2 4 6).fields ∧
    Calm twins iTwo (ctxOf base) ∧ (∀ m ∈ twins.members iTwo, Reaches twins iTwo (ctxOf base) (atomForm .bf16x2 4 6) m 0x40000 false) ∧
    twins.dirtyLines 0 = [] ∧ twins.members iTwo = [thOf base, { thOf base with key := { k0 with tid := 1 } }] := by
  refine ⟨⟨by decide, rfl, ready_of (by decide), calm_of (by decide) (by decide) (by decide) (by decide) (by decide), ?_, by decide⟩, by decide, rfl,
    ready_of (by decide), ⟨by decide, by decide, by decide, by decide, by decide⟩, ?_, by decide, by decide⟩
  all_goals intro m h
  · obtain rfl : m = thOf base := only (by decide) h
    exact reaches_of (pte := pte0) trivial (by decide) (by unfold aperture; decide) (mapped_of (by decide) (by decide) (by decide)) (by decide)
      (by decide) (by decide)
  · rw [show twins.members iTwo = [thOf base, { thOf base with key := { k0 with tid := 1 } }] by decide] at h
    obtain rfl | rfl : m = thOf base ∨ m = { thOf base with key := { k0 with tid := 1 } } := by simpa using h
    all_goals
      exact reaches_of (pte := pte0) trivial (by decide) (by unfold aperture; decide) (mapped_of (by decide) (by decide) (by decide))
        (by decide) (by decide) (by decide)
theorem wit_Scratch : let s := withRegs base [(6, 65532#32)]
    (∃ x, x ∈ scratchLoads 5 6 .n32 0 ∧ x.1.wf = true ∧ InScratch s i0 x.2.1 (cohOf s) fun _ => 65532) ∧
    (∀ m ∈ s.members i0, Sees (cohOf s) m.key.tid .gen) ∧ (∀ m ∈ s.members i0, Sees (bridged (cohOf s)) m.key.tid .gen) ∧
    (∃ x, x ∈ scratchStores 5 6 .n32 0 ∧ x.1.wf = true ∧ InScratch s i0 x.2.1 (cohOf s) fun _ => 65532) ∧ swf 0 (cohOf s).scratch = true ∧
    (Instr.atomsAdd 5 6 .rlx .cohort, AtomOp.add) ∈ atomsForms 5 6 .rlx .cohort ∧ (Instr.atomsAdd 5 6 .rlx .cohort).wf = true ∧
    InScratch s i0 (atomsForm .add 5 6) (cohOf s) (fun _ => 65532) ∧ ((s.members i0).map fun _ => 65532).Nodup ∧ s.dirtyLines 0 = [] := by
  refine ⟨⟨_, .head _, rfl, ready_of (by decide), by decide, by decide, ?_⟩, by unfold Sees; decide,
    by unfold Sees; decide, ⟨_, .head _, rfl, ready_of (by decide), by decide, by decide, ?_⟩, by decide, by decide, rfl, ⟨ready_of (by decide), by decide, by decide, ?_⟩, by decide, by decide⟩ <;> decide

/-! Witnesses: units and matrices. -/

/-- The element of QSAMP of an entry of zeros. -/
def qElem (i : Nat) (d : W32) : W32 :=
  BitVec.ofNat 32 (((List.range 32).filter fun k => qBit (entryWord []) 0 i d k).map fun k => 2 ^ k).sum
def sampling : State := base.updCore 0 fun c => { c with seqCache := [(1, 0, [])] }
theorem wit_Sampling :
    (Ready sampling i0 .compute [.dg 5, .gs 6 2, .g 8] ∧ sampling.context? 1 = some (ctxOf sampling) ∧ sampling.reqs = [] ∧
      ∀ m ∈ sampling.members i0, let r := sampling.readFields m [.dg 5, .gs 6 2, .g 8]
        (r.x 2).toNat < (ctxOf sampling).desc.seqn ∧
        (sampling.core 0).seqCache.find? (fun k => k.1 == (ctxOf sampling).id && k.2.1 == (r.x 2).toNat) = some (1, (r.x 2).toNat, []) ∧
        ∀ k < 32, (qElem 0 0).getLsbD k = qBit (entryWord []) (entryWord [] 48) ((r.p 1).toNat % 2 ^ 48) (r.x 2) k) ∧
    let s := withRegs base [(8, 1)]
    Ready s i0 .compute [.dg 5, .gs 6 2, .g 8] ∧ s.members i0 = [thOf s] ∧ (ctxOf s).desc.seqn ≤ ((s.readFields (thOf s) [.dg 5, .gs 6 2, .g 8]).x 2).toNat :=
  ⟨⟨ready_of (by decide), by decide, by decide, by decide⟩, ready_of (by decide), by decide, by decide⟩
/-- A descriptor-table entry in the first RO line of the page, and lines of zeros behind it. -/
def withEntry (e : Bytes) : State :=
  withLines (cached base) (wholeLine .ro 0x1000 false e :: [0x1001, 0x1002, 0x1003, 0x1004].map fun n => wholeLine .ro n false [])
/-- The entry of a texture at 64: kind, format, mode, channels, sizes, wavelength list. -/
def texBytes (kind fmt mode nch : Nat) (sizes : List Nat) (wl : Nat) : Bytes :=
  [kind, 0, 1, 0, fmt, mode, 0, nch].flatMap (natLe 1) ++ ((sizes ++ [0, 0, 0, 0]).take 4).flatMap (natLe 2) ++ natLe 8 64 ++ natLe 8 0 ++ natLe 8 wl
theorem wit_Textures :
    (let s := withEntry (texBytes 2 1 1 1 [1] 0); let m := thOf base
     Ready s i0 .compute [.dgs 4 4, .gs 8 4] ∧ s.reqs = [] ∧ s.members i0 = [m] ∧ ∃ x l, x.kind = 2 ∧
       s.texDesc i0 (ctxOf s) m ((s.readFields m [.dgs 4 4, .gs 8 4]).x 1) 2 2 = (.ok x, s) ∧
       s.texels i0 (ctxOf s) m x (x.taps (texCoords (s.readFields m [.dgs 4 4, .gs 8 4]))) = (.ok l, s)) ∧
    (let s := withEntry (texBytes 4 1 1 3 [2, 2, 2] 0); let m := thOf base
     Ready s i0 .compute [.dw 4, .gs 8 4, .w 1] ∧ ∃ x l, x.kind = 4 ∧
       s.texDesc i0 (ctxOf s) m ((s.readFields m [.dw 4, .gs 8 4, .w 1]).x 1) 3 4 = (.ok x, s) ∧
       s.texels i0 (ctxOf s) m x (x.taps (texCoords (s.readFields m [.dw 4, .gs 8 4, .w 1]))) = (.ok l, s)) ∧
    (let s := withEntry (texBytes 5 3 1 8 [1] 0); let m := thOf base
     ∃ x l, x.kind = 5 ∧ s.texDesc i0 (ctxOf s) m ((s.readFields m [.dgs 4 4, .gs 8 4]).x 1) 5 5 = (.ok x, s) ∧
       s.texels i0 (ctxOf s) m x (x.taps (texCoords (s.readFields m [.dgs 4 4, .gs 8 4]))) = (.ok l, s)) ∧
    (let s := withEntry (texBytes 3 1 1 2 [1] 128); let m := thOf base
     ∃ x w l, x.kind = 3 ∧ s.texDesc i0 (ctxOf s) m ((s.readFields m [.dw 4, .gs 8 4, .w 1]).x 1) 3 4 = (.ok x, s) ∧
       x.wlist + 4 * x.nch ≤ 2 ^ 56 ∧ s.threadRead i0 (ctxOf s) m x.wlist (4 * x.nch) = (.ok w, s) ∧
       s.texels i0 (ctxOf s) m x (x.taps (texCoords (s.readFields m [.dw 4, .gs 8 4, .w 1]))) = (.ok l, s)) := by
  refine ⟨⟨ready_of (by decide), by decide, by decide, _, _, ?_, rfl, rfl⟩, ⟨ready_of (by decide), _, _, ?_, rfl, rfl⟩, ⟨_, _, ?_, rfl, rfl⟩,
    _, _, _, ?_, rfl, ?_, rfl, rfl⟩ <;> decide
/-- The entry of a structure with one node, one triangle and one instance. -/
def bvhBytes : Bytes := natLe 4 0x00010006 ++ natLe 4 0 ++ natLe 8 128 ++ natLe 4 1 ++ natLe 4 1 ++ natLe 8 192 ++ natLe 8 256 ++ natLe 4 1
theorem wit_RayTests : let s := withEntry bvhBytes; let m := thOf base; let fs := [Fld.dgs 16 8, .gs 24 8, .gs 6 2]
    (Ready s i0 .compute fs ∧ s.context? 1 = some (ctxOf s) ∧ s.reqs = [] ∧ s.members i0 = [m] ∧ m.visit ≠ 0 ∧
      ∃ e v r0 r1 r2, s.dtEntry i0 (ctxOf s) m.key (((s.readFields m fs).p 2).toNat % 2 ^ 16) 6 6 = (.ok e, s) ∧ bvhEntry e = some v ∧
        ((s.readFields m fs).p 2).toNat / 2 ^ 32 < v.nnodes ∧
        s.threadRead i0 (ctxOf s) m v.node 128 = (.ok r0, s) ∧ s.threadRead i0 (ctxOf s) m v.tri 48 = (.ok r1, s) ∧
        s.threadRead i0 (ctxOf s) m v.inst 64 = (.ok r2, s)) ∧
    (let t := onThread s fun m => { m with visit := 0 }
     Ready t i0 .compute fs ∧ (thOf t).visit = 0 ∧ (thOf t).status.getLsbD 21 = false ∧
       ∃ e v, t.dtEntry i0 (ctxOf t) (thOf t).key (((t.readFields (thOf t) fs).p 2).toNat % 2 ^ 16) 6 6 = (.ok e, t) ∧ bvhEntry e = some v) ∧
    let t := onThread s fun m => { m with visit := 0, status := 0x00200000#32 }
    (thOf t).status.getLsbD 21 = true ∧
      ∃ e v, t.dtEntry i0 (ctxOf t) (thOf t).key (((t.readFields (thOf t) fs).p 2).toNat % 2 ^ 16) 6 6 = (.ok e, t) ∧ bvhEntry e = some v :=
  ⟨⟨ready_of (by decide), by decide, by decide, by decide, by decide, _, _, _, _, _, rfl, rfl, by decide, rfl, rfl, rfl⟩,
   ⟨ready_of (by decide), by decide, by decide, _, _, rfl, rfl⟩, by decide, _, _, rfl, rfl⟩
/-- A group of 32 threads, each with a descriptor in g1, and its issuing entry. -/
def crowd (desc : W32) : State :=
  let ts := (List.range 32).map fun k => { thOf base with key := { k0 with tid := k }, regs := [(1, desc)].filter fun x => x.2 != 0 }
  let s := (base.setThreads ts).updGroup gk0 fun g => { g with members := List.range 32 }
  (s.updSlot 0 0 fun x => { x with run := some { i0.run with members := List.range 32 } }).updCohort ck0 fun c =>
    { c with tiles := [{ no := 0, elems := [] }] }
def iAll : Iss := { i0 with run := { i0.run with members := List.range 32 } }
theorem wit_MatrixRequests :
    (let s := crowd 0x03030000#32; let fs := [Fld.g 1, .gs 32 32, .gs 64 32]
     Ready s iAll .compute fs ∧ s.group? gk0 = some (grpOf s) ∧ s.cohort? ck0 = some (cohOf s) ∧ (s.members iAll).head? = some (thOf s) ∧
       ((s.members iAll).length = 32 ∧ (grpOf s).members.length = 32 ∧ ∀ u ∈ s.members iAll, (s.readFields u fs).x 0 = 0x03030000#32) ∧
       ∃ td, tileDesc 0x03030000#32 = some td ∧ td.tile = 0 ∧
         (∀ k < 64, (td.fa.row (fragRow ((s.members iAll).map fun u => s.readFields u fs) 1 k)).isSome = true ∧
           (td.fb.row (fragRow ((s.members iAll).map fun u => s.readFields u fs) 2 k)).isSome = true) ∧
         s.engines = [] ∧ (cohOf s).tiles = [{ no := 0, elems := [] }]) ∧
    (Ready (crowd 0) iAll .compute [.g 1, .gs 32 32, .gs 64 32] ∧ tileDesc 0 = none ∧ ((crowd 0).members iAll).length = 32 ∧
      (grpOf (crowd 0)).members.length = 32) ∧
    (Ready base i0 .compute [.g 1, .gs 32 32, .gs 64 32] ∧ (base.members i0).length = 1) ∧
    let s := withRegs base [(3, 0x03000000#32)]; let fs := [Fld.dgs 8 8, .gs 16 8, .g 3]
    Ready s i0 .compute fs ∧ s.cohort? ck0 = some (cohOf s) ∧ s.members i0 = [thOf s] ∧ Sees (cohOf s) (thOf s).key.tid .acc ∧
      (s.core 0).eng.gathers = [] ∧ vxmTrap (cohOf s).scratchSize ((s.readFields (thOf s) fs).x 2)
        (wordsOf (scratchBytes (cohOf s) (64 * (((s.readFields (thOf s) fs).x 2).toNat % 2 ^ 14)) ((weightSize ((s.readFields (thOf s) fs).x 2)).getD 0))) = none :=
  ⟨⟨ready_of (by decide), by decide, by decide, by decide, by decide, _, rfl, by decide, by decide, by decide, by decide⟩,
   ⟨ready_of (by decide), by decide, by decide, by decide⟩, ⟨ready_of (by decide), by decide⟩, ready_of (by decide), by decide, by decide,
   by unfold Sees; decide, by decide, by decide⟩

/-! Witnesses: accumulators, copies and logical time. -/

def tiled : State := onCohort base fun c => { c with tiles := [{ no := 511, elems := [] }] }
theorem tiles_of {s : State} {g c n} (h1 : s.group? gk0 = some g) (h2 : g.members = [0]) (h3 : s.cohort? ck0 = some c)
    (h4 : (s.core 0).eng = MatrixEngine.fresh) (h5 : s.engines = []) (h6 : c.tiles = [{ no := 511, elems := [] }])
    (h7 : ∀ m ∈ s.members i0, 511 = n m) : Tiles s i0 g c n := by
  refine ⟨h1, by simp [h2, i0], h3, by unfold idleEngine; simp [i0, h4, MatrixEngine.fresh], by simp [noCopies, h5], ?_, by simp [h6, swf]⟩
  intro m hm
  exact ⟨_, by rw [h6]; exact .head _, h7 m hm⟩
/-- A request of an MMA on tile 511. -/
def req0 : MmaReq :=
  { id := 1, gk := gk0, cls := 0, issue := 0, slot := 0, seq := 1, tile := 511, desc := 0x030301FF#32, a := List.replicate 64 [],
    b := List.replicate 64 [], aSlot := 32, bSlot := 64, frag := [], groupsDone := 0, occupied := 0, vxm := false }
def engaged (e : MatrixEngine) (s : State) : State := s.updCore 0 fun c => { c with eng := e }
theorem wit_Accumulators :
    (let s := withRegs tiled [(6, 511#32)]
     Ready s i0 .compute [.dgs 4 2, .g 6, .g 7] ∧ Ready s i0 .compute [.gs 4 2, .g 6, .g 7] ∧ Ready s i0 .compute [.g 6] ∧
       Tiles s i0 (grpOf s) (cohOf s) fun m => tileNamed ((s.readFields m [.dgs 4 2, .g 6, .g 7]).x 1) 0) ∧
    (∀ m ∈ tiled.members i0, Sees (cohOf tiled) m.key.tid .acc ∧ Sees (bridged (cohOf tiled)) m.key.tid .acc) ∧
    (let s := withRegs tiled [(6, 511#32)]
     Tiles s i0 (grpOf s) (cohOf s) fun m => tileNamed ((s.readFields m [.g 6]).x 0) 0) ∧
    idleEngine base 0 ∧
    let s := engaged { MatrixEngine.fresh with queue := [req0] } base
    Ready s i0 .compute [.g 6] ∧ (s.group? gk0).isSome = true ∧ (s.core 0).eng.queue = [req0] ∧
      ∀ m ∈ s.members i0, tileNamed ((s.readFields m [.g 6]).x 0) 511 = 511 := by
  refine ⟨⟨ready_of (by decide), ready_of (by decide), ready_of (by decide), ?_⟩, by unfold Sees; decide, ?_,
    by unfold idleEngine; decide, ready_of (by decide),
    by decide, by decide, by decide⟩ <;>
  exact tiles_of (by decide) (by decide) (by decide) (by decide) (by decide) (by decide) (by decide)
theorem wit_CrossPath :
    (let s := onCohort (withRegs base [(6, 65532#32)]) apart
     ∃ x, x ∈ scratchLoads 5 6 .n32 0 ∧ x.1.wf = true ∧ InScratch s i0 x.2.1 (cohOf s) fun _ => 65532) ∧
    (let s := onCohort (withRegs tiled [(6, 511#32)]) apart
     Ready s i0 .compute [.dgs 4 2, .g 6, .g 7] ∧
       Tiles s i0 (grpOf s) (cohOf s) fun m => tileNamed ((s.readFields m [.dgs 4 2, .g 6, .g 7]).x 1) 0) ∧
    let s := onCohort lined apart
    Ready s i0 .both [] ∧ s.reqs = [] ∧ s.pins = [] ∧ LinesOk s 0 ∧ s.cohort? ck0 = some (cohOf s) ∧ (cohOf s).older.length = 2 := by
  refine ⟨⟨_, .head _, rfl, ready_of (by decide), by decide, by decide, by decide⟩, ⟨ready_of (by decide),
    tiles_of (by decide) (by decide) (by decide) (by decide) (by decide) (by decide) (by decide)⟩, ready_of (by decide), by decide, by decide,
    ⟨by decide, by decide, by unfold State.memOk; decide⟩, by decide, by decide⟩
/-- R215: a FENCE.X that names both paths lets the GEN reads of its thread see what a copy wrote, and no other thread's. -/
theorem test_fenceX_bridges : let c := (apart (cohOf base)).bridge [0] (pathsOf 5)
    c.blind 0 .gen = true ∧ (c.bridge [0] (pathsOf 9)).blind 0 .gen = false ∧ (c.bridge [0] (pathsOf 9)).blind 1 .gen = true := by decide
/-- R215: between a copy's write and the FENCE.X a load may give the word of before. -/
theorem test_staleRead : oldValues 0 .gen (.scratch 16383) [(0, { path := .copy, scratch := [(65532, 7)], tiles := [], seen := [], read := [] })]
    9 = [(0, 7)] := by decide
theorem alone_of {s : State} {m c h} (h1 : s.members i0 = [m]) (h2 : s.context? 1 = some c) (h3 : s.cohort? ck0 = some h) (h4 : s.reqs = [])
    (h5 : s.pins = []) (h6 : (s.core 0).l1 = []) (h8 : (h.caps.map fun x => (x.loc, x.time)).Nodup)
    (h9 : ∀ g ∈ s.groups, g.frontier = []) : Alone s i0 m c h :=
  ⟨h1, h2, h3, h4, h5, by simp [cleanCore, i0, h6], h8, fun g hg en he => by rw [h9 g hg] at he; cases he⟩
theorem alone_base : Alone base i0 (thOf base) (ctxOf base) (cohOf base) :=
  alone_of (by decide) (by decide) (by decide) (by decide) (by decide) (by decide) (by decide) (by decide)
theorem wit_RequestsAndTable :
    (let s := withRegs base [(6, 0x0001F000#32), (7, 0x00FFFE00#32)]
     let r := s.readFields (thOf s) [.gs 16 16, .gs 6 2]
     Alone s i0 (thOf s) (ctxOf s) (cohOf s) ∧ Ready s i0 .both [.gs 16 16, .gs 6 2] ∧
       (wrapTo 64 (ux (r.p 1) + offsetBy 0 64)).toNat = (ctxOf s).desc.apbase.toNat + 4096 * 31 ∧
       (((List.range 64).map (byteOf (r.l 0))).getD 4 0).getLsbD 6 = false ∧ (s.engine 31).queue = [] ∧ (ctxOf s).id = 1) ∧
    (let s := cached base
     let r := s.readFields (thOf s) [.gs 6 2, .g 8]
     Alone s i0 (thOf s) (ctxOf s) (cohOf s) ∧ (Instr.tlw 6 8).wf = true ∧ Ready s i0 .compute [.gs 6 2, .g 8] ∧ supervisor (thOf s) ∧
       s.poison = [] ∧ s.memOk ∧ inRange (r.p 0) ∧ (r.p 0).toNat % 64 = 0 ∧ ¬aperture (ctxOf s) (r.p 0) ∧
       (r.x 1).toNat % 2 ^ 16 < (ctxOf s).desc.dtcount ∧ Mapped s (ctxOf s) i0 (r.p 0) pte0 65536 ∧
       Mapped s (ctxOf s) i0 (wrapTo 64 (ux (ctxOf s).desc.dtbase + 64 * ((r.x 1).toNat % 2 ^ 16 : Nat))) pte0 65536 ∧
       permTrap (r.p 0) .load (thOf s).who pte0 = none ∧ permTrap 0 .store (thOf s).who pte0 = none ∧ pte0.getLsbD 58 = false ∧
       noLine s i0 0x40000) := by
  refine ⟨⟨alone_of ?_ ?_ ?_ ?_ ?_ ?_ ?_ ?_, ready_of (by decide), ?_, ?_, ?_, ?_⟩,
    ⟨alone_of ?_ ?_ ?_ ?_ ?_ ?_ ?_ ?_, rfl, ready_of (by decide), ?_, ?_, ?_, ?_, ?_, ?_, ?_, mapped_of ?_ ?_ ?_, mapped_of ?_ ?_ ?_,
      ?_, ?_, ?_, ?_⟩⟩
  all_goals (try unfold supervisor); (try unfold State.memOk); (try unfold inRange); (try unfold aperture); (try unfold noLine); decide
/-- The cohort holds one capability at location 0. -/
def capable : State := onCohort base fun h => { h with caps := [{ loc := 0, time := 0, count := 1 }] }
theorem alone_capable : Alone capable i0 (thOf base) (ctxOf base) (cohOf capable) :=
  alone_of (by decide) (by decide) (by decide) (by decide) (by decide) (by decide) (by decide) (by decide)
theorem wit_Records : let l := base.launch? 1 1
    (Alone capable i0 (thOf base) (ctxOf base) (cohOf capable) ∧ (ctxOf base).id = 1 ∧ (cohOf capable).key = ck0 ∧
      Ready capable i0 .compute [.g 5, .gs 16 16, .gs 6 2] ∧ keyOk (ctxOf base) 0 0 ∧ (ctxOf base).covered l (cohOf capable).caps 0 0 = true ∧
      capable.keyRoom (ctxOf base) [change 0 0 1] = true ∧ (ctxOf base).records.length < (ctxOf base).desc.rscount ∧
      Ready capable i0 .compute [.g 5, .gs 6 2] ∧
      capsFit ((ctxOf base).recvsOf (cohOf capable).key) (capAdd (cohOf capable).caps 0 0 1) = true ∧ capCount (cohOf capable).caps 0 0 ≠ 0 ∧
      Ready capable i0 .compute [.g 5, .gs 6 2, .gs 8 2] ∧ notAfter 0 0 ∧
      capsFit ((ctxOf base).recvsOf (cohOf capable).key) (capAdd (capTake (cohOf capable).caps 0 0) 0 0 1) = true ∧
      capable.keyRoom (ctxOf base) [change 0 0 1, change 0 0 (-1)] = true) ∧
    (Alone base i0 (thOf base) (ctxOf base) (cohOf base) ∧ (ctxOf base).covered l (cohOf base).caps 0 0 = false ∧ (cohOf base).caps = []) ∧
    ¬1 < (ctxOf base).graph.depths.length ∧ 0 < (ctxOf base).graph.depths.length ∧ ¬keyOk (ctxOf base) 0 0x0001000000000000#64 := by
  refine ⟨⟨alone_capable, ?_, ?_, ready_of (by decide), ?_, ?_, ?_, ?_, ready_of (by decide), ?_, ?_, ready_of (by decide), ?_, ?_, ?_⟩,
    ⟨alone_base, ?_, ?_⟩, ?_, ?_, ?_⟩
  all_goals (try unfold keyOk); decide
/-- The frontier of location 0 on die 0 is at time 0. -/
def behind : State := onContext base fun c => { c with nodes := c.nodes.map fun n => { n with f := [[0]] } }
def onLaunch (s : State) (b : Binding) : State := s.setLaunches (s.launches.map fun l => { l with binding := b })
/-- A delivered record. -/
def record1 : Record :=
  { id := 7, slot := 0, loc := 0, time := 0, payload := List.replicate 64 0, source := .host, counted := true, batch := none, delivered := true }
theorem wit_FrontierWaits :
    (base.context? 1 = some (ctxOf base) ∧ base.cohort? ck0 = some (cohOf base) ∧ Ready base i0 .compute [.g 5, .gs 6 2] ∧
      i0.run.addr = false ∧ i0.run.members.Nodup ∧ keyOk (ctxOf base) 0 0 ∧ hasPassed (((ctxOf base).node 0).f.getD 0 []) 0 ∧
      Ready base i0 .compute [.dg 5, .g 6, .gs 8 2] ∧ ∀ m ∈ base.members i0, m.status.toNat / 2 ^ 26 % 4 = 0) ∧
    (¬hasPassed (((ctxOf behind).node 0).f.getD 0 []) 0 ∧ (behind.group? gk0).isSome = true) := by
  refine ⟨⟨?_, ?_, ready_of (by decide), ?_, ?_, ?_, ?_, ready_of (by decide), ?_⟩, ⟨?_, ?_⟩⟩
  · decide
  · decide
  · decide
  · decide
  · exact ⟨by decide, by decide⟩
  · have h : ((ctxOf base).node 0).f.getD 0 [] = [] := by decide
    intro x hx
    rw [h] at hx
    cases hx
  · decide
  · have h : ((ctxOf behind).node 0).f.getD 0 [] = [0] := by decide
    rw [h]
    exact fun h => h 0 (.head _) fun _ _ => Nat.le_refl _
  · decide
theorem wit_FrontierWaits_unbound :
    Alone base i0 (thOf base) (ctxOf base) (cohOf base) ∧ (cohOf base).st = .resident 0 ∧ Ready base i0 .compute [.dgs 16 16, .dgs 6 2] ∧
      (ctxOf base).recvs = [] ∧ ∃ l, base.launch? 1 1 = some l ∧ l.binding = .none := by
  refine ⟨alone_base, ?_, ready_of (by decide), ?_, probeLaunch, ?_, ?_⟩
  all_goals decide
theorem wit_FrontierWaits_host : let s := onLaunch (onContext base fun c => { c with records := [record1] }) .host
    Alone s i0 (thOf s) (ctxOf s) (cohOf s) ∧ (∃ l, s.launch? 1 1 = some l ∧ l.binding = .host) ∧ (ctxOf s).desc.hostch = 0 ∧
       capsFit [{ key := k0, loc := 0, t := none, d := 16, b := 6 }] (cohOf s).caps = true ∧ (ctxOf s).records = [record1] := by
  refine ⟨alone_of ?_ ?_ ?_ ?_ ?_ ?_ ?_ ?_, ⟨{ probeLaunch with binding := .host }, ?_, ?_⟩, ?_, ?_, ?_⟩
  all_goals decide
theorem wit_FrontierWaits_fixed : let s := onLaunch base (.fixed 0 0)
    Alone s i0 (thOf s) (ctxOf s) (cohOf s) ∧ (∃ l, s.launch? 1 1 = some l ∧ l.binding = .fixed 0 0) ∧ (ctxOf s).records = [] := by
  refine ⟨alone_of ?_ ?_ ?_ ?_ ?_ ?_ ?_ ?_, ⟨{ probeLaunch with binding := .fixed 0 0 }, ?_, ?_⟩, ?_⟩
  all_goals decide
/-- That the structures of a source hold a translation and no other one. -/
def Holds (s : State) (c : Context) (die : Nat) (src : ReqSrc) (va : Nat) (pte : W64) (size : Nat) : Prop :=
  s.tlbHits c.id src die va ≠ [] ∧ (∀ e ∈ s.tlbHits c.id src die va, e.pte = pte ∧ e.size = size) ∧
    ∀ l ∈ fillsOf src die, { lvl := l, ctx := c.id, vbase := va / size * size, size := size, pte := pte } ∈ s.tlb
theorem xlate_of {s : State} {c die src va k w pte size} (h1 : s.walk c src va.toNat = .leaf pte size)
    (h2 : Holds s c die src va.toNat pte size) : s.xlate c die src va k w = (leafOutcome c va k w pte size, s) :=
  s.xlate_held c die src va k w pte size h1 h2.1 h2.2.1 h2.2.2
theorem readVirt_of {s : State} {c die src key va n w r bs} (hp : pagePieces va.toNat (n / 65536 + 2) n = [(va.toNat, n)])
    (hv : va.toNat < 2 ^ 56) (hx : s.xlate c die src va .load w = (r, s)) (hr : s.readPiece src key va.toNat n r = .ok bs) :
    s.readVirt c die src key va n w = (.ok bs, s) := by
  have hw : w64 va.toNat = va := by simp [w64]
  simp [State.readVirt, hp, Got.andThen, hw, hx, hr]
  omega
theorem fetch_of {s : State} {i c t va b tb} (h0 : checkAddr c va 256 false = .ok va)
    (h1 : s.readVirt c (physDie i.core) (.core i.core) t.key va 256 t.who = (.ok b, s)) (hn : leAt b 32 2 = 1)
    (h2 : s.readVirt c (physDie i.core) (.core i.core) t.key (w64 (leAt b 24 8)) 8 t.who = (.ok tb, s)) :
    s.fetchHeader i c t va = (.ok (b, tb), s) := by
  simp [State.fetchHeader, State.readHeader, h0, h1, hn, h2, Got.andThen]
/-- A launch header of one thread, with its block-priority table behind it. -/
def header0 : List Host.Cell :=
  [(0x40000, 1), (0x40004, 1), (0x40006, 1), (0x40008, 1), (0x4000A, 1), (0x40019, 1), (0x40020, 1), (0x40022, 0xFF), (0x40023, 0xFF),
   (0x40048, 16), (0x4004B, 1), (0x4004C, 1)]
/-- The translation of virtual address 0 that the structure shared by die 0 holds. -/
def entry0 : TlbEntry := { lvl := .shared 0, ctx := 1, vbase := 0, size := 65536, pte := pte0 }
def withHeader : State := let s := cached base; { s with mem := tables ++ header0 }
def someBytes : Bytes := [1, 0, 0, 0, 1, 0, 1, 0, 1, 0, 1] ++ List.replicate 14 0 ++ [1] ++ List.replicate 6 0 ++ [1, 0, 0xFF, 0xFF] ++
  List.replicate 36 0 ++ [16, 0, 0, 1, 1] ++ List.replicate 179 0
theorem some_header : parseHeader someBytes (List.replicate 8 0) ≠ none := by decide
theorem piece_of {s : State} {src key va n x pa sup} (hx : x = .ok none pa sup) (hp : s.pins = []) (hq : s.poison = []) :
    s.readPiece src key va n x = .ok (Memory.read s.mem pa n) := by
  have h : (linesOf pa n).find? (s.refused src) = none := by simp [State.refused, hp]
  simp only [State.readPiece, hx, h]
  simp [State.poisoned, hq, State.readPhys]
theorem header_bytes : Memory.read (tables ++ header0) 0x40000 256 = someBytes := by decide
theorem header_read :
    withHeader.readPiece (.core 0) k0 0 256 (leafOutcome (ctxOf withHeader) 0 .load .device pte0 65536) = .ok someBytes :=
  (piece_of (pa := 0x40000) (sup := false) rfl rfl rfl).trans (congrArg _ header_bytes)
theorem table_read : withHeader.readPiece (.core 0) k0 256 8 (leafOutcome (ctxOf withHeader) 256 .load .device pte0 65536) =
    .ok (List.replicate 8 0) := (piece_of (pa := 0x40100) (sup := false) rfl rfl rfl).trans (congrArg _ (by decide))
theorem header_at_zero : checkAddr (ctxOf withHeader) 0 256 false = .ok 0 := rfl
theorem header_fetched :
    withHeader.fetchHeader i0 (ctxOf withHeader) (thOf withHeader) 0 = (.ok (someBytes, List.replicate 8 0), withHeader) :=
  fetch_of header_at_zero
    (readVirt_of (by decide) (by decide) (xlate_of (pte := pte0) (size := 65536) (by decide) (by unfold Holds; decide)) (by exact header_read)) (by decide)
    (readVirt_of (by decide) (by decide) (xlate_of (pte := pte0) (size := 65536) (by decide) (by unfold Holds; decide)) (by exact table_read))
def armed : State := withRegs withHeader [(8, 0x4000#32), (11, 1#32)]
theorem armed_fetched : armed.fetchHeader i0 (ctxOf armed) (thOf armed) 0 = (.ok (someBytes, List.replicate 8 0), armed) :=
  fetch_of (by exact header_at_zero)
    (readVirt_of (by decide) (by decide) (xlate_of (pte := pte0) (size := 65536) (by decide) (by unfold Holds; decide))
      ((piece_of (pa := 0x40000) (sup := false) rfl rfl rfl).trans (congrArg _ header_bytes))) (by decide)
    (readVirt_of (by decide) (by decide) (xlate_of (pte := pte0) (size := 65536) (by decide) (by unfold Holds; decide))
      ((piece_of (pa := 0x40100) (sup := false) rfl rfl rfl).trans (congrArg _ (by decide))))
theorem alone_header : Alone withHeader i0 (thOf withHeader) (ctxOf withHeader) (cohOf withHeader) :=
  alone_of (by decide) (by decide) (by decide) (by decide) (by decide) (by decide) (by decide) (by decide)
theorem alone_armed : Alone armed i0 (thOf armed) (ctxOf armed) (cohOf armed) :=
  alone_of (by decide) (by decide) (by decide) (by decide) (by decide) (by decide) (by decide) (by decide)
theorem wit_Launches : ∃ hdr, parseHeader someBytes (List.replicate 8 0) = some hdr ∧ hdr.supl = false ∧ hdr.donech = 0xFFFF ∧
    (ctxOf withHeader).id = 1 ∧ Ready withHeader i0 .compute [.gs 6 2] ∧ timeOk hdr.tdepth hdr.intime = true ∧
    withHeader.fetchHeader i0 (ctxOf withHeader) (thOf withHeader) ((withHeader.readFields (thOf withHeader) [.gs 6 2]).p 0) =
      (.ok (someBytes, List.replicate 8 0), withHeader) ∧
    Ready armed i0 .compute [.gs 8 8] ∧
    ∃ k, armBlock ((armed.readFields (thOf armed) [.gs 8 8]).l 0) = some k ∧ keyOk (ctxOf armed) k.loc k.time ∧
      armed.fetchHeader i0 (ctxOf armed) (thOf armed) k.hdr = (.ok (someBytes, List.replicate 8 0), armed) ∧ (ctxOf armed).counters = [] :=
  ⟨_, rfl, rfl, rfl, rfl, ready_of (by decide), rfl, by exact header_fetched, ready_of (by decide), _, rfl, ⟨by decide, by decide⟩,
    by exact armed_fetched, rfl⟩

/-! Witnesses: results, issue, the matrix engines and the slices. -/

def withOp (o : EvOp) (s : State) : State := { s with op := o }
def ret0 : Ret := { id := 7, kind := .load, dests := [.g k0 5 9] }
def retQ : Ret := { id := 7, kind := .load, dests := [.q ck0 0 1 7 9] }
/-- Queue 1 of the pair holds an entry that a load has reserved. -/
def queued : State := onCohort base fun c => { c with queues := [{ tid := 0, q := [[], [.reserved 7]] ++ List.replicate 6 [] }] }
theorem wit_ResultsLand :
    (let s := { withOp (.nat 7) base with rets := [ret0] }
     s.op = .nat 7 ∧ s.rets.find? (fun r => r.id == 7 && decide (r.kind = .load)) = some ret0) ∧
    let s := { withOp (.nat 7) queued with rets := [retQ] }
    s.rets.find? (fun r => r.id == 7 && decide (r.kind = .load)) = some retQ ∧ s.cohort? ck0 = some (cohOf s) ∧
      ((cohOf s).queues.find? fun y => y.tid == 0).isSome = true := by decide
/-- The thread is pending at a JOIN, in no group. -/
def pending : State := onThread { withOp (.nat3 1 1 0) base with groups := [] } fun m => { m with join := some { key := 1, pc := 0, since := 0 } }
/-- The entry of the group, ready. -/
def en0 : Entry :=
  { addr := false, pc := 0, prio := 0, members := [0], readySince := 0, wait := none, stat := .plain, skip := false, noMatch := false }
def ready : State := ((withOp (.nat2 0 0) base).updSlot 0 0 fun x => { x with run := none }).updGroup gk0 fun g => { g with frontier := [en0] }
theorem wit_GroupsIssue_forms : pending.op = .nat3 1 1 0 ∧ pending.cohortRuns ck0 = true ∧ pending.formable ck0 = [(0, [thOf pending])] ∧
    pending.thread? (thOf pending).key = some (thOf pending) ∧ (thOf pending).key.ck = ck0 ∧ (thOf pending).key.addr = false ∧
    pending.group? { ck := ck0, gid := 2048 } = none := by decide
theorem wit_GroupsIssue_waits : formNow 0 false false [thOf pending] = [] ∧ formNow 512 false false [thOf pending] = [thOf pending] := by decide
theorem wit_GroupsIssue_begins : ∃ b, ready.op = .nat2 0 0 ∧ ready.arbitrate 0 0 = some (b, en0) ∧ freeSlot ready 0 0 ∧
    ready.context? b.g.key.ck.ctx = some (ctxOf ready) ∧ (ctxOf ready).dbg.dbgctl.getLsbD 31 = false ∧
    (ctxOf ready).dbg.cxctl.getLsbD 31 = false :=
  ⟨_, rfl, rfl, ⟨by decide, by decide⟩, by decide, by decide, by decide⟩
theorem wit_GroupsIssue_det : let s := ready.setLaunches (ready.launches.map fun l => { l with hdr := { l.hdr with det := true } })
    ∃ b, s.boundTo 0 0 = [b] ∧ b.det = true ∧ s.mayBegin b.g.key.ck = true ∧ s.mgmt.thr = false ∧ freeSlot s 0 0 ∧
      ((s.core 0).slot 0).idleUntil ≤ s.clock :=
  ⟨_, rfl, by decide, by decide, by decide, ⟨by decide, by decide⟩, by decide⟩
theorem wit_GroupsIssue_decays :
    let s := ({ withOp (.nat 0) base with clock := 1024 } : State).updGroup gk0 fun g => { g with score := 8 }
    s.group? gk0 = some (grpOf s) ∧ s.clock / 1024 = (grpOf s).decayed + 1 ∧ (∃ c ∈ s.cohortsOn 0, c.key = ck0) ∧ grpOf s ∈ s.groups :=
  ⟨by decide, by decide, ⟨cohOf base, by decide, rfl⟩, by decide⟩
/-- Both streams of a pair wait on their queues. -/
def waiting (a : Bool) : Run := { i0.run with addr := a, stalledSince := some 0, waits := [(0, 1)] }
theorem wit_GroupsIssue_deadlock :
    let s := ({ withOp (.nat2 0 0) base with clock := 65536 } : State).updCore 0 fun c =>
      { c with slots := (c.slots.set 0 { IssueSlot.fresh with run := some (waiting false) }).set 1 { IssueSlot.fresh with run := some (waiting true) } }
    ((s.core 0).slot 0).run = some (waiting false) ∧ (∃ y ∈ (s.core 0).slots, y.run = some (waiting true)) ∧ (waiting true).gk = (waiting false).gk ∧
      (∃ c, (waiting true).stalledSince = some c ∧ c + 65536 ≤ s.clock) ∧ ∀ l ∈ s.pairQueues k0, l = [] :=
  ⟨by decide, ⟨{ IssueSlot.fresh with run := some (waiting true) }, by decide, rfl⟩, rfl, ⟨0, rfl, by decide⟩, by decide⟩
/-- A gather of one row. -/
def gather0 : Gather := { id := 9, ck := ck0, desc := 0x03000000#32, cls := 0, opened := 0, slot := 0, weights := [],
                          rows := [{ key := k0, x := List.replicate 8 0, dst := List.replicate 8 none }] }
theorem wit_MatrixEvents :
    (let s := engaged { MatrixEngine.fresh with queue := [req0] } { withOp (.nat 0) base with clock := 1 }
     (s.core 0).eng.running = none ∧ (s.core 0).eng.pick s.clock = some req0) ∧
    (let s := engaged { MatrixEngine.fresh with queue := [{ req0 with id := 2, cls := 1, tile := 3 }], running := some (req0, 0) }
       { withOp (.nat 0) base with clock := 4 }
     req0.vxm = false ∧ req0.occupied + (s.clock - 0) < req0.clocks ∧ 0 < s.clock ∧ req0.endedBy 3 < req0.endedBy 4 ∧
       ∃ p ∈ (s.core 0).eng.queue, req0.cls < p.cls ∧ p.issue < s.clock ∧ (s.core 0).eng.canStart p = true) ∧
    (let s := engaged { MatrixEngine.fresh with running := some (req0, 0) } { withOp (.nat 0) tiled with clock := 8 }
     0 + (req0.clocks - req0.occupied) ≤ s.clock ∧ req0.a.length = 64 ∧ req0.b.length = 64 ∧ s.cohort? req0.gk.ck = some (cohOf s) ∧
       ((cohOf s).tiles.find? fun y => y.no == req0.tile).isSome = true ∧ (tileDesc req0.desc).isSome = true) ∧
    (let s := engaged { MatrixEngine.fresh with running := some ({ req0 with id := 9, vxm := true }, 0), closed := [gather0] }
       { withOp (.nat 0) base with clock := 8 }
     0 + 8 ≤ s.clock ∧ (s.core 0).eng.closed.find? (fun g => g.id == 9) = some gather0) ∧
    let s := engaged { MatrixEngine.fresh with gathers := [gather0] } { withOp (.nat2 0 9) base with clock := 64 }
    (s.core 0).eng.gathers.find? (fun g => g.id == 9) = some gather0 ∧ gather0.opened + 64 ≤ s.clock := by
  refine ⟨⟨?_, ?_⟩, ⟨?_, ?_, ?_, ?_, { req0 with id := 2, cls := 1, tile := 3 }, ?_, ?_, ?_, ?_⟩, ⟨?_, ?_, ?_, ?_, ?_, ?_⟩, ⟨?_, ?_⟩, ?_, ?_⟩ <;> decide
/-- A request of the thread that waits for its slice. -/
def reqOf (op : ReqOp) (d : ReqDest) : Req :=
  { id := 5, src := .core 0, key := k0, merged := [], vdev := none, pa := 0x40000, op := op, dest := d, refusals := 0, refusedAt := 0, sentAt := 0,
    resp := none }
def asking (q : Req) : State := { withOp (.src (.core 0)) base with reqs := [q] }
theorem wit_SlicesServe_loads : let m := thOf base
    (∀ o ∈ [ReqOp.fillGen 4 false, .fillRo 4 false], let q := reqOf o (landsAt m 5 false 5 1); let s := asking q
     s.op = .src (.core 0) ∧ Waits s 0 q ∧ s.memOk ∧ q.key = m.key ∧ q.dest = landsAt m q.id false 5 (slotsFor (ldBytes .n32)) ∧
       q.pa % 64 + ldBytes .n32 ≤ 64 ∧ (s.core 0).l1 = [] ∧ s.refused (.core 0) (q.pa / 64) = false ∧ s.detLaunch q.key.ck = none) ∧
    (let q := reqOf (.atom .add 1 0 false true) (landsAt m 5 false 5 1); let s := asking q
     Waits s 0 q ∧ s.memOk ∧ s.pins = [] ∧ s.refused (.core 0) (q.pa / 64) = false ∧ s.detLaunch q.key.ck = none) ∧
    let q := reqOf (.atom .st 1 0 true false) .none; let s := asking q
    Waits s 0 q ∧ s.memOk ∧ s.refused (.core 0) (q.pa / 64) = false ∧ s.detLaunch q.key.ck = none := by
  unfold Waits State.memOk
  decide
def probing (pins : List Pin) (n : Nat) : State :=
  { withOp (.nat 5) base with reqs := [{ reqOf .probe .none with refusals := n }], pins := pins, clock := 64 }
theorem wit_SlicesServe_walks :
    (let s := { withOp (.nat 5) base with walks := [{ id := 5, ctx := 1, die := 0, va := 0, waiters := [0, 1], failed := false }] }
     s.context? 1 = some (ctxOf s) ∧ s.walk (ctxOf s) (.core 0) 0 = .leaf pte0 65536 ∧ s.walk (ctxOf s) (.core 0) 0x10000 = .fault false) ∧
    (let q := reqOf .probe .none; let s := probing [] 0; s.reqs = [q] ∧ q.refusedAt + 64 ≤ s.clock ∧ s.refused q.src (q.pa / 64) = false) ∧
    (let q := reqOf .probe .none; (probing [{ line := 0x1000, core := 1, ck := ck0 }] 0).refused q.src (q.pa / 64) = true) ∧
    (let q := { reqOf .probe .none with refusals := 2 ^ 20 - 1 }; let s := probing [{ line := 0x1000, core := 1, ck := ck0 }] (2 ^ 20 - 1)
     s.reqs = [q] ∧ 2 ^ 20 ≤ q.refusals + 1 ∧ s.refused q.src (q.pa / 64) = true ∧ s.waiting q.key = some i0) ∧
    let q := { reqOf (.remote (.unpin 0 [])) .none with vdev := some 3 }; let s := { withOp (.nat 5) base with reqs := [q], clock := 115200 }
    q.key.tid < 16384 ∧ s.context? q.key.ck.ctx = some (ctxOf s) ∧ q.sentAt + ((ctxOf s).pod.podtmo.toNat / 2 ^ 16) * 1800 ≤ s.clock := by
  refine ⟨?_, ?_, ?_, ?_, ?_⟩ <;> decide

/-! Witnesses: cohorts, copies, the Flue and the host channel. -/

def cached1 (s : State) : State := { s with mem := tables ++ [(0x40000, 1), (0x40002, 1), (0x40004, 1), (0x40005, 1), (0x40006, 0x88),
  (0x40007, 0x46), (0x40008, 1), (0x4000A, 1), (0x4000C, 1), (0x4000E, 1), (0x40010, 1), (0x40012, 1)], tlb := [entry0] }
/-- A launch with one cohort to place, and no cohort on the core. -/
def unplaced : State :=
  let s := ({ withOp (.nat2 1 0) base with threads := [], groups := [], cohorts := [], cores := [] } : State)
  s.setLaunches (s.launches.map fun l => { l with nextCoh := 0 })
theorem wit_Cohorts_placed : ∃ l r, unplaced.toPlace 1 true = some (.fresh l) ∧ unplaced.launch? 1 l.id = some l ∧ l.hdr.roles = [r] ∧
    l.hdr.rpl < 4 ∧ unplaced.vacating 0 = false ∧ unplaced.inPartition (ctxOf unplaced) 0 = true ∧ (ctxOf unplaced).vacant = [] ∧
    (ctxOf unplaced).vcoreAt 0 = some 0 ∧ unplaced.roomOn 0 l.hdr 0 = true ∧ unplaced.threads = [] ∧ unplaced.groups = [] :=
  ⟨_, _, rfl, rfl, rfl, by decide, by decide, by decide, by decide, by decide, by decide, rfl, rfl⟩
/-- A cohort whose thread has exited, of a launch with cohorts still to complete. -/
def exited (rem : Nat) : State :=
  let s := onThread ((withOp (.nat3 1 1 0) base).updSlot 0 0 fun x => { x with run := none }) fun m => { m with exited := true }
  s.setLaunches (s.launches.map fun l => { l with remaining := rem })
theorem wit_Cohorts_completed : ∀ n ∈ [1, 2], let s := exited n
    s.context? 1 = some (ctxOf s) ∧ (ctxOf s).st = .running ∧ s.cohort? ck0 = some (cohOf s) ∧ (cohOf s).st = .resident 0 ∧ (cohOf s).caps = [] ∧
      (ctxOf s).stopped = [] ∧ (∀ m ∈ s.threads, m.exited = true) ∧ s.cohortBusy ck0 = false ∧ (ctxOf s).pre = [] ∧
      (s.core ((ctxOf s).phys 0)).l1 = [] ∧ s.reqs = [] ∧ s.pins = [] ∧ (s.launch? 1 1).map (·.remaining) = some n := by decide
theorem wit_Cohorts_recorded : let s := (withOp (.nat2 1 1) base).setLaunches (base.launches.map fun l => { l with recordPending := true })
    (s.launch? 1 1).map (·.recordPending) = some true ∧ (ctxOf s).records.length < (ctxOf s).desc.rscount ∧ (ctxOf s).recvs = [] := by decide
/-- A request for a copy of one element within the scratchpad, of barrier 2. -/
def copy0 : CopyReq :=
  { ck := ck0, tid := 0, seq := 1, line := [0, 0, 2, 2, 5] ++ List.replicate 11 0 ++ [8] ++ List.replicate 47 0, phase := .start 0 1,
    status := .queued, idx := 0, tmpl := none, ext := none, counted := false, sup := true, core := 0, written := [], gid := 0, held := [], sent := 0,
    failedPeers := [], due := [], credit := 0 }
def tmpl0 : Template :=
  { efmt := 1, rank := 1, pmode := 0, op := 0, perm := [0, 1, 2, 3, 4], box := [1, 1, 1, 1, 1], sb := [1, 0, 0, 0, 0], ss := [1, 0, 0, 0, 0],
    ds := [1, 0, 0, 0, 0], padv := 0, xhandle := 0, gdim := 0 }
def tmplBytes : Bytes := [1, 0, 1, 0, 1, 1, 0x88, 0x46, 1, 0, 1, 0, 1, 0, 1, 0, 1, 0, 1] ++ List.replicate 45 0
/-- Engine 0 of context 1 holds a request; the cohort has a scratchpad. -/
def copying (o : EvOp) (q : CopyReq) : State :=
  { onCohort (withOp o (cached1 base)) fun c => { c with scratchSize := 64, bars := c.bars.set 2 { Barrier.fresh 2 with pend := 4 } } with
    engines := [(32, { queue := [q], nextSeq := [(1, 1)] })] }
theorem takeUp_of {s : State} {c e q b tm} (h0 : q.lineOk = true) (hh : leAt q.line 0 2 < c.desc.dtcount)
    (hr : s.readVirt c (c.engDie e) (.engine e) (engKey e q) (c.desc.dtbase + w64 (64 * leAt q.line 0 2)) 64 .device = (.ok b, s))
    (h1 : leAt b 2 2 = c.id) (h2 : leAt b 0 1 = 1) (h3 : parseTemplate b = some tm) (h4 : tm.op = 0)
    (hb : q.aligned ((eszOf (leAt b 4 1)).getD 1) = true) (hm : q.mcastOk (s.launch? q.ck.ctx q.ck.launch) tm = true)
    (hp : tm.perm = List.range 5)
    (hc : CopyReq.chlocOk c (s.launch? q.ck.ctx q.ck.launch) none = true)
    (hy : q.beyond c tm none (match s.cohort? q.ck with | some h => h.scratchSize | none => 0) = false) :
    s.takeUpChecks c e q = (.ok (tm, none), s) := by
  have h5 : ¬c.desc.dtcount ≤ leAt q.line 0 2 := Nat.not_le.2 hh
  simp [State.takeUpChecks, h0, State.readTemplate, h5, State.readEntry, hr, Got.andThen, h1, h2, h3, h4, hb, hm, hc, State.indexWords, hp,
    CopyReq.overlaps]
  exact hy
theorem wit_Copies_takenUp : let s := copying (.nat 32) copy0
    s.current 32 = some copy0 ∧ s.context? 1 = some (ctxOf s) ∧ s.takeUpChecks (ctxOf s) 32 copy0 = (.ok (tmpl0, none), s) ∧
      lineTiles copy0.line = [] ∧ (copy0.line.getD 4 0).getLsbD 5 = false := by
  refine ⟨by decide, by decide, takeUp_of (b := tmplBytes) (by decide) (by decide) ?_ (by decide) (by decide) (by decide) rfl (by decide)
    (by decide) rfl (by decide) (by decide), by decide, by decide⟩
  exact readVirt_of (by decide) (by decide) (xlate_of (pte := pte0) (size := 65536) (by decide) (by unfold Holds; decide))
    ((piece_of (pa := 0x40000) (sup := false) rfl rfl rfl).trans (congrArg _ (by decide)))
theorem wit_Copies_refused :
    (let q := { copy0 with line := copy0.line.set 3 16 }; (copying (.nat 32) q).current 32 = some q ∧ q.lineOk = false) ∧
    let q := { copy0 with line := copy0.line.set 0 1 }; let s := copying (.nat 32) q
    s.current 32 = some q ∧ q.lineOk = true ∧ (ctxOf s).desc.dtcount ≤ leNat (q.line.take 2) := by decide
/-- The request taken up. -/
def copy1 : CopyReq := { copy0 with status := .active, tmpl := some tmpl0, credit := 4 }
theorem wit_Copies_copied : let s := copying (.src (.engine 32)) copy1; let x := tmpl0.elem (lineOrg copy1.line) 0 0
    (s.op = .src (.engine 32) ∧ s.current 32 = some copy1 ∧ s.context? 1 = some (ctxOf s) ∧ copy1.tmpl = some tmpl0 ∧ copy1.ext = none) ∧
      s.cohort? ck0 = some (cohOf s) ∧ swf 0 (cohOf s).scratch = true ∧ x.valid = true ∧ x.write = true ∧ x.src = 0 ∧ x.dst = 0 ∧
      tmpl0.esz = 4 ∧ leAt copy1.line 16 8 = 8 ∧ (cohOf s).scratchSize = 64 ∧
      (cohOf s).older = [] := by decide
theorem wit_Copies_ended : let q := { copy1 with idx := 1 }; let s := copying (.nat 32) q
    (s.cohort? ck0).isSome = true ∧ (cohOf s).bars.length = 16 ∧ (ctxOf s).st = .running ∧ s.performedOn 32 false = some (ctxOf s, q) ∧
      (s.bar ck0 2).arr + 0 < (s.bar ck0 2).expa := by decide
theorem wit_Copies_arrived : let q := { copy1 with idx := 1, line := copy1.line.set 4 0x15 }
    let s := onCohort (copying (.nat 32) q) fun c => { c with bars := c.bars.set 2 { Barrier.fresh 1 with pend := 4 } }
    s.performedOn 32 false = some (ctxOf s, q) ∧ (s.bar ck0 2).arr + 1 = (s.bar ck0 2).expa ∧ (s.bar ck0 2).pend = q.credit ∧
      (s.bar ck0 2).arrivals = [] ∧ (s.bar ck0 2).deferred = [] := by decide
theorem wit_Copies_overflows : let q := { copy1 with idx := 1 }
    let s := onCohort (copying (.nat 32) q) fun c => { c with bars := c.bars.set 2 { Barrier.fresh 1 with pend := 3, arr := 1 } }
    s.performedOn 32 false = some (ctxOf s, q) ∧ (s.bar ck0 2).arr = (s.bar ck0 2).expa ∧ (s.bar ck0 2).pend < q.credit := by decide
def over0 : TrapRec :=
  { cause := 0, sub := 0, sup := false, write := false, malformed := false, cow := false, poison := false, req := true, launch := 1, coh := 0,
    tid := 0, gid := 0, pc := 0, addr := 0, info1 := 0, info2 := 0, ptptime := 0, ltime := 0, clock := 0, kind := 0, engine := 0, seq := 1 }
def slot0 : HoldSlot :=
  { eng := 32, seq := 1, ck := ck0, order := 0, data := [(8, 1)], receivers := [0], dnb := 2, bytes := 4, parked := false, overflow := over0 }
theorem wit_Copies_parked : let q := { copy1 with idx := 1, line := copy1.line.set 4 0x25 }
    let s := { copying (.nat 32) q with holds := [(0, 0, slot0)] }
    s.performedOn 32 true = some (ctxOf s, q) ∧ q.ext = none ∧ (s.bar ck0 2).arr + 0 < (s.bar ck0 2).expa ∧ slot0.receivers ≠ [] := by decide
theorem wit_Copies_drained : let h := { slot0 with parked := true }; let s := { copying (.nat3 0 0 0) copy1 with holds := [(0, 0, h)] }
    s.cohort? ck0 = some (cohOf s) ∧ (cohOf s).st = .resident 0 ∧ (ctxOf s).st = .running ∧ (ctxOf s).stopped = [] ∧
      (cohOf s).bars.length = 16 ∧ swf 0 (cohOf s).scratch = true ∧ (h.data.map (·.1)).Nodup ∧ 0 < ((cohOf s).bar 2).pend ∧
      ((cohOf s).bar 2).arr < ((cohOf s).bar 2).expa := by decide
/-- A batch of core 0 that no node has applied, and a counter that may fire. -/
def batch0 : Batch := { srcId := 0, vdev := 0, seq := 0, incs := [change 0 0 1], decs := [], home := 0, applied := [], peers := [] }
def counter0 : Counter := { idx := 3, loc := 0, cnt := true, frn := false, ctime := 0, ccount := 0, hdr := probeLaunch.hdr, die := 0 }
theorem wit_FlueEvents :
    (let s := onContext (withOp (.nat3 1 0 0) base) fun c => { c with batches := [batch0] }
     s.context? 1 = some (ctxOf s) ∧ (ctxOf s).nextBatch 0 0 0 = some batch0 ∧ (ctxOf s).recvs = [] ∧
       (((ctxOf s).node 0).counts.map fun x => (x.loc, x.time)).Nodup) ∧
    let s := onContext (withOp (.nat2 1 3) base) fun c => { c with counters := [counter0] }
    s.context? 1 = some (ctxOf s) ∧ (ctxOf s).nextFire = some counter0 := by decide
/-- The host channel's location has depth 1, and context 1 is the one selected. -/
def hosted (o : EvOp) : State :=
  let s := onContext (withOp o base) fun c => { c with graph := { c.graph with depths := [1] } }
  { s with mgmt := { s.mgmt with dbgsel := 1 } }
theorem fits_of (n : Nat) : fits 1 (atFrame n) := by
  intro k hk h
  simp only [counterOf, atFrame, BitVec.toNat_ofNat]
  have : k = 1 ∨ k = 2 ∨ k = 3 := by omega
  rcases this with rfl | rfl | rfl <;> simp only [Nat.reduceMul, Nat.reduceSub, Nat.reducePow] <;> omega
theorem zero_notAfter (u : W64) : notAfter 0 u := by intro k _; simp [counterOf]
theorem wit_HostAndTriggers_point : let s := hosted (.word (atFrame 1)); let c := ctxOf s
    s.context? (s.mgmt.dbgsel.toNat % 2 ^ 16) = some c ∧ (fits (c.graph.depths.getD c.desc.hostch 0) (atFrame 1) ∧ notAfter c.hostpt (atFrame 1) ∧
      c.hostClosed = false) ∧ atFrame 1 ≠ c.hostpt ∧ s.keyRoom c [change c.desc.hostch (atFrame 1) 1, change c.desc.hostch c.hostpt (-1)] = true :=
  ⟨by decide, ⟨fits_of 1, zero_notAfter _, rfl⟩, by decide, by decide⟩
theorem wit_HostAndTriggers_record :
    (let s := { hosted .none with bells := [0] }; s.context? (leNat [sget 0 s.ring 0, sget 0 s.ring 1]) = none ∧ ∀ x ∈ s.contexts, x.hostHold = []) ∧
    (let s := { hosted .none with bells := [0], ring := [(0, 1), (8, 1)] }
     s.context? (leNat [sget 0 s.ring 0, sget 0 s.ring 1]) = some (ctxOf s) ∧ swf 0 s.ring = true ∧
       ¬(BitVec.ofNat 64 (leNat ((List.range 8).map fun k => sget 0 s.ring (8 + k)))) = (0 : W64)) ∧
    let s := { hosted .none with bells := [0], ring := [(0, 1)] }; let c := ctxOf s
    s.context? (leNat [sget 0 s.ring 0, sget 0 s.ring 1]) = some c ∧
      BitVec.ofNat 64 (leNat ((List.range 8).map fun k => sget 0 s.ring (8 + k))) = (0 : W64) ∧ c.hostClosed = false ∧ c.hostpt = 0 ∧
      c.records.length < c.desc.rscount ∧ s.keyRoom c [change c.desc.hostch 0 1] = true := by decide
def unit1 : FrameUnit := { FrameUnit.fresh with period := 1000 }
def holding (f : W32) : State :=
  { hosted (.nat 0) with units := [(0, { unit1 with ctl := 0x80000001, stat := 1, frame := f, f0 := f.toNat })] }
theorem wit_HostAndTriggers_enables :
    (let s := { hosted (.natWord 0 0x80000001) with units := [(0, unit1)] }; let c := ctxOf s
     unitOf s 0 = unit1 ∧ s.context? ((0x80000001#64).toNat % 2 ^ 16) = some c ∧ unit1.stat.getLsbD 0 = false ∧ 1000 ≤ unit1.period.toNat ∧
       c.graph.depths = [1] ∧ s.keyRoom c [change 0 (atFrame 0) 1] = true) ∧
    (unitOf (hosted (.natWord 0 0x80000001)) 0).period.toNat = 0 := by decide
theorem wit_HostAndTriggers_fires : ∀ k < 2, let s := holding (BitVec.ofNat 32 (0xFFFF * k))
    s.context? ((unitOf s 0).ctl.toNat % 2 ^ 16) = some (ctxOf s) ∧ (unitOf s 0).stat.getLsbD 0 = true ∧ (unitOf s 0).ctl.getLsbD 31 = true ∧
      (ctxOf s).st = .running := by decide
theorem wit_HostAndTriggers_due : let s := holding 0
    (unitOf s 0).start = 0 ∧ (unitOf s 0).frame = 0 ∧ (unitOf s 0).f0 = 0 ∧ s.time.ns = 0 := by decide
theorem wit_HostAndTriggers_room : (holding 0).keyRoom (ctxOf (holding 0)) [change 0 0 1, change 0 0x1000000000000 1] = true := by decide
theorem wit_HostAndTriggers_last : (holding 0xFFFF).keyRoom (ctxOf (holding 0xFFFF)) [change 0 0xFFFF000000000000 1, change 0 0 1] = true := by decide

/-! Witnesses: stops, commands and saving. -/

/-- No cohort is on the device. -/
def empty (o : EvOp) (f : Context → Context) : State :=
  onContext { withOp o base with threads := [], groups := [], cohorts := [], cores := [] } f
def halting (o : EvOp) : State := empty o fun c => { c with st := .halting }
theorem wit_Stops_arrives :
    (let s := base; s.context? 1 = some (ctxOf s) ∧ (ctxOf s).stopped.contains (.engine 3) = false ∧ (ctxOf s).st ≠ .halting) ∧
    (∀ u ∈ [StopUnit.engine 3, .flue 0, .core 0], let s := halting (.stop 1 u)
      s.context? 1 = some (ctxOf s) ∧ (ctxOf s).id = 1 ∧ (ctxOf s).stopped.contains u = false ∧ (ctxOf s).st = .halting) ∧
    let s := halting (.stop 1 (.core 0))
    (0, 0) ∈ (ctxOf s).cores ∧ (ctxOf s).phys 0 = 0 ∧ (ctxOf s).pre = [] ∧ (s.core 0).eng.gathers = [] ∧
      (∀ x ∈ (s.core 0).slots, x.run = none) ∧ s.coreBusy 1 0 ((ctxOf s).haltClock s.clock) = false ∧ s.cohortsAt 1 0 = [] := by decide
/-- A copy of two elements of one write beat, halted after the first. -/
def beating : State :=
  onContext (copying (.stop 1 (.engine 0)) { copy1 with idx := 1, credit := 8, tmpl := some { tmpl0 with box := [2, 1, 1, 1, 1], sb := [2, 0, 0, 0, 0] } }) fun c =>
    { c with st := .halting }
theorem wit_Stops_engines : beating.context? 1 = some (ctxOf beating) ∧ (ctxOf beating).id = 1 ∧ (ctxOf beating).stopped = [] ∧
    (ctxOf beating).st = .halting ∧ beating.midBeat 32 = true ∧ (halting (.stop 1 (.engine 3))).midBeat 35 = false := by decide
theorem ok_of {α σ : Type} {p : Got α × σ} {a : α} (h : p.1 = .ok a) : p = (.ok a, p.2) := by rw [← h]
def halted : State := onContext (halting (.nat 1)) fun c => { c with stopped := c.unitsOf }
theorem wit_Stops_written : ∃ c0 c1 s1, (halted.refreshUnits 1).context? 1 = some c0 ∧
    (halted.refreshUnits 1).writeStop c0 (halted.clock, halted.ptp) = (.ok (), s1) ∧ s1.context? 1 = some c1 ∧ c1.pod.damper = .none ∧
    leAt (s1.mgmt.parts.getD (ctxOf halted).desc.part []) 40 2 = 0 :=
  ⟨_, _, _, rfl, ok_of (by decide), rfl, by decide, by decide⟩
theorem wit_Stops_complete : let s := halted
    s.context? 1 = some (ctxOf s) ∧ (ctxOf s).st = .halting ∧ (∀ u ∈ (ctxOf s).unitsOf, u ∈ (ctxOf s).stopped) ∧ s.mgmt.saving = none ∧
      s.mgmt.haltCmd = none ∧ (ctxOf s).pod.damper = .none ∧ leAt (s.mgmt.parts.getD (ctxOf s).desc.part []) 40 2 = 0 := by decide
theorem wit_Stops_errors : 0x40000 / 32 ∉ base.poison ∧ base.coreOf ck0 = some 0 ∧ base.context? 1 = some (ctxOf base) ∧
    (∃ e, e ∈ (cached base).tlb ∧ e.lvl.serves (.core 0) 0 = true) ∧ (ready.thread? k0).isSome = true ∧ ready.waiting k0 = none ∧
    ready.entryOf k0 = some en0 ∧ en0.wait = none ∧ en0.stat = .plain := by decide
theorem wit_Stops_scratch : ∃ l, base.cohort? ck0 = some (cohOf base) ∧ base.launch? 1 1 = some l ∧ (cohOf base).st = .resident 0 ∧
    (cohOf base).key = ck0 ∧ (ctxOf base).id = 1 ∧ l.hdr.idem = false ∧ (cohOf base).relaunches < 3 :=
  ⟨_, by decide, rfl, by decide, by decide, by decide, by decide, by decide⟩
theorem wit_Commands_refused : base.context? 2 = none ∧ (ctxOf base).st ∉ [CtxSt.stopped] ∧ (base.context? 1).isSome = true := by decide
theorem noCommand_of {s : State} (h1 : s.mgmt.busy = false) (h2 : (s.contexts.all fun c => c.stepping.isNone) = true) : noCommand s :=
  ⟨h1, fun c h => by simpa using List.all_eq_true.1 h2 c h⟩
theorem wit_Commands_bad : let s := withOp (.nat 2) base
    noCommand s ∧ s.context? 2 = none ∧ s.mgmt.ctxarg.toNat + 256 ≤ s.capacity ∧ s.pins = [] ∧ s.poison = [] ∧
      descOk (Memory.read s.mem 0 256) 2 = false :=
  ⟨noCommand_of (by decide) (by decide), by decide, by decide, by decide, by decide, by decide⟩
theorem wit_Commands_created : let s := { withOp (.nat 1) base with mgmt := { base.mgmt with creating := some (1, 0), busy := true } }
    s.mgmt.creating = some (1, 0) ∧ (s.context? 1).isSome = true := by decide
def stopped (o : EvOp) (st : CtxSt) : State := empty o fun c => { c with st := st, stopped := c.unitsOf }
theorem wit_Commands_resumes :
    let s := (onContext (withOp (.nat 1) base) fun c => { c with st := .stopped }).updGroup gk0 fun g => { g with frontier := [{ en0 with stat := .trapped, skip := true }] }
    noCommand s ∧ s.context? 1 = some (ctxOf s) ∧ (ctxOf s).st = .stopped ∧ (ctxOf s).recvs = [] ∧ s.group? gk0 = some (grpOf s) ∧
      (s.cohort? ck0).isSome = true ∧ (grpOf s).frontier = [{ en0 with stat := .trapped, skip := true }] :=
  ⟨noCommand_of (by decide) (by decide), by decide, by decide, by decide, by decide, by decide, by decide⟩
theorem wit_Commands_cleared : let s := onContext (withOp (.nat 1) base) fun c => { c with st := .stopped }
    ∃ s1, s.writeVirt (ctxOf s) (ctxOf s).desc.stopbase (List.replicate 256 0) = (.ok (), s1) ∧ s1.context? 1 = some (ctxOf s) ∧
      s1.groups = s.groups ∧ s1.cohorts = s.cohorts := ⟨_, ok_of (by decide), by decide, by decide, by decide⟩
theorem wit_Commands_states : noCommand base ∧ (ctxOf base).st = .running ∧ (ctxOf (stopped (.nat 1) .stopped)).st = .stopped :=
  ⟨noCommand_of (by decide) (by decide), by decide, by decide⟩
theorem wit_Commands_invalidates : let s := { base with mgmt := { base.mgmt with tlbinv := 0x80100001 } }
    s.mgmt.tlbinv.getLsbD 31 = true ∧ base.mgmt.tlbinv.getLsbD 31 = false := by decide
theorem wit_Preemption_preempts : let s := withOp (.nat2 1 1) base
    s.context? 1 = some (ctxOf s) ∧ noCommand s ∧ (ctxOf s).st = .running := ⟨by decide, noCommand_of (by decide) (by decide), by decide⟩
theorem wit_Preemption_drained : let s := empty (.nat2 1 0) fun c => { c with pre := [(0, .drain)] }
    s.context? 1 = some (ctxOf s) ∧ (ctxOf s).pre = [(0, .drain)] ∧ (s.core ((ctxOf s).phys 0)).eng.gathers = [] ∧ s.drained (ctxOf s) 0 = true ∧
      s.blockedLine ((ctxOf s).phys 0) = none ∧ ∃ s2 c2, (s.dropProbes (coreKey 1 0)).saveCore (ctxOf s) 0 = (.ok true, s2) ∧
      s2.context? 1 = some c2 ∧ c2.pre = [(0, .drain)] :=
  ⟨by decide, by decide, by decide, by decide, by decide, _, _, ok_of (by decide), rfl, by decide⟩
theorem wit_Preemption_saved : let s := empty (.nat2 1 0) fun c => { c with pre := [(0, .save)], preBusy := true }
    s.context? 1 = some (ctxOf s) ∧ (ctxOf s).pre = [(0, .save)] ∧ (ctxOf s).st = .running ∧ (ctxOf s).preBusy = true := by decide
theorem wit_Preemption_commands : ∀ st ∈ [CtxSt.running, .stopped, .saved], let s := stopped (.nat 1) st
    s.context? 1 = some (ctxOf s) ∧ (ctxOf s).st = st ∧ s.mgmt.busy = false ∧ ∀ c ∈ s.contexts, c.stepping = none := by decide
theorem wit_Preemption_checks : let s := stopped (.nat 1) .saved
    ∃ err s1 c1, s.checkSaved (ctxOf s) = (.ok err, s1) ∧ (s1.deviceDone (ctxOf s)).context? 1 = some c1 :=
  ⟨none, _, _, ok_of (by decide), rfl⟩
/-- A second page, and a save area over the first two. -/
def savable (n : Nat) : State :=
  let s := onContext (stopped (.nat 1) .saving) fun c => { c with desc := { c.desc with savesize := n } }
  { s with mem := tables ++ [(0x31008, 0x1D), (0x3100A, 5)] }
theorem wit_Preemption_saves : let s := savable 0x20000
    s.context? 1 = some (ctxOf s) ∧ (ctxOf s).st = .saving ∧ s.blockedCore (ctxOf s) = none ∧ s.reqs = [] ∧
      ∃ s2 c2, s.saveAll (ctxOf s) = (.ok true, s2) ∧ s2.context? 1 = some c2 :=
  ⟨by decide, by decide, by decide, by decide, _, _, ok_of (by decide), rfl⟩
theorem wit_Preemption_noRoom : let s := savable 0
    (ctxOf s).st = .saving ∧ ∃ s2 c2, s.saveAll (ctxOf s) = (.ok false, s2) ∧ s2.context? 1 = some c2 :=
  ⟨by decide, _, _, ok_of (by decide), rfl⟩
def restoring : State := { stopped (.nat 1) .restoring with mgmt := { base.mgmt with restoring := some (1, none) } }
theorem wit_Preemption_restores : restoring.context? 1 = some (ctxOf restoring) ∧ restoring.mgmt.restoring = some (1, none) ∧
    ∀ p, restoring.placeOn (ctxOf restoring) p = none :=
  ⟨by decide, by decide, fun p => by
    have h : restoring.toPlace (ctxOf restoring).id (decide ((ctxOf restoring).st = .running)) = none := rfl
    simp [State.placeOn, h]⟩
theorem wit_Preemption_header : ∃ s1 c1, restoring.writeVirt (ctxOf restoring) (ctxOf restoring).desc.stopbase
    (stopHeader (restoring.clock, restoring.ptp) 0 0 256) = (.ok (), s1) ∧ s1.context? 1 = some c1 := ⟨_, _, ok_of (by decide), rfl⟩
/-- The descriptor of context 2: page table at 0x1_0000, graph at 0x200, initial header at 0. -/
def descCells : List Host.Cell :=
  [(0x50000, 1), (0x50002, 2), (0x5000A, 1), (0x50018, 8), (0x5001C, 1), (0x50030, 1), (0x50034, 1), (0x50041, 2), (0x5004A, 1), (0x5006A, 1)]
def descBytes : Bytes :=
  [1, 0, 2, 0, 0, 0, 0, 0, 0, 0, 1] ++ List.replicate 13 0 ++ [8, 0, 0, 0, 1] ++ List.replicate 19 0 ++ [1, 0, 0, 0, 1] ++ List.replicate 12 0 ++
    [2] ++ List.replicate 8 0 ++ [1] ++ List.replicate 31 0 ++ [1] ++ List.replicate 149 0
def describing : State :=
  { withOp (.nat 2) base with mem := tables ++ header0 ++ [(0x40200, 1)] ++ descCells, tlb := [{ entry0 with ctx := 2 }],
                              mgmt := { base.mgmt with ctxarg := 0x50000 } }
theorem desc_read : Memory.read describing.mem 0x50000 256 = descBytes := by decide
def ctx2 : Context := Context.fresh (descOf descBytes) { depths := [], sums := [], edges := [], image := [] }
def graph2 : Graph := { depths := [0], sums := [], edges := [], image := 1 :: List.replicate 19 0 }
theorem sup_of {va : W64} {n : Nat} {bs} (hp : pagePieces va.toNat (n / 65536 + 2) n = [(va.toNat, n)]) (hv : va.toNat < 65536) {c : Context} (hc : c.id = 2)
    (hw : describing.walk c deviceSrc va.toNat = .leaf pte0 65536)
    (hl : leafOutcome c va .load .device pte0 65536 = .ok none (0x40000 + va.toNat) false)
    (hr : Memory.read describing.mem (0x40000 + va.toNat) n = bs) : describing.readSup c va n = (.ok bs, describing) := by
  have hh : Holds describing c 0 deviceSrc va.toNat pte0 65536 := by
    have h : describing.tlb = [{ entry0 with ctx := 2 }] := rfl
    have h0 : va.toNat / 65536 = 0 := by omega
    have hs : describing.tlbHits c.id deviceSrc 0 va.toNat = [{ entry0 with ctx := 2 }] := by
      simp [State.tlbHits, h, hc, entry0, hv, TlbAt.serves, deviceSrc]
    refine ⟨by rw [hs]; simp, ?_, ?_⟩
    · rw [hs]; simp [entry0]
    · simp [fillsOf, deviceSrc, h, hc, entry0, h0]
  exact readVirt_of hp (by omega) (xlate_of hw hh) ((piece_of (sup := false) hl rfl rfl).trans (congrArg _ hr))
def ctx3 : Context := Context.fresh (descOf descBytes) graph2
theorem graph_header : describing.readSup ctx2 0x200 16 = (.ok (1 :: List.replicate 15 0), describing) :=
  sup_of (by decide) (by decide) (by decide) (by decide) (by decide) (by decide)
theorem graph_rest : describing.readSup ctx2 0x210 4 = (.ok (List.replicate 4 0), describing) :=
  sup_of (by decide) (by decide) (by decide) (by decide) (by decide) (by decide)
theorem init_header : describing.readSup ctx3 0 256 = (.ok someBytes, describing) :=
  sup_of (by decide) (by decide) (by decide) (by decide) (by decide) (by decide)
theorem init_table : describing.readSup ctx3 0x100 8 = (.ok (List.replicate 8 0), describing) :=
  sup_of (by decide) (by decide) (by decide) (by decide) (by decide) (by decide)
theorem init_read : describing.readHeader ctx3 0 deviceSrc (deviceKey 2) 0 .device = (.ok (someBytes, List.replicate 8 0), describing) := by
  have h1 : describing.readVirt ctx3 0 deviceSrc (deviceKey 2) 0 256 .device = (.ok someBytes, describing) := init_header
  have h2 : describing.readVirt ctx3 0 deviceSrc (deviceKey 2) 0x100#64 8 .device = (.ok (List.replicate 8 0), describing) := init_table
  have hn : leAt someBytes 32 2 = 1 := by decide
  have hb : w64 (leAt someBytes 24 8) = 0x100#64 := by decide
  have h3 : (1 == 0 || decide (4096 < 1)) = false := rfl
  simp only [State.readHeader, h1, Got.andThen, hn, h3, hb, h2, Nat.mul_one]
  rfl
theorem wit_Commands_creates : ∃ c h, describing.mgmt.ctxarg.toNat = 0x50000 ∧ noCommand describing ∧ describing.context? 2 = none ∧
    0x50000 + 256 ≤ describing.capacity ∧ describing.pins = [] ∧ describing.poison = [] ∧
    describing.checkCreate 2 (Memory.read describing.mem 0x50000 256) = (.ok c h, describing) := by
  obtain ⟨h, hh⟩ := Option.ne_none_iff_exists'.1 some_header
  have k : (parseHeader someBytes (List.replicate 8 0)).map (fun h => (h.hasCap, timeOk h.tdepth h.intime,
      (describing.remapCores ctx3 true).cores.any fun p => describing.roomOn p.2 h 0)) = some (false, true, true) := by decide
  have k2 : (parseHeader someBytes (List.replicate 8 0)).map (fun h => describing.keyRoom ctx3 (firstCounts ctx3.desc h)) = some true := by decide
  rw [hh] at k k2
  simp only [Option.map_some, Option.some.injEq, Prod.mk.injEq] at k k2
  refine ⟨describing.remapCores ctx3 true, h, by decide, noCommand_of (by decide) (by decide), by decide, by decide, by decide, by decide, ?_⟩
  have hi : describing.checkInit ctx3 = (.ok (describing.remapCores ctx3 true) h, describing) := by
    have e0 : (ctx3.desc.inithdr.toNat % 256 != 0) = false := by decide
    have e1 : describing.readHeader ctx3 0 deviceSrc (deviceKey ctx3.desc.ctxid) ctx3.desc.inithdr .device = _ := init_read
    simp only [State.checkInit, e0, e1, Created.ofRead, hh, k.1, k.2.1, k.2.2, k2]
    rfl
  rw [desc_read]
  have h0 : (describing.mgmt.ctxarg.toNat % 256 != 0 || !descOk descBytes 2) = false := by decide
  have h1 : ((descOf descBytes).seqbase.toNat % 256 != 0) = false := by decide
  have h2 : (describing.context? (descOf descBytes).ctxid).isSome = false := by decide
  have h3 : (descOf descBytes).graphbase = 0x200#64 := by decide
  have h4 : graphSize (1 :: List.replicate 15 0) = 4 := by decide
  have h5 : parseGraph ((1 :: List.replicate 15 0) ++ List.replicate 4 0) = some graph2 := by decide
  have h6 : ¬graph2.nloc ≤ (descOf descBytes).hostch := by decide
  have g1 : describing.readSup (Context.fresh (descOf descBytes) { depths := [], sums := [], edges := [], image := [] }) 0x200#64 16 = _ := graph_header
  have g2 : describing.readSup (Context.fresh (descOf descBytes) { depths := [], sums := [], edges := [], image := [] }) (0x200#64 + 16) 4 = _ := graph_rest
  simp only [State.checkCreate, h0, h1, h2, h3, g1, Created.ofRead, h4, g2, h5, h6]
  simp only [Bool.false_eq_true, if_false]
  exact hi

/-! Witnesses: debugging, pods and the device. -/

/-- Context 1 is the one that DBGSEL names. -/
def selected (o : EvOp) (s : State) : State := { s with op := o, mgmt := { s.mgmt with dbgsel := 1 } }
theorem wit_Debugging_registers : let s := selected (.word 0x80000000) base
    Selected s (ctxOf s) ∧ s.context? 1 = some (ctxOf s) ∧ s.stepEntry (ctxOf s) 0x80000000 = none ∧ (ctxOf s).st ≠ .stopped ∧
      (0x80000000#64).getLsbD 31 = true := by unfold Selected; decide
theorem wit_Debugging_steps :
    let s := onContext (selected (.word 0) ready) fun c => { c with st := .stopped, dbg := { c.dbg with dbgctl := 0x80000000, dbgtgt := 1 } }
    Selected s (ctxOf s) ∧ s.stepEntry (ctxOf s) 0 = some (0, gk0, en0) ∧ (ctxOf s).dbg.dbgctl.toNat % 2 ^ 8 = 0 ∧
      ((s.core ((ctxOf s).phys 0)).slot 0).run = none ∧ 0 < (s.core ((ctxOf s).phys 0)).slots.length ∧ s.group? gk0 = some (grpOf s) := by
  unfold Selected
  decide
def stepping0 : Stepping := { gk := gk0, addr := false, tid := 0, members := [0], traps := 0 }
theorem wit_Debugging_ended : let s := onContext { withOp (.nat 1) base with cores := [] } fun c => { c with stepping := some stepping0 }
    s.context? 1 = some (ctxOf s) ∧ (ctxOf s).stepping = some stepping0 ∧ s.cores = [] ∧ s.memBusy gk0.ck = false ∧ (ctxOf s).traps = [] := by
  decide
theorem wit_Debugging_written :
    let s := onContext { withOp (.nat 1) base with cores := [] } fun c => { c with stepping := some stepping0 }
    let ended := fun (d : Context) =>
      { d with stepping := none, traps := d.traps ++ [s.stepRec stepping0], stepLanes := d.stepLanes ++ stepping0.laneStatus none }
    ∃ s3 c3, (({ s with free := s.free + 1 } : State).updContext 1 ended).refreshStop 1 = (.ok (), s3) ∧ s3.context? 1 = some c3 :=
  ⟨_, _, ok_of (by decide), rfl⟩
theorem wit_Debugging_idle : ∀ k j, ((({ withOp (.nat 1) base with cores := [] } : State).core k).slot j).run = none := by
  intro k j
  have h : (({ withOp (.nat 1) base with cores := [] } : State).core k) = Core.fresh := by simp [State.core, aget]
  rw [h]
  have : j = 0 ∨ j = 1 ∨ j = 2 ∨ j = 3 ∨ 4 ≤ j := by omega
  rcases this with rfl | rfl | rfl | rfl | hj
  · rfl
  · rfl
  · rfl
  · rfl
  · simp only [Core.slot, Core.fresh, List.getD_eq_getElem?_getD]
    rw [List.getElem?_eq_none (by simpa using hj)]
    rfl
theorem wit_Debugging_trial :
    let s := onContext { withOp (.nat 1) base with clock := 9 } fun c => { c with dbg := { c.dbg with cxctl := 0x80000000, cxlen := 9 } }
    (ctxOf s).dbg.cxctl.getLsbD 31 = true ∧ (ctxOf s).dbg.cxStart + (ctxOf s).dbg.cxlen.toNat ≤ s.clock := by decide
/-- A sampling core with no cohort, with room for a number of records. -/
def sampled (n : W32) : State :=
  (empty (.nat 0) id).updCore 0 fun c => { c with smpctl := 0x80000000, smpbase := 0x50000, smpsize := n }
theorem wit_Debugging_samples : ∀ n < 2, let s := sampled (BitVec.ofNat 32 (4 * n)); let k := s.core 0
    s.sampleDue 0 = true ∧ base.sampleDue 0 = false ∧ k.smpctl.getLsbD 31 = true ∧ k.smpNext ≤ s.clock ∧ s.groupsOn 0 = [] ∧ Memory.wf s.mem = true ∧ k.smpptr.toNat + 4 * n ≤ k.smpsize.toNat ∧
      k.smpbase.toNat % 2 ^ 56 / 32 * 32 + 32 * k.smpptr.toNat + 128 ≤ s.capacity ∧ k.smpdrop.toNat + 4 < 2 ^ 32 := by decide
/-- A job of two members: this device is member 0, and `root` its root. -/
def member (root : Nat) (o : EvOp) (f : Pod → Pod) : State :=
  onContext (selected o base) fun c => { c with pod := f { c.pod with
    podcfg := BitVec.ofNat 64 (2 ^ 32 + root * 2 ^ 12), devmap := [(0, 0x80000000), (1, 0x80000000)], damper := .run } }
def msg (b : CtlBody) : CtlMsg := { src := 1, jobid := 1, epoch := 0, cseq := 0, last := true, body := b }
/-- What a member hears a message by, as a test. -/
def hearsB (s : State) (c : Context) (m : CtlMsg) : Bool :=
  decide (s.op = .ctl m) && decide (s.jobContext m.jobid = some c) && decide (s.context? c.id = some c) && devBit c m.src 31 && !devBit c m.src 30 &&
    decide (aget m.cseq c.pod.cseqIn m.src = m.cseq) && m.last
theorem hears_of {s c m} (h : hearsB s c m = true) : Hears s c m := by
  simp only [hearsB, Bool.and_eq_true, decide_eq_true_eq, Bool.not_eq_true'] at h
  exact ⟨h.1.1.1.1.1.1, h.1.1.1.1.1.2, h.1.1.1.1.2, ⟨h.1.1.1.2, h.1.1.2⟩, h.1.2, h.2⟩
theorem wit_PodMembers_joins :
    (let s := member 0 .none fun p => { p with damper := .none }
     Selected s (ctxOf s) ∧ (ctxOf s).st = .running ∧ jobOf (ctxOf s) ≠ 0 ∧ devBit (ctxOf s) (selfOf (ctxOf s)) 31 = true ∧
       rootOf (ctxOf s) = selfOf (ctxOf s)) ∧
    (let s := member 1 .none fun p => { p with damper := .none }; rootOf (ctxOf s) ≠ selfOf (ctxOf s)) ∧
    (Selected (selected .none base) (ctxOf base) ∧ jobOf (ctxOf base) = 0) ∧
    (base.jobContext 1 = none) ∧
    let s := member 1 (.join 1 [] []) fun p => { p with damper := .none, joinPending := true }
    s.context? 1 = some (ctxOf s) ∧ (ctxOf s).pod.joinPending = true ∧ sha256 (ctxOf s).graph.image ≠ [] ∧ (ctxOf s).batches = [] := by
  unfold Selected
  refine ⟨?_, ?_, ?_, ?_, ?_, ?_, ?_, ?_⟩ <;> decide
def entry1 : CauseEntry := { cause := 0x0D, sub := 0, launch := 0, coh := 0, tid := 0, pc := 0, ptptime := 0, ltime := 0 }
theorem wit_PodMembers_hears : ∀ b ∈ [CtlBody.halt, .cause entry1, .fence 1, .fence 0], let s := member 0 (.ctl (msg b)) id
    hearsB s (ctxOf s) (msg b) = true ∧ (ctxOf s).pod.damper = .run ∧ (ctxOf s).st = .running ∧ (ctxOf s).pod.epoch = 0 ∧
      rootOf (ctxOf s) = selfOf (ctxOf s) := by decide
def frozenPod (p : Pod) : Pod := { p with damper := .frozen }
theorem wit_PodResume_root : let s := onContext (member 0 .none frozenPod) fun c => { c with st := .stopped }
    Selected s (ctxOf s) ∧ rootOf (ctxOf s) = selfOf (ctxOf s) ∧ (ctxOf s).pod.damper = .frozen ∧ (ctxOf s).st = .stopped ∧
      (isLive (ctxOf s) 1 ∧ 1 ≠ selfOf (ctxOf s)) := by unfold Selected isLive; decide
theorem wit_PodResume_member :
    (let s := onContext (member 1 (.ctl (msg (.prep false))) frozenPod) fun c => { c with st := .stopped }
     hearsB s (ctxOf s) (msg (.prep false)) = true ∧ rootOf (ctxOf s) = 1 ∧ rootOf (ctxOf s) ≠ selfOf (ctxOf s) ∧ (ctxOf s).st = .stopped) ∧
    (let s := member 1 (.ctl (msg (.prep true))) fun p => { p with damper := .ready }
     hearsB s (ctxOf s) (msg (.prep true)) = true ∧ (ctxOf s).pod.held = []) ∧
    ∀ T < 2, let s := member 1 (.ctl (msg (.release T))) fun p => { p with damper := .drained }
    hearsB s (ctxOf s) (msg (.release T)) = true ∧ (ctxOf s).pod.damper = .drained ∧ s.time.ns ≤ T := by
  refine ⟨?_, ?_, ?_⟩ <;> decide
theorem wit_PodResume_open : ∀ s ∈ [member 1 (.ctl (msg (.release 0))) fun p => { p with damper := .drained },
    member 1 (.nat 1) fun p => { p with damper := .armed }, { member 1 (.ctl (msg (.release 0))) fun p => { p with damper := .drained } with
      time := { base.time with ns := 1 } }], HeaderOpen s (ctxOf s) := by
  have h : ∀ s ∈ [member 1 (.ctl (msg (.release 0))) fun p => { p with damper := .drained },
      member 1 (.nat 1) fun p => { p with damper := .armed }, { member 1 (.ctl (msg (.release 0))) fun p => { p with damper := .drained } with
        time := { base.time with ns := 1 } }], s.pins = [] ∧ (ctxOf s).desc.stopbase.toNat % 4096 = 0 ∧
      (ctxOf s).desc.stopbase.toNat < 2 ^ 56 ∧ s.walk (ctxOf s) deviceSrc (ctxOf s).desc.stopbase.toNat = .leaf pte0 65536 ∧
      pte0.getLsbD 59 = false ∧ ∀ e ∈ s.tlbHits (ctxOf s).id deviceSrc 0 (ctxOf s).desc.stopbase.toNat, e.pte = pte0 ∧ e.size = 65536 := by
    decide
  intro s hs
  obtain ⟨h1, h2, h3, h4, h5, h6⟩ := h s hs
  exact ⟨h1, h2, h3, pte0, 65536, h4, h5, h6⟩
theorem wit_PodResume_answers :
    (∀ p ∈ [(CtlBody.confirm, ResumeStage.prep), (.resent, .resend)],
      let s := member 0 (.ctl (msg p.1)) fun q => { q with damper := .ready, stage := p.2, answered := [0] }
      hearsB s (ctxOf s) (msg p.1) = true ∧ (ctxOf s).pod.stage = p.2 ∧ ∀ v ∈ (ctxOf s).liveMembers, v = 1 ∨ v ∈ (ctxOf s).pod.answered) ∧
    let s := onContext (member 0 (.ctl (msg .confirm)) fun q => { q with damper := .ready, stage := .prep, answered := [0] }) fun c =>
      { c with pod := { c.pod with devmap := c.pod.devmap ++ [(2, 0x80000000)] } }
    hearsB s (ctxOf s) (msg .confirm) = true ∧ 2 ∈ (ctxOf s).liveMembers ∧ 2 ∉ (ctxOf s).pod.answered := by
  refine ⟨?_, ?_, ?_, ?_⟩ <;> decide
theorem wit_PodResume_times :
    (let s := member 1 (.nat 1) fun p => { p with damper := .armed }
     s.context? 1 = some (ctxOf s) ∧ (ctxOf s).pod.damper = .armed ∧ (ctxOf s).pod.releaseAt ≤ s.time.ns) ∧
    let s := member 0 (.nat 1) fun p => { p with damper := .ready, stage := .prep, answered := [0], podtmo := 0 }
    (ctxOf s).pod.stage = .prep ∧ (ctxOf s).pod.stageStart + ((ctxOf s).pod.podtmo.toNat % 2 ^ 16) * 1800 ≤ s.clock ∧
      isLive (ctxOf s) 1 ∧ 1 ≠ selfOf (ctxOf s) ∧ 1 ∉ (ctxOf s).pod.answered := by unfold isLive; decide
def dmsg (seq : Nat) (b : DataBody) : DataMsg := { src := 1, jobid := 1, seq := seq, body := b }
theorem wit_PodTraffic_receives : ∀ o ∈ [RemOp.write [some 7], .read 4],
    let b := DataBody.ask 3 none false [{ pa := 0x50000, op := o, chk := none }]
    let s := member 0 (.data (dmsg 1 b)) fun p => { p with lastApplied := [(1, 0)] }
    s.op = .data (dmsg 1 b) ∧ s.jobContext 1 = some (ctxOf s) ∧ s.context? 1 = some (ctxOf s) ∧ isLive (ctxOf s) 1 ∧ (ctxOf s).pod.damper = .run ∧
      (∀ p ∈ (ctxOf s).pod.lastApplied, p.1 = 1 → 1 = (p.2 + 1) % 2 ^ 32) ∧ s.pins = [] ∧ s.poison = [] ∧ 0x50000 + 4 ≤ s.capacity ∧ Memory.wf s.mem = true := by
  unfold isLive
  decide
theorem wit_PodTraffic_again :
    (let s := member 0 (.data (dmsg 1 (.done 0 []))) fun p => { p with lastApplied := [(1, 1)] }
     s.jobContext 1 = some (ctxOf s) ∧ isLive (ctxOf s) 1 ∧ 2 ^ 31 ≤ (ctxOf s).dataAhead (dmsg 1 (.done 0 []))) ∧
    let s := member 0 (.data (dmsg 1 (.done 0 []))) frozenPod
    s.jobContext 1 = some (ctxOf s) ∧ (ctxOf s).pod.damper = .frozen := by unfold isLive; decide
theorem wit_PodTraffic_acks : let s := member 0 (.nat3 1 1 5) fun p => { p with held := [{ peer := 1, seq := 5, body := .done 0 [], sent := true }] }
    s.context? 1 = some (ctxOf s) ∧ (ctxOf s).pod.damper = .run ∧ (ctxOf s).pod.stage = .idle ∧ isLive (ctxOf s) 1 := by unfold isLive; decide
/-- An all-gather between the two members, in which member 1 owes a chunk. -/
def coll0 : CopyReq :=
  { copy1 with ext := some { mode := 0, rop := 0, chloc := 0, grid := [2, 1, 1], repl := 1, chunk := 256, timeout := 1, root := 0 }, due := [(1, 0)] }
theorem wit_PodTraffic_late : let s := { member 0 (.nat2 32 1) id with engines := [(32, { queue := [coll0], nextSeq := [] })], clock := 1800 }
    s.context? 1 = some (ctxOf s) ∧ (s.lateMembers 32).find? (fun p => p.2 == 1) = some (1, 1) := by decide
theorem wit_PodTraffic_flue :
    let b : FlueBatch := { srcId := 0, seq := 0, vdev := 1, incs := [change 0 0 1], decs := [] }; let s := member 0 (.ctl (msg (.flue b))) id
    hearsB s (ctxOf s) (msg (.flue b)) = true ∧ b.vdev ≠ selfOf (ctxOf s) ∧ (ctxOf s).batches = [] ∧
      ∃ n ∈ (ctxOf s).nodes, n.expects b.vdev b.srcId = b.seq := by decide
/-- A context in a replica group that digests nothing, with member 1's digest still to come. -/
def replicated (o : EvOp) : State := member 0 o fun p => { p with replctl := 0xFF, digStart := [(0, 0)], podtmo := 0 }
theorem wit_PodTraffic_digests : (replicated (.nat 1)).digestLate (ctxOf (replicated (.nat 1))) = some 0 ∧
    (replicated (.nat 1)).digestBytes (ctxOf (replicated (.nat 1))) = (.ok [], replicated (.nat 1)) ∧
    hearsB (replicated (.ctl (msg (.digest 0 [])))) (ctxOf (replicated (.ctl (msg (.digest 0 []))))) (msg (.digest 0 [])) = true :=
  ⟨by decide, rfl, by decide⟩
theorem wit_PodTraffic_replicas : let c := ctxOf (replicated (.nat 1))
    Config.replicaMember 1 c.group = true → 1 ∈ c.replicas ∧ 1 ≠ selfOf c ∧ (∀ x ∈ c.pod.digests, ¬(x.s = c.pod.digNext ∧ x.vdev = 1)) := by
  intro c h
  refine ⟨List.mem_filter.2 ⟨by decide, by simp [h]⟩, by decide, by decide⟩
theorem wit_PodTraffic_links : let s := member 0 (.link 3 [1]) id
    (∀ x ∈ base.contexts, x.pod.damper = .none) ∧ s.contexts = [ctxOf s] ∧ (ctxOf s).pod.damper ≠ .none ∧ 1 ≠ selfOf (ctxOf s) ∧ isLive (ctxOf s) 1 := by
  unfold isLive
  decide
theorem wit_Device_time :
    (let s := { withOp (.int (-5)) base with time := { base.time with ctl := 0x80000000, good := 15 } }
     s.time.ctl.getLsbD 31 = true ∧ (-5 : Int).natAbs ≤ 100 ∧ 15 ≤ s.time.good) ∧
    (let s := { base with time := { base.time with locked := true, pps := true, ns := 1000000000 }, clock := 8000000000 }
     s.time.lastSync + 4 * 1800000000 ≤ s.clock ∧ s.time.lastPps + 2 * 1800000000 ≤ s.clock ∧ s.time.outSecond < s.time.ns / 1000000000) ∧
    ({ withOp (.nat 7) base with frozen := true }).frozen = true := by decide
theorem wit_Device_boots : State.reset.mgmt.bootstat = 0 ∧
    (∀ c ∈ [(2#4, 0), (3, 2 ^ 23)], ({ State.reset with mgmt := { State.reset.mgmt with bootstat := c.1 } } : State).image c.2 = none) ∧
    ({ State.reset with mgmt := { State.reset.mgmt with bootstat := 7 } } : State).mgmt.imgHash = [] := by
  refine ⟨rfl, ?_, rfl⟩
  decide
/-- R412: with an empty flash the boot goes by the fuses, both slots and PCIe, and fails. -/
theorem test_boot_fails : ([0#4, 1, 2, 3, 7].map fun c =>
    match exec .boot { State.reset with mgmt := { State.reset.mgmt with bootstat := c } } with
    | .next t => t.mgmt.bootstat
    | .fault _ | .refused _ => 0) = [1, 2, 3, 7, 14] := by decide
theorem wit_Device_attests : ({ base with mgmt := { base.mgmt with attgo := true } }).mgmt.attgo = true ∧ (1#64).getLsbD 0 = true := by decide
theorem wit_Device_parts : (List.replicate 64 (0 : Byte)).length = 64 ∧ base.mgmt.parts.length = 8 ∧
    base.partRefused 1 (List.replicate 64 0) = false ∧ base.partRefused 1 (1 :: List.replicate 63 0) = true := by decide
theorem wit_Device_window : base.mgmt.bootstat = 0xF ∧ regAt 4 = none ∧ base.pins = [] ∧ base.poison = [] ∧ Memory.wf base.mem = true ∧
    (base.mgmt.winbase.toNat + 0x50000) % 2 ^ 64 + 1 ≤ base.capacity ∧
    let s := { base with mgmt := { base.mgmt with winbase := 0xFFFFFFFFFF } }
    s.capacity < (s.mgmt.winbase.toNat + 0) % 2 ^ 64 + 1 := by decide

end Sys2Proof.Tests
end

section
/-! What leaves memory alone (`_mem`), and what keeps its canonical form (`_wf`; log entry 3), among the operations of the state: a
fact for each, in the order of the model. Memory is written by `State.writePhys` alone, whose law is `Memory.wf_writeMasked`. -/

namespace Sys2Proof.Machine

/-- The state that an outcome gives, if it gives one, has its memory in canonical form. -/
def Canonical : Out → Prop
  | .next t => Memory.wf t.mem
  | .fault _ | .refused _ => True

@[simp] theorem canonical_next (t : State) : Canonical (.next t) ↔ Memory.wf t.mem := Iff.rfl
@[simp] theorem canonical_fault (x : Fault) : Canonical (.fault x) := trivial

/-- A fold of steps that leave memory alone leaves it alone. -/
@[simp] theorem foldl_mem {α : Type} (f : State → α → State) (hf : ∀ s x, (f s x).mem = s.mem) (l : List α) (s : State) :
    (l.foldl f s).mem = s.mem := by
  induction l generalizing s with
  | nil => rfl
  | cons x l ih => rw [List.foldl_cons, ih, hf]
@[simp] theorem foldl_snd_mem {α β : Type} (f : β × State → α → β × State) (hf : ∀ p x, (f p x).2.mem = p.2.mem)
    (l : List α) (p : β × State) : (l.foldl f p).2.mem = p.2.mem := by
  induction l generalizing p with
  | nil => rfl
  | cons x l ih => rw [List.foldl_cons, ih, hf]
theorem foldl_fst_mem {α β : Type} (f : State × β → α → State × β) (hf : ∀ p x, (f p x).1.mem = p.1.mem)
    (l : List α) (p : State × β) : (l.foldl f p).1.mem = p.1.mem := by
  induction l generalizing p with
  | nil => rfl
  | cons x l ih => rw [List.foldl_cons, ih, hf]
/-- A fold of steps that keep the canonical form keeps it. -/
theorem foldl_wf {α : Type} {f : State → α → State} (hf : ∀ s x, Memory.wf s.mem → Memory.wf (f s x).mem) (l : List α) {s : State}
    (h : Memory.wf s.mem) : Memory.wf (l.foldl f s).mem := by
  induction l generalizing s with
  | nil => exact h
  | cons x l ih => exact ih (hf s x h)
theorem foldl_snd_wf {α β : Type} {f : β × State → α → β × State} (hf : ∀ p x, Memory.wf p.2.mem → Memory.wf (f p x).2.mem)
    (l : List α) {p : β × State} (h : Memory.wf p.2.mem) : Memory.wf (l.foldl f p).2.mem := by
  induction l generalizing p with
  | nil => exact h
  | cons x l ih => exact ih (hf p x h)
/-- Going on after a fetch leaves memory alone where the rest does. -/
@[simp] theorem Got.andThen_mem {α β : Type} (r : Got α × State) (k : α → State → Got β × State)
    (hk : ∀ a s, (k a s).2.mem = s.mem) : (Got.andThen r k).2.mem = r.2.mem := by
  unfold Got.andThen
  split <;> simp [hk]
theorem Got.andThen_wf {α β : Type} {r : Got α × State} {k : α → State → Got β × State} (h : Memory.wf r.2.mem)
    (hk : ∀ a s, Memory.wf s.mem → Memory.wf (k a s).2.mem) : Memory.wf (Got.andThen r k).2.mem := by
  unfold Got.andThen
  split <;> simp [h, hk]
/-- A fold that stops at the first step which fails leaves memory alone where each step does. -/
theorem foldl_ok_mem {α ε : Type} {f : Except ε State → α → Except ε State}
    (hf : ∀ a x t, f a x = .ok t → ∃ s, a = .ok s ∧ t.mem = s.mem) (l : List α) {a : Except ε State} {t : State}
    (h : l.foldl f a = .ok t) : ∃ s, a = .ok s ∧ t.mem = s.mem := by
  induction l generalizing a with
  | nil => exact ⟨t, h, rfl⟩
  | cons x l ih =>
    obtain ⟨u, hu, htu⟩ := ih h
    obtain ⟨s, hs, hus⟩ := hf a x u hu
    exact ⟨s, hs, htu.trans hus⟩

/-! Runs, slots and traps -/

@[simp] theorem State.newId_mem (s : State) : s.newId.2.mem = s.mem := rfl
@[simp] theorem State.useFree_mem (s : State) : s.useFree.2.mem = s.mem := rfl
@[simp] theorem State.arrive_mem (s : State) (gk addr nexts) : (s.arrive gk addr nexts).mem = s.mem := rfl
@[simp] theorem State.clearRun_mem (s : State) (i) : (s.clearRun i).mem = s.mem := rfl
@[simp] theorem State.countProgress_mem (s : State) (i) : (s.countProgress i).mem = s.mem := rfl
@[simp] theorem State.stall_mem (s : State) (i q needs) : (s.stall i q needs).mem = s.mem := rfl
@[simp] theorem State.switchPoint_mem (s : State) (i) : (s.switchPoint i).mem = s.mem := by
  simp [State.switchPoint, apply_ite State.mem]
@[simp] theorem State.block_mem (s : State) (i w) : (s.block i w).mem = s.mem := by
  simp [State.block]
@[simp] theorem State.idleSlots_mem (s : State) (core) : (s.idleSlots core).mem = s.mem := rfl
@[simp] theorem State.putSent_mem (s : State) (p) : (s.putSent p).mem = s.mem := rfl
@[simp] theorem State.raiseHalt_mem (s : State) (ctx) : (s.raiseHalt ctx).mem = s.mem := by
  unfold State.raiseHalt
  dsimp only
  (repeat' split) <;> simp
@[simp] theorem State.addTrap_mem (s : State) (ctx r) : (s.addTrap ctx r).mem = s.mem := rfl
@[simp] theorem State.dropAsked_mem (s : State) (i) : (s.dropAsked i).mem = s.mem := rfl
@[simp] theorem State.takeTrap_mem (s : State) (i t x after) : (s.takeTrap i t x after).mem = s.mem := by
  simp [State.takeTrap]

/-! What a thread sees across paths (R214, R215) -/

@[simp] theorem State.seeCell_mem (s : State) (ck tid p x) : (s.seeCell ck tid p x).2.mem = s.mem := by
  unfold State.seeCell
  dsimp only
  (repeat' split) <;> simp
@[simp] theorem State.see_mem (s : State) (c p l) : (s.see c p l).2.mem = s.mem := by
  unfold State.see
  split <;> simp
@[simp] theorem State.seeBytes_mem (s : State) (c p n word now l) : (s.seeBytes c p n word now l).2.mem = s.mem := by
  unfold State.seeBytes
  split <;> simp
@[simp] theorem State.seeScratch_mem (s : State) (c p n l) : (s.seeScratch c p n l).2.mem = s.mem := by
  simp [State.seeScratch]

/-! Operands, destinations and the end of an instruction -/

@[simp] theorem State.updQueues_mem (s : State) (k f) : (s.updQueues k f).mem = s.mem := rfl
@[simp] theorem State.moveQueues_mem (s : State) (t fs g) : (s.moveQueues t fs g).mem = s.mem := by
  simp [State.moveQueues, apply_ite State.mem]
@[simp] theorem State.reserve_mem (s : State) (t slot id) : (s.reserve t slot id).mem = s.mem := by
  simp [State.reserve, apply_ite State.mem]
@[simp] theorem State.promise_mem (s : State) (t k g w) : (s.promise t k g w).mem = s.mem := by
  simp [State.promise]
@[simp] theorem State.commit1_mem (s : State) (fs t e) : (s.commit1 fs t e).mem = s.mem := by
  unfold State.commit1
  split <;> simp
@[simp] theorem State.commit_mem (s : State) (fs l) : (s.commit fs l).mem = s.mem := by
  simp [State.commit]
@[simp] theorem State.finish_mem (s : State) (i fs ends l) : (s.finish i fs ends l).mem = s.mem := by
  simp [State.finish]

/-! Translation, and the device's own reads and writes -/

@[simp] theorem State.writePhys_wf (s : State) (pa data) (h : Memory.wf s.mem) :
    Memory.wf (s.writePhys pa data).mem := by
  exact Memory.wf_writeMasked data s.mem pa h
@[simp] theorem State.mem_enterTlb (s : State) (e) : (s.enterTlb e).mem = s.mem := by
  unfold State.enterTlb
  dsimp only
  (repeat' split) <;> simp
@[simp] theorem State.mem_fillTlb (s : State) (ctx src die va pte size) :
    (s.fillTlb ctx src die va pte size).mem = s.mem := by
  simp [State.fillTlb]
@[simp] theorem State.addWalk_mem (s : State) (ctx die va core) : (s.addWalk ctx die va core).mem = s.mem := by
  simp [State.addWalk, apply_ite State.mem]
@[simp] theorem State.leaveWalk_mem (s : State) (ctx die va core) : (s.leaveWalk ctx die va core).mem = s.mem := rfl
@[simp] theorem State.xlateMiss_mem (s : State) (c die src va k w) : (s.xlateMiss c die src va k w).2.mem = s.mem := by
  unfold State.xlateMiss
  cases s.walk c src va.toNat <;> cases src <;> simp [apply_ite Prod.snd, apply_ite State.mem]
@[simp] theorem State.xlate_mem (s : State) (c die src va k w) : (s.xlate c die src va k w).2.mem = s.mem := by
  unfold State.xlate
  dsimp only
  (repeat' split) <;> simp
@[simp] theorem State.readVirt_mem (s : State) (c die src key va n w) :
    (s.readVirt c die src key va n w).2.mem = s.mem := by
  unfold State.readVirt
  refine foldl_snd_mem _ (fun _ _ => ?_) _ _
  (repeat' split) <;> simp
@[simp] theorem State.readSup_mem (s : State) (c va n) : (s.readSup c va n).2.mem = s.mem := by
  simp [State.readSup]
@[simp] theorem State.sendData_mem (s : State) (ctx peer b) : (s.sendData ctx peer b).mem = s.mem := by
  unfold State.sendData
  split <;> simp
@[simp] theorem State.askFor_mem (s : State) (src k vdev test accs) : (s.askFor src k vdev test accs).mem = s.mem := by
  simp [State.askFor, apply_ite State.mem]
@[simp] theorem State.dropAnswers_mem (s : State) (k) : (s.dropAnswers k).mem = s.mem := rfl
@[simp] theorem State.probeFor_mem (s : State) (src key line) : (s.probeFor src key line).mem = s.mem := by
  simp [State.probeFor, apply_ite State.mem]
@[simp] theorem State.dropProbes_mem (s : State) (key) : (s.dropProbes key).mem = s.mem := rfl
@[simp] theorem State.sendWrite_mem (s : State) (ctx core vdev pa data) :
    (s.sendWrite ctx core vdev pa data).mem = s.mem := by
  simp [State.sendWrite]
@[simp] theorem State.writePiece_wf (s : State) (c va data) (h : Memory.wf s.mem) :
    Memory.wf (s.writePiece c va data).2.mem := by
  unfold State.writePiece
  dsimp only
  (repeat' split) <;> simp [h]
@[simp] theorem State.writeVirt_wf (s : State) (c va data) (h : Memory.wf s.mem) :
    Memory.wf (s.writeVirt c va data).2.mem := by
  unfold State.writeVirt
  refine foldl_snd_wf (fun _ _ h => Got.andThen_wf h fun _ _ h => ?_) _ h
  simp [h]
@[simp] theorem State.writeList_wf (s : State) (c l) (h : Memory.wf s.mem) : Memory.wf (s.writeList c l).2.mem := by
  unfold State.writeList
  refine foldl_snd_wf (fun _ _ h => Got.andThen_wf h fun _ _ h => ?_) _ h
  simp [h]
@[simp] theorem State.deviceWait_mem (s : State) (c r) : (s.deviceWait c r).mem = s.mem := by
  unfold State.deviceWait
  split <;> simp
@[simp] theorem State.deviceDone_mem (s : State) (c) : (s.deviceDone c).mem = s.mem := rfl

/-! The L1 of a core -/

@[simp] theorem State.sendBack_mem (s : State) (ctx core vdev pa data) :
    (s.sendBack ctx core vdev pa data).mem = s.mem := by
  unfold State.sendBack
  (repeat' split) <;> simp
@[simp] theorem State.evict_mem (s : State) (ctx core l) : (s.evict ctx core l).mem = s.mem := by
  simp [State.evict, apply_ite State.mem]
@[simp] theorem State.makeRoom_mem (s : State) (ctx core line) : (s.makeRoom ctx core line).mem = s.mem := by
  unfold State.makeRoom
  split <;> simp
@[simp] theorem State.putLine_mem (s : State) (ctx core l) : (s.putLine ctx core l).mem = s.mem := by
  simp [State.putLine, apply_ite State.mem]
@[simp] theorem State.l1Fill_mem (s : State) (ctx core vdev pa n tag checked owner remote) :
    (s.l1Fill ctx core vdev pa n tag checked owner remote).mem = s.mem := by
  simp [State.l1Fill]
@[simp] theorem State.l1Store_mem (s : State) (ctx core vdev pa data) :
    (s.l1Store ctx core vdev pa data).mem = s.mem := by
  simp [State.l1Store]
@[simp] theorem State.l1Update_mem (s : State) (core vdev pa data) : (s.l1Update core vdev pa data).mem = s.mem := by
  unfold State.l1Update
  split <;> simp
@[simp] theorem State.l1Expel_wf (s : State) (ctx core vdev line) (h : Memory.wf s.mem) :
    Memory.wf (s.l1Expel ctx core vdev line).mem := by
  unfold State.l1Expel
  (repeat' split) <;> simp [h]
@[simp] theorem State.endPins_mem (s : State) (gone) : (s.endPins gone).mem = s.mem := by
  simp [State.endPins]
@[simp] theorem State.writeNow_wf (s : State) (ctx core l) (h : Memory.wf s.mem) :
    Memory.wf (s.writeNow ctx core l).mem := by
  unfold State.writeNow
  split <;> simp [h]
@[simp] theorem State.dropClean_mem (s : State) (core) : (s.dropClean core).mem = s.mem := rfl
@[simp] theorem State.dropRo_mem (s : State) (core) : (s.dropRo core).mem = s.mem := rfl
@[simp] theorem State.dropChecked_mem (s : State) (core) : (s.dropChecked core).mem = s.mem := rfl
@[simp] theorem State.addPin_mem (s : State) (p) : (s.addPin p).mem = s.mem := by
  simp [State.addPin, apply_ite State.mem]
@[simp] theorem State.countMiss_mem (s : State) (i line) : (s.countMiss i line).mem = s.mem := by
  simp [State.countMiss, apply_ite State.mem]
@[simp] theorem State.observe_mem (s : State) (i line) : (s.observe i line).mem = s.mem := by
  simp [State.observe, apply_ite State.mem]
@[simp] theorem State.markAccess_mem (s : State) (ctx a) : (s.markAccess ctx a).mem = s.mem := by
  simp [State.markAccess]

/-! Results that land after their instruction -/

@[simp] theorem State.land_mem (s : State) (d) : (s.land d).mem = s.mem := by
  unfold State.land
  split <;> simp
@[simp] theorem State.landRet_mem (s : State) (k id) : (s.landRet k id).mem = s.mem := by
  unfold State.landRet
  split <;> simp

/-! Requests that a slice serves -/

@[simp] theorem State.performAtom_wf (s : State) (pa op x y) (h : Memory.wf s.mem) :
    Memory.wf (s.performAtom pa op x y).2.mem := by
  unfold State.performAtom
  split <;> simp [h]
@[simp] theorem State.answerReq_mem (s : State) (q ws) : (s.answerReq q ws).mem = s.mem := by
  simp [State.answerReq, apply_ite State.mem]
@[simp] theorem State.serveFill_mem (s : State) (q core tag n signed) :
    (s.serveFill q core tag n signed).mem = s.mem := by
  simp [State.serveFill]
@[simp] theorem State.serveAtom_wf (s : State) (q core op x y acq pins) (h : Memory.wf s.mem) :
    Memory.wf (s.serveAtom q core op x y acq pins).mem := by
  unfold State.serveAtom
  (repeat' split) <;> simp [h]
@[simp] theorem State.serve_wf (s : State) (q core) (h : Memory.wf s.mem) : Memory.wf (s.serve q core).mem := by
  unfold State.serve
  (repeat' split) <;> simp [h]
@[simp] theorem State.drainSlices_wf (s : State) (core p) (h : Memory.wf s.mem) :
    Memory.wf (s.drainSlices core p).mem := by
  exact foldl_wf (fun _ _ h => State.serve_wf _ _ _ h) _ (foldl_wf (fun _ _ h => State.serve_wf _ _ _ h) _ h)
@[simp] theorem State.drainFor_wf (s : State) (core pa) (h : Memory.wf s.mem) : Memory.wf (s.drainFor core pa).mem := by
  simp [State.drainFor, h]
@[simp] theorem State.flushDirty_wf (s : State) (ctx core) (h : Memory.wf s.mem) :
    Memory.wf (s.flushDirty ctx core).mem := by
  simpa [State.flushDirty] using
    foldl_wf (fun _ _ h => State.writeNow_wf _ _ _ _ h) _ (State.drainSlices_wf s core (fun _ => true) h)
@[simp] theorem State.writeBackAll_wf (s : State) (ctx core) (h : Memory.wf s.mem) :
    Memory.wf (s.writeBackAll ctx core).mem := by
  simp [State.writeBackAll, h]
@[simp] theorem State.roomForPin_wf (s : State) (ctx core vdev line) (h : Memory.wf s.mem) :
    Memory.wf (s.roomForPin ctx core vdev line).mem := by
  unfold State.roomForPin
  dsimp only
  (repeat' split) <;> simp [h]
@[simp] theorem State.pinDirty_wf (s : State) (ck core) (h : Memory.wf s.mem) : Memory.wf (s.pinDirty ck core).mem := by
  unfold State.pinDirty
  refine foldl_wf (fun _ _ h => ?_) _ h
  simp [h]

/-! Loads and stores -/

@[simp] theorem State.waitPinned_mem (s : State) (i line) : (s.waitPinned i line).mem = s.mem := by
  unfold State.waitPinned
  split <;> simp
@[simp] theorem State.clearProbes_mem (s : State) (i) : (s.clearProbes i).mem = s.mem := rfl
@[simp] theorem State.xlateAll_mem (s : State) (c i k ms) : (s.xlateAll c i k ms).2.mem = s.mem := by
  simp [State.xlateAll]
theorem State.watchpoint_mem {s t : State} {c i l n rd wr} (h : s.watchpoint c i l n rd wr = some t) : t.mem = s.mem := by
  unfold State.watchpoint at h
  split at h
  · cases h
  · dsimp only at h
    split at h <;> cases h
    simp
@[simp] theorem State.queueLoad_mem (s : State) (i fs a isW d n op) : (s.queueLoad i fs a isW d n op).mem = s.mem := by
  simp [State.queueLoad, apply_ite State.mem]
@[simp] theorem State.loadOne_mem (s : State) (i fs tag isW d n signed a hit remote) :
    (s.loadOne i fs tag isW d n signed a hit remote).mem = s.mem := by
  unfold State.loadOne
  dsimp only
  (repeat' split) <;> simp
@[simp] theorem State.storeOne_wf (s : State) (i fs n a data) (h : Memory.wf s.mem) :
    Memory.wf (s.storeOne i fs n a data).mem := by
  unfold State.storeOne
  (repeat' split) <;> simp [h]

/-! Atomics -/

@[simp] theorem State.askPin_mem (s : State) (i vdev line) : (s.askPin i vdev line).mem = s.mem := by
  simp [State.askPin, apply_ite State.mem]
@[simp] theorem State.atomQueues_mem (s : State) (fs op d t id) : (s.atomQueues fs op d t id).mem = s.mem := by
  simp [State.atomQueues, apply_ite State.mem]
@[simp] theorem State.queueAtom_wf (s : State) (i fs op d acq pins a x y merged) (h : Memory.wf s.mem) :
    Memory.wf (s.queueAtom i fs op d acq pins a x y merged).mem := by
  unfold State.queueAtom
  split <;> simp [h]
@[simp] theorem State.atomAnswered_wf (s : State) (i fs op d pins q b) (h : Memory.wf s.mem) :
    Memory.wf (s.atomAnswered i fs op d pins q b).mem := by
  unfold State.atomAnswered
  split <;> simp [h]

/-! Barriers, and groups that leave -/

@[simp] theorem State.updBar_mem (s : State) (ck n f) : (s.updBar ck n f).mem = s.mem := rfl
@[simp] theorem State.releaseEntries_mem (s : State) (ck rel) : (s.releaseEntries ck rel).mem = s.mem := rfl
@[simp] theorem State.formPhase_mem (s : State) (k p) : (s.formPhase k p).mem = s.mem := by
  unfold State.formPhase
  split <;> simp
@[simp] theorem State.completePhase_mem (s : State) (ck n) : (s.completePhase ck n).mem = s.mem := by
  unfold State.completePhase
  refine (foldl_mem _ (fun s a => State.formPhase_mem ..) _ _).trans
    ((foldl_mem _ (fun s j => ?_) _ _).trans (State.updBar_mem ..))
  (repeat' split) <;> simp
@[simp] theorem State.releaseNbar_mem (s : State) (ck n) : (s.releaseNbar ck n).mem = s.mem := by
  simp [State.releaseNbar]
@[simp] theorem State.requestTrap_mem (s : State) (ctx r) : (s.requestTrap ctx r).mem = s.mem := by
  simp [State.requestTrap]
@[simp] theorem State.testPhase_mem (s : State) (ck n) : (s.testPhase ck n).mem = s.mem := by
  unfold State.testPhase
  dsimp only
  (repeat' split) <;> simp
theorem State.settle_mem {s t : State} {gk n} (h : s.settle gk n = some t) : t.mem = s.mem := by
  unfold State.settle at h
  dsimp only at h
  (repeat' split at h) <;> cases h <;> simp
@[simp] theorem State.settleDeferred_mem (s : State) (ck n) : (s.settleDeferred ck n).mem = s.mem := by
  unfold State.settleDeferred
  split
  · rfl
  · refine foldl_mem _ (fun s gk => ?_) _ _
    split
    next ht => exact State.settle_mem ht
    next => simp
theorem State.settleAll_mem {s t : State} {gk n} (h : s.settleAll gk n = some t) : t.mem = s.mem := by
  obtain ⟨u, hu, rfl⟩ := Option.map_eq_some_iff.1 h
  simp [apply_ite State.mem, State.settle_mem hu]
@[simp] theorem State.reapGroup_mem (s : State) (gk) : (s.reapGroup gk).mem = s.mem := by
  unfold State.reapGroup
  (repeat' split) <;> simp
theorem State.depart_mem {s t : State} {gk tids} (h : s.depart gk tids = .ok t) : t.mem = s.mem := by
  unfold State.depart at h
  dsimp only at h
  split at h <;> cases h
  next h =>
  obtain ⟨u, hu, ht⟩ := foldl_ok_mem (fun a n t h => by
    (repeat' split at h) <;> cases h
    next hs => exact ⟨_, rfl, State.settleAll_mem hs⟩) _ h
  cases hu
  simpa using ht
@[simp] theorem State.passOrBlock_mem (s : State) (i w go stay) : (s.passOrBlock i w go stay).mem = s.mem := by
  simp [State.passOrBlock, apply_ite State.mem]

/-! Read-only reads of a thread, and the replay log -/

@[simp] theorem State.roPiece_wf (s : State) (i c who key va n) (h : Memory.wf s.mem) :
    Memory.wf (s.roPiece i c who key va n).2.mem := by
  unfold State.roPiece
  dsimp only
  (repeat' split) <;> simp [h]
@[simp] theorem State.roRead_wf (s : State) (i c who key va n) (h : Memory.wf s.mem) :
    Memory.wf (s.roRead i c who key va n).2.mem := by
  unfold State.roRead
  split
  · exact h
  · exact foldl_snd_wf (fun _ _ h => Got.andThen_wf h fun _ _ h =>
      Got.andThen_wf (State.roPiece_wf _ _ _ _ _ _ _ h) fun _ _ h => h) _ h
@[simp] theorem State.threadRead_wf (s : State) (i c t va n) (h : Memory.wf s.mem) :
    Memory.wf (s.threadRead i c t va n).2.mem := by
  unfold State.threadRead
  split <;> simp [h]
@[simp] theorem State.takeWatch_mem (s : State) (i l) : (s.takeWatch i l).mem = s.mem := by
  unfold State.takeWatch
  split <;> simp
@[simp] theorem State.findReplay_mem (s : State) (i c t key fuel j) : (s.findReplay i c t key fuel j).2.mem = s.mem := by
  induction fuel generalizing s j with
  | zero => rfl
  | succ fuel ih =>
    unfold State.findReplay
    dsimp only
    (repeat' split) <;> simp [ih]
@[simp] theorem State.replaySpots_mem (s : State) (i c l acc) : (s.replaySpots i c l acc).2.mem = s.mem := by
  induction l generalizing s acc with
  | nil => rfl
  | cons m ms ih =>
    unfold State.replaySpots
    dsimp only
    (repeat' split) <;> simp [ih]
@[simp] theorem State.record1_wf (s : State) (i ctx spot b) (h : Memory.wf s.mem) :
    Memory.wf (s.record1 i ctx spot b).mem := by
  unfold State.record1
  split <;> simp [h]

/-! Groups that form -/

@[simp] theorem State.renameGroup_mem (s : State) (gk gk') : (s.renameGroup gk gk').mem = s.mem := rfl
@[simp] theorem State.regid_mem (s : State) (gk) : (s.regid gk).mem = s.mem := by
  unfold State.regid
  (repeat' split) <;> simp
@[simp] theorem State.formGroup_mem (s : State) (ck role ts) : (s.formGroup ck role ts).mem = s.mem := by
  cases ts with
  | nil => rfl
  | cons p ts => exact foldl_mem _ (fun _ _ => State.updThread_mem ..) (p :: ts) _
@[simp] theorem State.formPending_mem (s : State) (ck role ts) : (s.formPending ck role ts).mem = s.mem := by
  simp [State.formPending]

/-! The matrix unit -/

theorem State.bindTile_mem {s t : State} {core ck n} (h : s.bindTile core ck n = some t) : t.mem = s.mem := by
  unfold State.bindTile at h
  (repeat' split at h) <;> cases h <;> simp
@[simp] theorem State.nextSeq_mem (s : State) (gk) : (s.nextSeq gk).2.mem = s.mem := by
  unfold State.nextSeq
  split <;> simp
@[simp] theorem State.enqueueMma_mem (s : State) (core q) : (s.enqueueMma core q).mem = s.mem := rfl
@[simp] theorem State.runGroups_mem (s : State) (q g1) : (s.runGroups q g1).mem = s.mem := by
  unfold State.runGroups
  (repeat' split) <;> simp
@[simp] theorem State.updEng_mem (s : State) (core f) : (s.updEng core f).mem = s.mem := rfl
@[simp] theorem State.releaseAcc_mem (s : State) (core ck) : (s.releaseAcc core ck).mem = s.mem := rfl
@[simp] theorem State.finishMma_mem (s : State) (core q) : (s.finishMma core q).mem = s.mem := by
  simp [State.finishMma, apply_ite State.mem]
@[simp] theorem State.closeGather_mem (s : State) (core g) : (s.closeGather core g).mem = s.mem := rfl
@[simp] theorem State.weightsFor_mem (s : State) (core c tid d cls) :
    (s.weightsFor core c tid d cls).2.mem = s.mem := by
  unfold State.weightsFor
  split <;> simp
@[simp] theorem State.addRow_mem (s : State) (i d weights row) : (s.addRow i d weights row).mem = s.mem := by
  unfold State.addRow
  dsimp only
  (repeat' split) <;> simp
@[simp] theorem State.addRows_mem (s : State) (i c fs d ms) : (s.addRows i c fs d ms).2.mem = s.mem := by
  unfold State.addRows
  refine foldl_snd_mem _ (fun _ _ => ?_) _ _
  dsimp only
  split <;> simp
@[simp] theorem State.writeRows_mem (s : State) (g) : (s.writeRows g).mem = s.mem := by
  unfold State.writeRows
  refine foldl_mem _ (fun _ _ => ?_) _ _
  simp
@[simp] theorem State.finishVxm_mem (s : State) (core q) : (s.finishVxm core q).mem = s.mem := by
  unfold State.finishVxm
  split <;> simp
theorem State.bindAll_mem {s t : State} {core ck l} (h : s.bindAll core ck l = .ok t) : t.mem = s.mem := by
  obtain ⟨u, hu, ht⟩ := foldl_ok_mem (fun a p t h => by
    (repeat' split at h) <;> cases h
    next hs => exact ⟨_, rfl, State.bindTile_mem hs⟩) _ h
  cases hu
  exact ht

/-! Slots and their scores -/

@[simp] theorem State.takeEntry_mem (s : State) (core slot gk en single) :
    (s.takeEntry core slot gk en single).2.mem = s.mem :=
  rfl
@[simp] theorem State.countRun_mem (s : State) (core slot ctx pc) : (s.countRun core slot ctx pc).mem = s.mem := by
  unfold State.countRun
  dsimp only
  (repeat' split) <;> simp
@[simp] theorem State.breakAt_mem (s : State) (i hits) : (s.breakAt i hits).mem = s.mem := by
  simp [State.breakAt]
@[simp] theorem State.beginRun_mem (s : State) (core slot p) : (s.beginRun core slot p).mem = s.mem := by
  simp [State.beginRun, apply_ite State.mem]
@[simp] theorem State.decayCore_mem (s : State) (core) : (s.decayCore core).mem = s.mem := rfl
@[simp] theorem State.loadIsctl_mem (s : State) (core w) : (s.loadIsctl core w).mem = s.mem := rfl

/-! The flue -/

@[simp] theorem State.form_mem (s : State) (ctx src home ch) : (s.form ctx src home ch).mem = s.mem := rfl
@[simp] theorem State.acquireWide_mem (s : State) (ck) : (s.acquireWide ck).mem = s.mem := by
  unfold State.acquireWide
  split <;> simp
@[simp] theorem State.releaseFwait_mem (s : State) (ck) : (s.releaseFwait ck).mem = s.mem := by
  unfold State.releaseFwait
  dsimp only
  (repeat' split) <;> simp
@[simp] theorem State.recompute_mem (s : State) (ctx) : (s.recompute ctx).mem = s.mem := by
  unfold State.recompute
  split <;> simp
@[simp] theorem State.freeBytes_mem (s : State) (n) : (s.freeBytes n).2.mem = s.mem := rfl
@[simp] theorem State.storeRecord_wf (s : State) (ctx slot) (h : Memory.wf s.mem) :
    Memory.wf (s.storeRecord ctx slot).mem := by
  unfold State.storeRecord
  dsimp only
  (repeat' split) <;> simp [h]
@[simp] theorem State.addRecord_wf (s : State) (ctx r) (h : Memory.wf s.mem) : Memory.wf (s.addRecord ctx r).mem := by
  unfold State.addRecord
  split <;> simp [h]
@[simp] theorem State.assignRecord_mem (s : State) (w r) : (s.assignRecord w r).mem = s.mem := by
  simp [State.assignRecord, apply_ite State.mem]
@[simp] theorem State.formFor_mem (s : State) (ck ch) : (s.formFor ck ch).mem = s.mem := rfl
@[simp] theorem State.assignAll_mem (s : State) (ctx) : (s.assignAll ctx).mem = s.mem := by
  unfold State.assignAll
  split
  · rfl
  · refine (foldl_mem _ (fun _ _ => State.formFor_mem ..) _ _).trans (foldl_fst_mem _ (fun p w => ?_) _ _)
    (repeat' split) <;> simp
@[simp] theorem State.deliver_mem (s : State) (ctx p) : (s.deliver ctx p).mem = s.mem := by
  simp [State.deliver]
@[simp] theorem State.batchOver_mem (s : State) (ctx b) : (s.batchOver ctx b).mem = s.mem := by
  simp [State.batchOver]
@[simp] theorem State.sendAway_mem (s : State) (c peers b) : (s.sendAway c peers b).mem = s.mem := rfl
@[simp] theorem State.batchDone_mem (s : State) (ctx b) : (s.batchDone ctx b).mem = s.mem := by
  unfold State.batchDone
  (repeat' split) <;> simp
@[simp] theorem State.applyBatch_mem (s : State) (c die b) : (s.applyBatch c die b).mem = s.mem := by
  simp [State.applyBatch, apply_ite State.mem]
@[simp] theorem State.appliedAway_mem (s : State) (ctx m b) : (s.appliedAway ctx m b).mem = s.mem := by
  simp [State.appliedAway, apply_ite State.mem]

/-! Images of saved contexts -/

@[simp] theorem State.imageOf_mem (s : State) (h) : (s.imageOf h).2.mem = s.mem := rfl
@[simp] theorem State.loadImage_mem (s : State) (h b) : (s.loadImage h b).mem = s.mem := rfl
@[simp] theorem State.deviceAwait_mem {α : Type} (s : State) (c) (r : Got α) : (s.deviceAwait c r).mem = s.mem := by
  unfold State.deviceAwait
  split <;> simp
@[simp] theorem State.readSaved_mem (s : State) (c off) : (s.readSaved c off).2.mem = s.mem := by
  unfold State.readSaved
  split <;> simp
@[simp] theorem State.readImage_wf (s : State) (c k) (h : Memory.wf s.mem) : Memory.wf (s.readImage c k).2.mem := by
  unfold State.readImage
  dsimp only
  (repeat' split) <;> simp [h]

/-! Launches and cohorts -/

@[simp] theorem State.readHeader_mem (s : State) (c die src key va who) :
    (s.readHeader c die src key va who).2.mem = s.mem := by
  unfold State.readHeader
  refine (Got.andThen_mem _ _ fun b s => ?_).trans (State.readVirt_mem ..)
  dsimp only
  split <;> simp
@[simp] theorem State.createLaunch_mem (s : State) (ctx h sup b) : (s.createLaunch ctx h sup b).mem = s.mem := by
  unfold State.createLaunch
  split <;> simp
@[simp] theorem State.startCohort_mem (s : State) (c l ck vcore caps relaunches) :
    (s.startCohort c l ck vcore caps relaunches).mem = s.mem :=
  rfl
@[simp] theorem State.freshenCore_mem (s : State) (core ctx launch) : (s.freshenCore core ctx launch).mem = s.mem := by
  simp [State.freshenCore, apply_ite State.mem]
@[simp] theorem State.reAge_mem (s : State) (ck clock) : (s.reAge ck clock).mem = s.mem := rfl
@[simp] theorem State.scoreGroups_mem (s : State) (ck f) : (s.scoreGroups ck f).mem = s.mem := rfl
@[simp] theorem State.remapTo_mem (s : State) (c) : (s.remapTo c).mem = s.mem := by
  unfold State.remapTo
  refine foldl_mem _ (fun _ _ => ?_) _ _
  simp
theorem foldl_updEngine_mem {α : Type} (l : List α) (k : α → Nat) (f : α → Engine → Engine) (s : State) :
    (l.foldl (fun s p => s.updEngine (k p) (f p)) s).mem = s.mem :=
  foldl_mem _ (fun _ _ => State.updEngine_mem ..) l s
@[simp] theorem State.restoreCohort_wf (s : State) (c k v core) (h : Memory.wf s.mem) :
    Memory.wf (s.restoreCohort c k v core).2.mem := by
  unfold State.restoreCohort
  refine Got.andThen_wf (State.readImage_wf _ _ _ h) fun _ s h => ?_
  split
  · exact h
  · simp [h, foldl_updEngine_mem]
theorem State.placeOn_wf {s t : State} {c core} (ht : s.placeOn c core = some t) (h : Memory.wf s.mem) : Memory.wf t.mem := by
  unfold State.placeOn at ht
  dsimp only at ht
  (repeat' split at ht) <;> cases ht <;> simp [h]
@[simp] theorem State.dropShares_mem (s : State) (ck) : (s.dropShares ck).mem = s.mem := rfl
@[simp] theorem State.freeCohort_mem (s : State) (ck core) : (s.freeCohort ck core).mem = s.mem := rfl
@[simp] theorem State.finishLaunch_mem (s : State) (ctx id vcore) : (s.finishLaunch ctx id vcore).mem = s.mem := by
  unfold State.finishLaunch
  (repeat' split) <;> simp
@[simp] theorem State.listCompleted_wf (s : State) (c ck vcore) (h : Memory.wf s.mem) :
    Memory.wf (s.listCompleted c ck vcore).2.mem := by
  unfold State.listCompleted
  dsimp only
  (repeat' split) <;> simp [h]
@[simp] theorem State.completeCohort_mem (s : State) (c ck h vcore core) :
    (s.completeCohort c ck h vcore core).mem = s.mem := by
  simp [State.completeCohort]

/-! Headers and the descriptor table -/

@[simp] theorem State.fetchHeader_mem (s : State) (i c t va) : (s.fetchHeader i c t va).2.mem = s.mem := by
  unfold State.fetchHeader
  split <;> simp
@[simp] theorem State.entryXlate_mem (s : State) (c i t h) : (s.entryXlate c i t h).2.mem = s.mem := by
  unfold State.entryXlate
  split <;> simp
@[simp] theorem State.tlwWrite_wf (s : State) (c i l ans) (h : Memory.wf s.mem) :
    Memory.wf (s.tlwWrite c i l ans).mem := by
  unfold State.tlwWrite
  refine foldl_wf (fun _ _ h => ?_) _ h
  (repeat' split) <;> simp [h]

/-! The copy engines -/

@[simp] theorem State.acceptCopy_mem (s : State) (i h t e line counted) :
    (s.acceptCopy i h t e line counted).mem = s.mem :=
  rfl
@[simp] theorem State.updReq_mem (s : State) (e q f) : (s.updReq e q f).mem = s.mem := rfl
@[simp] theorem State.dropWaits_mem (s : State) (e q) : (s.dropWaits e q).mem = s.mem := rfl
@[simp] theorem State.endReq_mem (s : State) (e q) : (s.endReq e q).mem = s.mem := by
  unfold State.endReq
  split <;> simp
@[simp] theorem State.copyFail_mem (s : State) (e q t extra) : (s.copyFail e q t extra).mem = s.mem := by
  simp [State.copyFail]
@[simp] theorem copyGot_mem {α : Type} (e q) (r : Got α × State) (go) (hgo : ∀ a s, (go a s).mem = s.mem) :
    (copyGot e q r go).mem = r.2.mem := by
  unfold copyGot
  split <;> simp [hgo]
theorem copyGot_wf {α : Type} (e q) {r : Got α × State} {go : α → State → State} (h : Memory.wf r.2.mem)
    (hgo : ∀ a s, Memory.wf s.mem → Memory.wf (go a s).mem) : Memory.wf (copyGot e q r go).mem := by
  unfold copyGot
  split <;> simp [h, hgo]
@[simp] theorem State.copyCheck_mem (s : State) (c e q va pa n wr checked) :
    (s.copyCheck c e q va pa n wr checked).2.mem = s.mem := by
  unfold State.copyCheck
  dsimp only
  (repeat' split) <;> simp
@[simp] theorem State.copyPlace_mem (s : State) (c e q sub at_ n k) :
    (s.copyPlace c e q sub at_ n k).2.mem = s.mem := by
  unfold State.copyPlace
  dsimp only
  (repeat' split) <;> simp
@[simp] theorem State.copyAsk_mem (s : State) (e key v sub ch a op) :
    (s.copyAsk e key v sub ch a op).2.mem = s.mem := by
  unfold State.copyAsk
  dsimp only
  (repeat' split) <;> simp
@[simp] theorem State.copyRead_mem (s : State) (c e q key sub at_ n) :
    (s.copyRead c e q key sub at_ n).2.mem = s.mem := by
  unfold State.copyRead
  dsimp only
  (repeat' split) <;> simp
@[simp] theorem State.copyWrite_wf (s : State) (c e q at_ data) (h : Memory.wf s.mem) :
    Memory.wf (s.copyWrite c e q at_ data).2.mem := by
  unfold State.copyWrite
  dsimp only
  split
  · simp [h]
  · simp [h]
  · simp [h]
  · split
    · simp [h]
    · exact Got.andThen_wf (by simp [h]) fun _ s h => State.writePhys_wf _ _ _ h
@[simp] theorem State.readElem_mem (s : State) (c e q t off) : (s.readElem c e q t off).2.mem = s.mem := by
  unfold State.readElem
  dsimp only
  (repeat' split) <;> simp
@[simp] theorem State.writeElem_wf (s : State) (c e q t off data) (h : Memory.wf s.mem) :
    Memory.wf (s.writeElem c e q t off data).2.mem := by
  unfold State.writeElem
  dsimp only
  (repeat' split) <;> simp [h]
@[simp] theorem State.indexWord_mem (s : State) (c e q t i) : (s.indexWord c e q t i).2.mem = s.mem := by
  unfold State.indexWord
  split <;> simp
@[simp] theorem State.copyStep_wf (s : State) (c e q t) (h : Memory.wf s.mem) : Memory.wf (s.copyStep c e q t).mem := by
  unfold State.copyStep
  refine copyGot_wf _ _ (Got.andThen_wf (by simpa using h) fun w s h => ?_) fun d s h => by simpa using h
  dsimp only
  split
  · exact h
  · refine Got.andThen_wf (by split <;> simp [h]) fun b s h => Got.andThen_wf (State.writeElem_wf _ _ _ _ _ _ _ h) fun _ s h => h
@[simp] theorem State.ownElem_mem (s : State) (c e q t i) : (s.ownElem c e q t i).2.mem = s.mem := by
  unfold State.ownElem
  dsimp only
  (repeat' split) <;> simp
@[simp] theorem State.ownBytes_mem (s : State) (c e q t off n) : (s.ownBytes c e q t off n).2.mem = s.mem := by
  unfold State.ownBytes
  refine foldl_snd_mem _ (fun _ _ => ?_) _ _
  simp
@[simp] theorem State.contribution_mem (s : State) (c e q t x i v) : (s.contribution c e q t x i v).2.mem = s.mem := by
  unfold State.contribution
  (repeat' split) <;> simp
@[simp] theorem State.collValue_mem (s : State) (c e q t x i) : (s.collValue c e q t x i).2.mem = s.mem := by
  unfold State.collValue
  refine (Got.andThen_mem _ _ fun l s => ?_).trans (foldl_snd_mem _ (fun _ _ => by simp) _ _)
  dsimp only
  (repeat' split) <;> simp
@[simp] theorem State.collSend_mem (s : State) (c e q t x m) : (s.collSend c e q t x m).mem = s.mem := by
  unfold State.collSend
  dsimp only
  (repeat' split) <;> simp
@[simp] theorem State.collStep_wf (s : State) (c e q t x) (h : Memory.wf s.mem) :
    Memory.wf (s.collStep c e q t x).mem := by
  unfold State.collStep
  dsimp only
  (repeat' split)
  · simp [h]
  · exact h
  · refine copyGot_wf _ _ (Got.andThen_wf (by simpa using h) fun v s h => ?_) fun _ s h => by simpa using h
    split <;> simp [h]
@[simp] theorem State.engineStep_wf (s : State) (e) (h : Memory.wf s.mem) : Memory.wf (s.engineStep e).mem := by
  unfold State.engineStep
  (repeat' split) <;> simp [h]
@[simp] theorem State.readEntry_mem (s : State) (c e q sub h) : (s.readEntry c e q sub h).2.mem = s.mem := by
  unfold State.readEntry
  dsimp only
  (repeat' split) <;> simp
@[simp] theorem State.readTemplate_mem (s : State) (c e q) : (s.readTemplate c e q).2.mem = s.mem := by
  unfold State.readTemplate
  dsimp only
  split
  · rfl
  · refine (Got.andThen_mem _ _ fun b s => ?_).trans (State.readEntry_mem ..)
    (repeat' split) <;> simp
    refine (Got.andThen_mem _ _ fun b s => ?_).trans (State.readEntry_mem ..)
    (repeat' split) <;> simp
@[simp] theorem State.indexWords_mem (s : State) (c e q t) : (s.indexWords c e q t).2.mem = s.mem := by
  unfold State.indexWords
  dsimp only
  split
  · rfl
  · exact foldl_snd_mem _ (fun _ _ => by simp) _ _
@[simp] theorem State.takeUpChecks_mem (s : State) (c e q) : (s.takeUpChecks c e q).2.mem = s.mem := by
  simp [State.takeUpChecks, apply_ite Prod.snd, apply_ite State.mem]
theorem State.takeSlot_mem {s t : State} {c e q x} (h : s.takeSlot c e q x = some t) : t.mem = s.mem := by
  unfold State.takeSlot at h
  dsimp only at h
  split at h <;> cases h
  rfl
@[simp] theorem State.beginCopy_mem (s : State) (c e q t) : (s.beginCopy c e q t).mem = s.mem := by
  unfold State.beginCopy
  dsimp only
  split
  · simp
  next s1 hs =>
    have h1 : s1.mem = s.mem := by
      split at hs
      · exact State.bindTile_mem hs
      · cases hs; rfl
    (repeat' split) <;> simp [h1]
    next hs => simp [State.takeSlot_mem hs, h1]
@[simp] theorem State.testAfter_mem (s : State) (ck n) : (s.testAfter ck n).mem = s.mem := by
  simp [State.testAfter, apply_ite State.mem]
@[simp] theorem State.completeCopy_mem (s : State) (c e q) : (s.completeCopy c e q).mem = s.mem := by
  unfold State.completeCopy
  dsimp only
  (repeat' split) <;> simp
theorem State.copyArrive_mem {s t : State} {q} (h : s.copyArrive q = some t) : t.mem = s.mem := by
  unfold State.copyArrive at h
  dsimp only at h
  (repeat' split at h) <;> cases h <;> simp
@[simp] theorem State.lastBeat_mem (s : State) (c e q) : (s.lastBeat c e q).mem = s.mem := by
  unfold State.lastBeat
  dsimp only
  (repeat' split) <;> simp
  next hs => simpa using State.copyArrive_mem hs

/-! Requests that are sent again, refused or lost -/

@[simp] theorem State.takeRequest_wf (s : State) (core q) (h : Memory.wf s.mem) :
    Memory.wf (s.takeRequest core q).mem := by
  unfold State.takeRequest
  split <;> simp [h]
@[simp] theorem State.cohortStall_mem (s : State) (ck line) : (s.cohortStall ck line).mem = s.mem := by
  simp [State.cohortStall]
@[simp] theorem State.refusedOut_mem (s : State) (q) : (s.refusedOut q).mem = s.mem := by
  unfold State.refusedOut
  dsimp only
  (repeat' split) <;> simp
@[simp] theorem State.resendTo_mem (s : State) (q) : (s.resendTo q).mem = s.mem := by
  unfold State.resendTo
  split <;> simp
@[simp] theorem State.lostWrite_mem (s : State) (q malformed) : (s.lostWrite q malformed).mem = s.mem := by
  simp [State.lostWrite]

/-! The host -/

@[simp] theorem State.holdInput_mem (s : State) (i) : (s.holdInput i).mem = s.mem := rfl
@[simp] theorem State.writeRing_mem (s : State) (off data) : (s.writeRing off data).mem = s.mem := rfl
@[simp] theorem State.takeBell_mem (s : State) (slot status) : (s.takeBell slot status).mem = s.mem := rfl
@[simp] theorem State.unhold_wf (s : State) (c) (h : Memory.wf s.mem) : Memory.wf (s.unhold c).mem := by
  unfold State.unhold
  split <;> simp [h]
@[simp] theorem State.takeSlotRecord_wf (s : State) (slot) (h : Memory.wf s.mem) :
    Memory.wf (s.takeSlotRecord slot).mem := by
  unfold State.takeSlotRecord
  dsimp only
  (repeat' split) <;> simp [h]
@[simp] theorem State.putUnit_mem (s : State) (k u) : (s.putUnit k u).mem = s.mem := by
  simp [State.putUnit, apply_ite State.mem]

/-! Stops and storage errors -/

@[simp] theorem State.recordStop_mem (s : State) (ctx u entries) : (s.recordStop ctx u entries).mem = s.mem := rfl
@[simp] theorem State.closeGathers_mem (s : State) (core) : (s.closeGathers core).mem = s.mem := by
  unfold State.closeGathers
  refine foldl_mem _ (fun _ _ => ?_) _ _
  simp
@[simp] theorem State.unrun_mem (s : State) (core slot p) : (s.unrun core slot p).mem = s.mem := by
  unfold State.unrun
  (repeat' split) <;> simp
@[simp] theorem State.unrunAll_mem (s : State) (core p) : (s.unrunAll core p).mem = s.mem := by
  simp [State.unrunAll]
@[simp] theorem State.haltCore_mem (s : State) (c v) : (s.haltCore c v).mem = s.mem := by
  simp [State.haltCore, apply_ite State.mem]
@[simp] theorem State.writeRecs_wf (s : State) (c off l) (h : Memory.wf s.mem) :
    Memory.wf (s.writeRecs c off l).2.mem := by
  induction l generalizing s off with
  | nil => exact h
  | cons b l ih =>
    unfold State.writeRecs
    exact Got.andThen_wf (State.writeVirt_wf _ _ _ _ h) fun _ s h => Got.andThen_wf (ih s _ h) fun _ s h => h
@[simp] theorem State.setErr_mem (s : State) (ctx err sub) : (s.setErr ctx err sub).mem = s.mem := rfl
@[simp] theorem State.stopTrap_mem (s : State) (c r) : (s.stopTrap c r).mem = s.mem := by
  unfold State.stopTrap
  split <;> simp
@[simp] theorem State.writeStop_wf (s : State) (c at') (h : Memory.wf s.mem) : Memory.wf (s.writeStop c at').2.mem := by
  unfold State.writeStop
  dsimp only
  split
  · exact Got.andThen_wf (State.writeRecs_wf _ _ _ _ h) fun _ s h => Got.andThen_wf (State.writeRecs_wf _ _ _ _ h) fun _ s h => h
  · exact Got.andThen_wf (State.writeRecs_wf _ _ _ _ h) fun _ s h => Got.andThen_wf (State.writeRecs_wf _ _ _ _ h) fun _ s h =>
      Got.andThen_wf (State.writeRecs_wf _ _ _ _ h) fun _ s h => by simp [h]
@[simp] theorem State.deliverNotices_mem (s : State) (ctx) : (s.deliverNotices ctx).mem = s.mem := by
  unfold State.deliverNotices
  (repeat' split) <;> simp
@[simp] theorem State.notice_wf (s : State) (c payload) (h : Memory.wf s.mem) : Memory.wf (s.notice c payload).mem := by
  unfold State.notice
  dsimp only
  (repeat' split) <;> simp [h]
@[simp] theorem State.enterCause_wf (s : State) (ctx v e) (h : Memory.wf s.mem) :
    Memory.wf (s.enterCause ctx v e).2.mem := by
  unfold State.enterCause
  dsimp only
  (repeat' split) <;> simp [h]
@[simp] theorem State.rootStop_wf (s : State) (c) (h : Memory.wf s.mem) : Memory.wf (s.rootStop c).2.mem := by
  unfold State.rootStop
  split <;> simp [h]
@[simp] theorem State.damperStop_mem (s : State) (ctx) : (s.damperStop ctx).mem = s.mem := by
  unfold State.damperStop
  (repeat' split) <;> simp
@[simp] theorem State.refreshUnits_mem (s : State) (ctx) : (s.refreshUnits ctx).mem = s.mem := rfl
@[simp] theorem State.countErr_mem (s : State) (core corrected) : (s.countErr core corrected).mem = s.mem := rfl
@[simp] theorem State.stopThread_mem (s : State) (k x) : (s.stopThread k x).mem = s.mem := by
  unfold State.stopThread
  (repeat' split) <;> simp
@[simp] theorem State.dropLine_mem (s : State) (core line p) : (s.dropLine core line p).mem = s.mem := rfl
@[simp] theorem State.poisonLine_wf (s : State) (core line) (h : Memory.wf s.mem) :
    Memory.wf (s.poisonLine core line).mem := by
  unfold State.poisonLine
  refine foldl_wf (fun _ _ h => ?_) _ h
  simp [h]
@[simp] theorem State.spoilTlb_mem (s : State) (core) : (s.spoilTlb core).mem = s.mem := by
  unfold State.spoilTlb
  dsimp only
  (repeat' split) <;> simp
@[simp] theorem State.spoilTable_mem (s : State) (core) : (s.spoilTable core).mem = s.mem := by
  unfold State.spoilTable
  dsimp only
  (repeat' split) <;> simp
@[simp] theorem State.cancelReq_mem (s : State) (e q) : (s.cancelReq e q).mem = s.mem := by
  simp [State.cancelReq]
@[simp] theorem State.killCohort_mem (s : State) (h) : (s.killCohort h).mem = s.mem := by
  simp [State.killCohort]
@[simp] theorem State.relaunch_mem (s : State) (h core) : (s.relaunch h core).mem = s.mem := by
  simp [State.relaunch]
@[simp] theorem State.scratchStop_mem (s : State) (k off engine) : (s.scratchStop k off engine).mem = s.mem := by
  unfold State.scratchStop
  (repeat' split) <;> simp

/-! Contexts: creation, resumption, saving and restoring -/

@[simp] theorem State.loadCores_mem (s : State) (c) : (s.loadCores c).mem = s.mem := by
  unfold State.loadCores
  refine foldl_mem _ (fun _ _ => ?_) _ _
  simp
@[simp] theorem State.dropTlb_mem (s : State) (ctx) : (s.dropTlb ctx).mem = s.mem := rfl
@[simp] theorem Created.ofRead_mem {α : Type} (r : Got α × State) (go : α → State → Created × State)
    (hgo : ∀ a s, (go a s).2.mem = s.mem) : (Created.ofRead r go).2.mem = r.2.mem := by
  unfold Created.ofRead
  split <;> simp [hgo]
@[simp] theorem State.checkInit_mem (s : State) (c) : (s.checkInit c).2.mem = s.mem := by
  unfold State.checkInit
  dsimp only
  split
  · rfl
  · refine (Created.ofRead_mem _ _ fun b s => ?_).trans (State.readHeader_mem ..)
    (repeat' split) <;> rfl
@[simp] theorem State.checkCreate_mem (s : State) (ctx b) : (s.checkCreate ctx b).2.mem = s.mem := by
  unfold State.checkCreate
  dsimp only
  (repeat' split)
  · rfl
  · rfl
  · rfl
  · refine (Created.ofRead_mem _ _ fun hd s => (Created.ofRead_mem _ _ fun rest s => ?_).trans (State.readSup_mem ..)).trans
      (State.readSup_mem ..)
    (repeat' split) <;> simp
@[simp] theorem State.install_mem (s : State) (c h) : (s.install c h).mem = s.mem := by
  simp [State.install]
@[simp] theorem State.refuseCmd_mem (s : State) (ctx) : (s.refuseCmd ctx).mem = s.mem := rfl
@[simp] theorem State.acceptCmd_mem (s : State) (ctx busy) : (s.acceptCmd ctx busy).mem = s.mem := rfl
@[simp] theorem State.resumeCohort_mem (s : State) (c h) : (s.resumeCohort c h).mem = s.mem := rfl
@[simp] theorem State.dropTold_mem (s : State) (ctx) : (s.dropTold ctx).mem = s.mem := rfl
@[simp] theorem State.markLate_mem (s : State) (ctx) : (s.markLate ctx).mem = s.mem := rfl
@[simp] theorem State.resume_mem (s : State) (c) : (s.resume c).mem = s.mem := by
  have hs : ((s.cohorts.filter fun h => h.key.ctx == c.id).foldl (fun s h => s.resumeCohort c h) s).mem = s.mem :=
    foldl_mem _ (fun _ _ => State.resumeCohort_mem ..) _ _
  unfold State.resume
  dsimp only
  split <;> simp [hs]
@[simp] theorem State.takeSlotWaiting_mem (s : State) (ck) : (s.takeSlotWaiting ck).mem = s.mem := rfl
@[simp] theorem State.writeSave_wf (s : State) (c l) (h : Memory.wf s.mem) : Memory.wf (s.writeSave c l).2.mem := by
  unfold State.writeSave
  dsimp only
  (repeat' split) <;> simp [h]
@[simp] theorem State.leaveCore_mem (s : State) (c ck v) : (s.leaveCore c ck v).mem = s.mem := rfl
@[simp] theorem State.saveCohort_wf (s : State) (c k v) (h : Memory.wf s.mem) :
    Memory.wf (s.saveCohort c k v).2.mem := by
  unfold State.saveCohort
  dsimp only
  (repeat' split)
  · exact h
  · exact h
  · refine Got.andThen_wf (by simp [h]) fun done s h => ?_
    split <;> simp [h]
  · exact h
  · exact h
theorem saveEach_wf {α : Type} (l : List α) {f : α → State → Got Bool × State} {s : State} (h : Memory.wf s.mem)
    (hf : ∀ x s, Memory.wf s.mem → Memory.wf (f x s).2.mem) : Memory.wf (saveEach l f s).2.mem := by
  refine foldl_snd_wf (fun _ x h => Got.andThen_wf h fun ok s h => ?_) l h
  split
  · exact hf x s h
  · exact h
@[simp] theorem State.saveCore_wf (s : State) (c v) (h : Memory.wf s.mem) : Memory.wf (s.saveCore c v).2.mem := by
  unfold State.saveCore
  dsimp only
  split
  · simp [h]
  · exact Got.andThen_wf (saveEach_wf _ (by simp [h]) fun k s h => State.saveCohort_wf _ _ _ _ h) fun _ s h => by simp [h]
@[simp] theorem State.failCmd_mem (s : State) (ctx sub) : (s.failCmd ctx sub).mem = s.mem := rfl
@[simp] theorem State.leavePre_mem (s : State) (ctx v) : (s.leavePre ctx v).mem = s.mem := by
  unfold State.leavePre
  dsimp only
  (repeat' split) <;> simp
@[simp] theorem State.failSave_mem (s : State) (ctx v) : (s.failSave ctx v).mem = s.mem := by
  simp [State.failSave]
@[simp] theorem State.writePart_wf (s : State) (c) (h : Memory.wf s.mem) : Memory.wf (s.writePart c).2.mem := by
  unfold State.writePart
  dsimp only
  split
  · exact h
  · refine Got.andThen_wf (State.writeSave_wf _ _ _ h) fun done s h => ?_
    dsimp only
    split
    · exact h
    · exact h
@[simp] theorem State.saveHolds_mem (s : State) (c) : (s.saveHolds c).mem = s.mem := rfl
@[simp] theorem State.rewriteStop_wf (s : State) (ctx) (h : Memory.wf s.mem) : Memory.wf (s.rewriteStop ctx).2.mem := by
  unfold State.rewriteStop
  (repeat' split)
  · exact h
  · exact h
  · exact Got.andThen_wf (State.writeStop_wf _ _ _ h) fun _ s h => by simp [h]
@[simp] theorem State.saveAll_wf (s : State) (c) (h : Memory.wf s.mem) : Memory.wf (s.saveAll c).2.mem := by
  unfold State.saveAll
  refine Got.andThen_wf (saveEach_wf _ h fun v s h => State.saveCore_wf _ _ _ h) fun ok s h => ?_
  split
  · refine Got.andThen_wf (State.rewriteStop_wf _ _ h) fun _ s h => Got.andThen_wf (State.writePart_wf _ _ h) fun ok s h => ?_
    split <;> simp [h]
  · exact h
@[simp] theorem State.restoreHolds_mem (s : State) (c) : (s.restoreHolds c).mem = s.mem := by
  unfold State.restoreHolds
  refine (State.updContext_mem ..).trans (foldl_mem _ (fun s p => ?_) _ _)
  dsimp only
  split <;> rfl
@[simp] theorem State.takeSaved_mem (s : State) (c off) : (s.takeSaved c off).2.mem = s.mem := by
  unfold State.takeSaved
  dsimp only
  split <;> simp
@[simp] theorem State.checkSaved_mem (s : State) (c) : (s.checkSaved c).2.mem = s.mem := by
  unfold State.checkSaved
  refine (Got.andThen_mem _ _ fun b s => ?_).trans (State.takeSaved_mem ..)
  split
  · rfl
  · refine foldl_snd_mem _ (fun p e => Got.andThen_mem _ _ fun bad s => ?_) _ _
    split
    · rfl
    · refine (Got.andThen_mem _ _ fun b s => ?_).trans (State.takeSaved_mem ..)
      (repeat' split) <;> rfl
@[simp] theorem State.beginRestore_mem (s : State) (c err) : (s.beginRestore c err).mem = s.mem := by
  unfold State.beginRestore
  split <;> simp
@[simp] theorem State.goneUnits_mem (s : State) (ctx) : (s.goneUnits ctx).mem = s.mem := by
  simp [State.goneUnits]
@[simp] theorem State.destroy_mem (s : State) (c) : (s.destroy c).mem = s.mem := by
  unfold State.destroy
  exact (foldl_mem _ (fun _ _ => State.idleSlots_mem ..) _ _).trans (State.goneUnits_mem ..)
@[simp] theorem State.putPart_mem (s : State) (i b) : (s.putPart i b).mem = s.mem := by
  simp [State.putPart]

/-! Steps and samples -/

@[simp] theorem State.beginStep_mem (s : State) (c v core slot gk en single) :
    (s.beginStep c v core slot gk en single).mem = s.mem := by
  simp [State.beginStep, apply_ite State.mem]
@[simp] theorem State.stepCmd_mem (s : State) (v op i) : (s.stepCmd v op i).mem = s.mem := by
  unfold State.stepCmd
  dsimp only
  (repeat' split) <;> simp
@[simp] theorem State.refreshStop_wf (s : State) (ctx) (h : Memory.wf s.mem) : Memory.wf (s.refreshStop ctx).2.mem := by
  unfold State.refreshStop
  split <;> simp [h]
@[simp] theorem State.finishStep_wf (s : State) (c st wait) (h : Memory.wf s.mem) :
    Memory.wf (s.finishStep c st wait).mem := by
  unfold State.finishStep
  dsimp only
  (repeat' split) <;> simp [h]
@[simp] theorem State.sampleSlot_mem (s : State) (core slot clock) : (s.sampleSlot core slot clock).2.mem = s.mem := by
  unfold State.sampleSlot
  split <;> simp
@[simp] theorem State.putSample_wf (s : State) (core b) (h : Memory.wf s.mem) : Memory.wf (s.putSample core b).mem := by
  unfold State.putSample
  dsimp only
  (repeat' split) <;> simp [h]
@[simp] theorem State.takeSample_wf (s : State) (core) (h : Memory.wf s.mem) : Memory.wf (s.takeSample core).mem := by
  unfold State.takeSample
  rw [State.updCore_mem]
  exact foldl_wf (fun s j h => State.putSample_wf _ _ _ (by rwa [State.sampleSlot_mem])) _ h
@[simp] theorem State.takeSamples_wf (s : State) (core n) (h : Memory.wf s.mem) :
    Memory.wf (s.takeSamples core n).mem := by
  induction n generalizing s with
  | zero => exact h
  | succ n ih =>
    unfold State.takeSamples
    split
    · exact ih _ (State.takeSample_wf s core h)
    · exact h

/-! The pod -/

@[simp] theorem State.updPod_mem (s : State) (ctx f) : (s.updPod ctx f).mem = s.mem := rfl
@[simp] theorem State.podEvent_mem (s : State) : s.podEvent.mem = s.mem := rfl
@[simp] theorem State.ctl_mem (s : State) (ctx dsts b) : (s.ctl ctx dsts b).mem = s.mem := by
  unfold State.ctl
  split <;> simp
@[simp] theorem State.refusePod_mem (s : State) (ctx) : (s.refusePod ctx).mem = s.mem := rfl
@[simp] theorem State.laterInput_mem (s : State) (i) : (s.laterInput i).mem = s.mem := rfl
@[simp] theorem State.enterJob_mem (s : State) (ctx) : (s.enterJob ctx).mem = s.mem := rfl
@[simp] theorem State.announce_mem (s : State) (ctx) : (s.announce ctx).mem = s.mem := by
  unfold State.announce
  split <;> simp
@[simp] theorem State.batchesWithout_mem (s : State) (ctx v) : (s.batchesWithout ctx v).mem = s.mem := by
  unfold State.batchesWithout
  split <;> simp
@[simp] theorem State.heldCtl_mem (s : State) (c r i) : (s.heldCtl c r i).mem = s.mem := by
  simp [State.heldCtl]
@[simp] theorem State.freeze_wf (s : State) (c src epoch) (h : Memory.wf s.mem) :
    Memory.wf (s.freeze c src epoch).mem := by
  unfold State.freeze
  dsimp only
  (repeat' split) <;> simp [h]
@[simp] theorem State.testDrained_mem (s : State) (ctx) : (s.testDrained ctx).mem = s.mem := by
  unfold State.testDrained
  (repeat' split) <;> simp
@[simp] theorem State.resend_mem (s : State) (c) : (s.resend c).mem = s.mem := rfl
@[simp] theorem State.resendBatches_mem (s : State) (c) : (s.resendBatches c).mem = s.mem := by
  unfold State.resendBatches
  refine foldl_mem _ (fun _ _ => ?_) _ _
  (repeat' split) <;> simp
@[simp] theorem State.beginResend_mem (s : State) (c) : (s.beginResend c).mem = s.mem := by
  simp [State.beginResend]
@[simp] theorem State.getReady_mem (s : State) (c) : (s.getReady c).mem = s.mem := by
  simp [State.getReady]
@[simp] theorem State.advance_mem (s : State) (ctx) : (s.advance ctx).mem = s.mem := by
  unfold State.advance
  dsimp only
  (repeat' split) <;> simp
@[simp] theorem State.advanceAll_mem (s : State) (ctx) : (s.advanceAll ctx).mem = s.mem := by
  simp [State.advanceAll]
@[simp] theorem State.answered_mem (s : State) (c v stage) : (s.answered c v stage).mem = s.mem := by
  simp [State.answered, apply_ite State.mem]
@[simp] theorem State.release_wf (s : State) (c) (h : Memory.wf s.mem) : Memory.wf (s.release c).mem := by
  unfold State.release
  have hw := State.writeVirt_wf s c c.desc.stopbase (List.replicate 256 0) h
  generalize s.writeVirt c c.desc.stopbase (List.replicate 256 0) = w at hw
  dsimp only
  split <;> simp [hw]
@[simp] theorem State.setFenced_mem (s : State) (ctx v) : (s.setFenced ctx v).mem = s.mem := by
  simp [State.setFenced]
@[simp] theorem State.selfFenced_mem (s : State) (c src) : (s.selfFenced c src).mem = s.mem := by
  simp [State.selfFenced, apply_ite State.mem]
@[simp] theorem State.landChunk_mem (s : State) (ctx peer k) : (s.landChunk ctx peer k).mem = s.mem := by
  simp [State.landChunk]
@[simp] theorem State.performAcc_wf (s : State) (ctx peer holder a) (h : Memory.wf s.mem) :
    Memory.wf (s.performAcc ctx peer holder a).2.mem := by
  unfold State.performAcc
  (repeat' split) <;> simp [h]
@[simp] theorem State.applyAsk_wf (s : State) (ctx peer tag holder test accs) (h : Memory.wf s.mem) :
    Memory.wf (s.applyAsk ctx peer tag holder test accs).2.mem := by
  unfold State.applyAsk
  dsimp only
  (repeat' split)
  · exact h
  · exact h
  · exact h
  · exact h
  · have hr : Memory.wf ((accs.filterMap accChecks).foldl (fun s k => s.markAccess ctx k) s).mem := by simpa using h
    dsimp only
    refine foldl_snd_wf (fun p a h => ?_) accs hr
    exact State.performAcc_wf _ _ _ _ _ h
@[simp] theorem State.answerWith_mem (s : State) (ctx peer id r) : (s.answerWith ctx peer id r).mem = s.mem := by
  unfold State.answerWith
  (repeat' split) <;> simp
@[simp] theorem State.applyData_wf (s : State) (c peer b) (h : Memory.wf s.mem) :
    Memory.wf (s.applyData c peer b).mem := by
  unfold State.applyData
  (repeat' split) <;> simp [h]
@[simp] theorem State.rejectData_mem (s : State) (m) : (s.rejectData m).mem = s.mem := by
  unfold State.rejectData
  split <;> simp
@[simp] theorem State.dropPeer_wf (s : State) (c v e q) (h : Memory.wf s.mem) : Memory.wf (s.dropPeer c v e q).mem := by
  unfold State.dropPeer
  split <;> simp [h]
@[simp] theorem State.failMember_wf (s : State) (ctx v) (h : Memory.wf s.mem) : Memory.wf (s.failMember ctx v).mem := by
  unfold State.failMember
  split
  · exact h
  · dsimp only
    rw [State.recompute_mem]
    have hs {s : State} (c) (l : List (Nat × CopyReq)) (h : Memory.wf s.mem) :
        Memory.wf (l.foldl (fun s p => s.dropPeer c v p.1 p.2) s).mem :=
      foldl_wf (fun s p h => State.dropPeer_wf s c v p.1 p.2 h) l h
    split
    · exact State.notice_wf _ _ _ (hs _ _ (by simpa using h))
    · exact hs _ _ (by simpa using h)
@[simp] theorem State.compareDigests_wf (s : State) (c n) (h : Memory.wf s.mem) :
    Memory.wf (s.compareDigests c n).mem := by
  unfold State.compareDigests
  dsimp only
  (repeat' split)
  · simp [h]
  · simp [h]
  · simp [h]
  · exact foldl_wf (fun s v h => State.failMember_wf s _ v h) _ (by simpa using h)
  · simp [h]
  · simp [h]
@[simp] theorem State.testDigests_wf (s : State) (ctx n) (h : Memory.wf s.mem) :
    Memory.wf (s.testDigests ctx n).mem := by
  unfold State.testDigests
  (repeat' split) <;> simp [h]
@[simp] theorem State.addDigest_wf (s : State) (ctx v n d) (h : Memory.wf s.mem) :
    Memory.wf (s.addDigest ctx v n d).mem := by
  unfold State.addDigest
  simp [h]
@[simp] theorem State.digestBytes_mem (s : State) (c) : (s.digestBytes c).2.mem = s.mem := by
  unfold State.digestBytes
  refine foldl_snd_mem _ (fun p k => Got.andThen_mem _ _ fun bs s => ?_) _ _
  dsimp only
  split <;> simp

/-! The device -/

@[simp] theorem State.setTime_mem (s : State) (t) : (s.setTime t).mem = s.mem := rfl
@[simp] theorem State.tap_mem (s : State) (code) : (s.tap code).mem = s.mem := rfl
@[simp] theorem State.restart_mem (s : State) (trip) : (s.restart trip).mem = s.mem := rfl
@[simp] theorem State.bootTo_mem (s : State) (code img) : (s.bootTo code img).mem = s.mem := by
  unfold State.bootTo
  split <;> simp
@[simp] theorem State.report_mem (s : State) : s.report.2.mem = s.mem := by
  unfold State.report
  refine foldl_snd_mem _ (fun _ _ => ?_) _ _
  simp

/-! Texels and descriptors -/

@[simp] theorem State.dtEntry_wf (s : State) (i c key n kindMin kindMax) (h : Memory.wf s.mem) :
    Memory.wf (s.dtEntry i c key n kindMin kindMax).2.mem := by
  unfold State.dtEntry
  split
  · exact h
  · refine Got.andThen_wf (State.roRead_wf _ _ _ _ _ _ _ h) fun e s h => ?_
    split <;> exact h
@[simp] theorem State.texels_wf (s : State) (i c t x taps) (h : Memory.wf s.mem) :
    Memory.wf (s.texels i c t x taps).2.mem := by
  unfold State.texels
  split
  · exact h
  · exact foldl_snd_wf (fun p x h => Got.andThen_wf h fun l s h =>
      Got.andThen_wf (State.threadRead_wf _ _ _ _ _ _ h) fun _ s h => h) _ h
@[simp] theorem State.texDesc_wf (s : State) (i c t n k0 k1) (h : Memory.wf s.mem) :
    Memory.wf (s.texDesc i c t n k0 k1).2.mem := by
  unfold State.texDesc
  refine Got.andThen_wf (State.dtEntry_wf _ _ _ _ _ _ _ h) fun e s h => ?_
  split <;> exact h

/-! The sequence table -/

@[simp] theorem State.keepEntry_mem (s : State) (i c t va b) : (s.keepEntry i c t va b).mem = s.mem := by
  unfold State.keepEntry
  dsimp only
  split
  · refine (foldl_mem _ (fun s k => ?_) _ _).trans (State.xlate_mem ..)
    split <;> simp
  · rfl
  · rfl
@[simp] theorem State.seqFetch_wf (s : State) (i c t va) (h : Memory.wf s.mem) :
    Memory.wf (s.seqFetch i c t va).2.mem := by
  unfold State.seqFetch
  (repeat' split) <;> simp [h]
@[simp] theorem State.seqEntry_wf (s : State) (i c t d) (h : Memory.wf s.mem) :
    Memory.wf (s.seqEntry i c t d).2.mem := by
  unfold State.seqEntry
  split
  · exact h
  · exact Got.andThen_wf (State.seqFetch_wf _ _ _ _ _ h) fun b s h => by simpa using h

/-! The register window -/

@[simp] theorem State.onUnit_mem (s : State) (u f) : (s.onUnit u f).mem = s.mem := rfl
@[simp] theorem State.writeGlobal_mem (s : State) (v r) : (s.writeGlobal v r).mem = s.mem := by
  unfold State.writeGlobal
  dsimp only
  (repeat' split) <;> simp
@[simp] theorem State.onSel_mem (s : State) (f) : (s.onSel f).mem = s.mem := by
  unfold State.onSel
  split <;> simp

/-! The choice of a step, and the clock -/

@[simp] theorem State.choose_wf (s : State) (h : Memory.wf s.mem) : Memory.wf s.choose.2.mem := by
  unfold State.choose
  split <;> simp [h]
@[simp] theorem State.tick_mem (s : State) : s.tick.mem = s.mem := by
  simp [State.tick, apply_ite State.mem]
@[simp] theorem State.noteMove_mem (s : State) : s.noteMove.mem = s.mem := by
  unfold State.noteMove
  (repeat' split) <;> simp
@[simp] theorem State.nextClock_mem (s : State) : s.nextClock.mem = s.mem := rfl
@[simp] theorem State.forEvent_mem (s : State) (i op) : (s.forEvent i op).mem = s.mem := by
  simp [State.forEvent, apply_ite State.mem]
@[simp] theorem State.forInput_mem (s : State) (k) : (s.forInput k).2.mem = s.mem := by
  unfold State.forInput
  split <;> simp
@[simp] theorem State.wordAt_mem (s : State) (i c pa) : (s.wordAt i c pa).2.mem = s.mem := by
  unfold State.wordAt
  dsimp only
  (repeat' split) <;> simp
@[simp] theorem State.withE_mem (s : State) (i w) : (s.withE i w).mem = s.mem := rfl
@[simp] theorem State.forSlot_mem (s : State) (core slot) : (s.forSlot core slot).mem = s.mem := by
  simp [State.forSlot, apply_ite State.mem]

end Sys2Proof.Machine
end

section
/-! The shared shapes of an instruction end in canonical memory where what they go on with does. -/

namespace Sys2Proof.Machine

/-! What reads the operands of the members -/

theorem State.operandsQ_canonical (s : State) (st fs) {k : Iss → List (Thread × Reads) → Out} (h : Memory.wf s.mem)
    (hk : ∀ i ms, Canonical (k i ms)) : Canonical (s.operandsQ st fs k) := by
  unfold State.operandsQ
  dsimp only
  (repeat' split) <;> simp [h, hk]
theorem State.operands_canonical (s : State) (st fs) {k : Iss → List (Thread × Reads) → Out} (h : Memory.wf s.mem)
    (hk : ∀ i ms, Canonical (k i ms)) : Canonical (s.operands st fs k) := by
  refine State.operandsQ_canonical _ _ _ h fun i ms => ?_
  split
  · simp [h]
  · exact hk i ms
@[simp] theorem State.memberwise_canonical (s : State) (st fs ends f) (h : Memory.wf s.mem) :
    Canonical (s.memberwise st fs ends f) := by
  refine State.operandsQ_canonical _ _ _ h fun i ms => ?_
  dsimp only
  split <;> simp [h]

/-! Results that land -/

@[simp] theorem State.resultStep_canonical (s : State) (k) (h : Memory.wf s.mem) : Canonical (s.resultStep k) := by
  unfold State.resultStep
  split <;> simp [h]

/-! Accesses of memory and scratch -/

theorem State.globalAccess_canonical (s : State) (i k tag n pins ms addr) {go : Context → State → List Acc → Out}
    (h : Memory.wf s.mem) (hgo : ∀ c t acc, Memory.wf t.mem → Canonical (go c t acc)) :
    Canonical (s.globalAccess i k tag n pins ms addr go) := by
  have hd (l : List Acc) (t : State) (ht : Memory.wf t.mem) : Memory.wf (l.foldl (fun s a => s.drainFor i.core a.pa) t).mem :=
    foldl_wf (fun _ _ h => State.drainFor_wf _ _ _ h) l ht
  unfold State.globalAccess
  dsimp only
  (repeat' split) <;> simp [h, hd, hgo]
theorem State.watched_canonical (s : State) (c i l n rd wr) {go : State → Out} (h : Memory.wf s.mem)
    (hgo : ∀ t, Memory.wf t.mem → Canonical (go t)) : Canonical (s.watched c i l n rd wr go) := by
  unfold State.watched
  split
  next ht => simp [State.watchpoint_mem ht, h]
  next => exact hgo s h
theorem State.askOwners_canonical (s : State) (i k n test l) {go : State → Out} (h : Memory.wf s.mem)
    (hgo : ∀ t, Memory.wf t.mem → Canonical (go t)) : Canonical (s.askOwners i k n test l go) := by
  unfold State.askOwners
  dsimp only
  (repeat' split) <;> simp [h, hgo]
theorem State.remoteAccess_canonical (s : State) (i k n effects others l) {mid : State → (State → Out) → Out}
    {go : State → (Acc → Option Bytes) → Out} (h : Memory.wf s.mem)
    (hmid : ∀ t f, Memory.wf t.mem → (∀ u, Memory.wf u.mem → Canonical (f u)) → Canonical (mid t f))
    (hgo : ∀ t a, Memory.wf t.mem → Canonical (go t a)) : Canonical (s.remoteAccess i k n effects others l mid go) := by
  have hdone (t : State) (ht : Memory.wf t.mem) : Canonical (go (t.dropAnswers i.head) (t.answerFor i l)) :=
    hgo _ _ (by simpa using ht)
  have hperform (t : State) (ht : Memory.wf t.mem) :
      Canonical (mid t fun s => s.askOwners i k n false l fun s => go (s.dropAnswers i.head) (s.answerFor i l)) :=
    hmid t _ ht fun u hu => State.askOwners_canonical _ _ _ _ _ _ hu hdone
  unfold State.remoteAccess
  dsimp only
  (repeat' split)
  · exact hmid s _ h fun t ht => hgo t _ ht
  · exact State.askOwners_canonical _ _ _ _ _ _ h hperform
  · exact hperform s h
  · exact State.askOwners_canonical _ _ _ _ _ _ h fun t ht => hmid t _ ht hdone
@[simp] theorem State.load_canonical (s : State) (st fs tag isW d n signed addr) (h : Memory.wf s.mem) :
    Canonical (s.load st fs tag isW d n signed addr) := by
  refine State.operandsQ_canonical _ _ _ h fun i ms => State.globalAccess_canonical _ _ _ _ _ _ _ _ h fun c t acc ht => ?_
  refine State.remoteAccess_canonical _ _ _ _ _ _ _ ht (fun _ _ h hf => State.watched_canonical _ _ _ _ _ _ _ h hf)
    fun u ans hu => ?_
  dsimp only
  split <;> simp [hu]
@[simp] theorem State.store_canonical (s : State) (st fs n data addr) (h : Memory.wf s.mem) :
    Canonical (s.store st fs n data addr) := by
  refine State.operandsQ_canonical _ _ _ h fun i ms => State.globalAccess_canonical _ _ _ _ _ _ _ _ h fun c t acc ht => ?_
  refine State.remoteAccess_canonical _ _ _ _ _ _ _ ht (fun _ _ h hf => State.watched_canonical _ _ _ _ _ _ _ h hf)
    fun u ans hu => ?_
  simpa using foldl_wf (fun s a h => State.storeOne_wf _ _ _ _ _ _ h) acc hu
theorem State.scratchAccess_canonical (s : State) (st fs addr) {go : Iss → Cohort → List (Thread × Reads × Nat) → State}
    (h : Memory.wf s.mem) (hgo : ∀ i c l, Memory.wf (go i c l).mem) : Canonical (s.scratchAccess st fs addr go) := by
  refine State.operandsQ_canonical _ _ _ h fun i ms => ?_
  dsimp only
  (repeat' split) <;> simp [h, hgo]
@[simp] theorem State.loadScratch_canonical (s : State) (st fs isW d n signed off) (h : Memory.wf s.mem) :
    Canonical (s.loadScratch st fs isW d n signed off) :=
  State.scratchAccess_canonical _ _ _ _ h fun i c l => by simp [h]
@[simp] theorem State.storeScratch_canonical (s : State) (st fs n data off) (h : Memory.wf s.mem) :
    Canonical (s.storeScratch st fs n data off) :=
  State.scratchAccess_canonical _ _ _ _ h fun i c l => by simp [h]

/-! Atomics -/

theorem State.pinStep_canonical (s : State) (i) {go : State → Out} (h : Memory.wf s.mem)
    (hgo : ∀ t, Memory.wf t.mem → Canonical (go t)) : Canonical (s.pinStep i go) := by
  unfold State.pinStep
  dsimp only
  split
  · simp [h]
  · split
    · simp [h]
    · refine hgo _ (State.pinDirty_wf _ _ _ ?_)
      split <;> simp [h]
theorem State.releaseStep_canonical (s : State) (i sc) {go : State → Out} (h : Memory.wf s.mem)
    (hgo : ∀ t, Memory.wf t.mem → Canonical (go t)) : Canonical (s.releaseStep i sc go) := by
  unfold State.releaseStep
  dsimp only
  (repeat' split)
  · simp [h]
  · simp [h]
  · simp [h]
  · exact hgo _ (State.writeBackAll_wf _ _ _ h)
  · exact State.pinStep_canonical _ _ h hgo
/-- An atomic is performed after the release that its order asks for. -/
theorem State.released_canonical (s : State) (i ord sc) {go : State → Out} (h : Memory.wf s.mem)
    (hgo : ∀ t, Memory.wf t.mem → Canonical (go t)) :
    Canonical (if isRel ord = true then s.releaseStep i sc go else go s) := by
  split
  · exact State.releaseStep_canonical _ _ _ h hgo
  · exact hgo s h
@[simp] theorem State.atomic_canonical (s : State) (op d a ord sc) (h : Memory.wf s.mem) :
    Canonical (s.atomic op d a ord sc) := by
  unfold State.atomic
  refine State.operandsQ_canonical _ _ _ h fun i ms => State.globalAccess_canonical _ _ _ _ _ _ _ _ h fun c t acc ht => ?_
  dsimp only
  refine State.released_canonical _ _ _ _ ht fun u hu => ?_
  split
  · simp [hu]
  · refine State.remoteAccess_canonical _ _ _ _ _ _ _ (foldl_wf (fun s p h => State.l1Expel_wf _ _ _ _ _ h) _ hu)
      (fun _ _ h hf => State.watched_canonical _ _ _ _ _ _ _ h hf) fun v ans hv => ?_
    rw [canonical_next, State.retire_mem, apply_ite State.mem, State.dropClean_mem, ite_self]
    refine foldl_wf (fun s q h => ?_) _ hv
    split <;> simp [h]
@[simp] theorem State.atomicScratch_canonical (s : State) (op d a ord sc) (h : Memory.wf s.mem) :
    Canonical (s.atomicScratch op d a ord sc) := by
  unfold State.atomicScratch
  refine State.operandsQ_canonical _ _ _ h fun i ms => ?_
  dsimp only
  split
  · exact h
  · split
    · simp [h]
    · split
      · simp [h]
      · split
        · simp [h]
        · refine State.released_canonical _ _ _ _ h fun t ht => ?_
          rw [canonical_next, State.retire_mem, foldl_mem]
          · exact ht
          · intro u q
            split <;> simp

/-! Fences -/

@[simp] theorem execFence_canonical (sc) (s : State) (h : Memory.wf s.mem) : Canonical (execFence sc s) := by
  refine State.operands_canonical _ _ _ h fun i ms => State.releaseStep_canonical _ _ _ h fun t ht => ?_
  dsimp only
  split <;> simp [ht]
@[simp] theorem execFenceX_canonical (sc paths) (s : State) (h : Memory.wf s.mem) : Canonical (execFenceX sc paths s) := by
  refine State.operands_canonical _ _ _ h fun i ms => State.releaseStep_canonical _ _ _ h fun t ht => ?_
  simp [apply_ite State.mem, ht]

/-! Barriers -/

@[simp] theorem State.barArrive_canonical (s : State) (op fs d nb) (h : Memory.wf s.mem) :
    Canonical (s.barArrive op fs d nb) := by
  refine State.operands_canonical _ _ _ h fun i ms => ?_
  dsimp only
  split
  · simp [h]
  · split
    · simp [h]
    · refine State.pinStep_canonical _ _ h fun t ht => ?_
      split
      · simp [h]
      next hu => simpa [State.settleAll_mem hu] using ht
@[simp] theorem execNbarArrive_canonical (nb) (s : State) (h : Memory.wf s.mem) : Canonical (execNbarArrive nb s) := by
  refine State.operands_canonical _ _ _ h fun i ms => ?_
  dsimp only
  split
  · simp [h]
  · refine State.pinStep_canonical _ _ h fun t ht => ?_
    split
    · simp [h]
    next hu => simpa [State.settleAll_mem hu] using ht
theorem State.nbar_canonical (s : State) (fs) {go : Iss → Cohort → List (Thread × Reads) → State} (h : Memory.wf s.mem)
    (hgo : ∀ i c ms, Memory.wf (go i c ms).mem) : Canonical (s.nbar fs go) := by
  refine State.operands_canonical _ _ _ h fun i ms => ?_
  split
  · exact h
  · exact hgo i _ ms

/-! Fetches, member by member -/

theorem State.awaitGot_canonical {α : Type} (s : State) (i tid key) {r : Got α × State} {go : α → State → Out}
    (h : Memory.wf s.mem) (hr : Memory.wf r.2.mem) (hgo : ∀ a t, Memory.wf t.mem → Canonical (go a t)) :
    Canonical (s.awaitGot i tid key r go) := by
  unfold State.awaitGot
  split <;> simp [h, hr, hgo]
theorem State.fetchEach_wf {α : Type} (s : State) (ms) {f : Thread → Reads → State → Got α × State} (h : Memory.wf s.mem)
    (hf : ∀ t r s, Memory.wf s.mem → Memory.wf (f t r s).2.mem) : Memory.wf (s.fetchEach ms f).2.mem :=
  foldl_snd_wf (fun p m h => hf m.1 m.2 p.2 h) ms h
theorem State.settleFetch_canonical {α : Type} (s : State) (i ms) {r : List (Thread × Got α) × State}
    {go : List (Thread × α) → State → Out} (h : Memory.wf s.mem) (hr : Memory.wf r.2.mem)
    (hgo : ∀ l t, Memory.wf t.mem → Canonical (go l t)) : Canonical (s.settleFetch i ms r go) := by
  have hdrop (t : State) : (ms.foldl (fun s m => s.dropAnswers m.1.key) t).mem = t.mem :=
    foldl_mem _ (fun _ _ => State.dropAnswers_mem ..) ms t
  unfold State.settleFetch
  dsimp only
  split
  · simp [hdrop, h]
  · split
    · simp [hr]
    · split
      · exact hgo _ _ (by rw [hdrop, State.clearProbes_mem]; exact hr)
      · simp [hr]
theorem State.eachFetch_canonical {α : Type} (s : State) (i ms) {f : Iss → Thread → Reads → State → Got α × State}
    {go : List (Thread × α) → State → Out} (h : Memory.wf s.mem)
    (hf : ∀ i t r s, Memory.wf s.mem → Memory.wf (f i t r s).2.mem)
    (hgo : ∀ l t, Memory.wf t.mem → Canonical (go l t)) : Canonical (s.eachFetch i ms f go) := by
  unfold State.eachFetch
  dsimp only
  (repeat' split)
  · simp [h]
  · exact State.settleFetch_canonical _ _ _ h (State.fetchEach_wf _ _ h (hf i)) hgo
  · exact State.settleFetch_canonical _ _ _ h (State.fetchEach_wf _ _ h (hf i.quiet)) fun l t ht => by simpa using ht
theorem State.replayAll_canonical (s : State) (i ms kind val) {go : List (Thread × W64) → State → Out}
    (h : Memory.wf s.mem) (hgo : ∀ l t, Memory.wf t.mem → Canonical (go l t)) :
    Canonical (s.replayAll i ms kind val go) := by
  unfold State.replayAll
  extract_lets vals rpl
  split
  · exact hgo _ _ h
  · split
    · exact hgo _ _ h
    · split
      · exact State.awaitGot_canonical _ _ _ _ h (by simpa using h) fun l t ht =>
          hgo _ _ (foldl_wf (fun _ _ h => State.record1_wf _ _ _ _ _ h) _ ht)
      · exact State.settleFetch_canonical _ _ _ h (State.fetchEach_wf _ _ h fun t r s h => by simpa using h) fun l t ht =>
          hgo _ _ (by simpa using ht)
@[simp] theorem execNbarTest_canonical (d a nb) (s : State) (h : Memory.wf s.mem) : Canonical (execNbarTest d a nb s) := by
  refine State.operands_canonical _ _ _ h fun i ms => ?_
  split
  · exact h
  · exact State.replayAll_canonical _ _ _ _ _ h fun l t ht => by simpa using ht

/-! Traps and privileged instructions -/

@[simp] theorem State.raiseAll_canonical (s : State) (x after) (h : Memory.wf s.mem) : Canonical (s.raiseAll x after) :=
  State.operands_canonical _ _ _ h fun i ms => by simpa using h
theorem State.privileged_canonical (s : State) (st fs) {go : Iss → List (Thread × Reads) → Out} (h : Memory.wf s.mem)
    (hgo : ∀ i ms, Canonical (go i ms)) : Canonical (s.privileged st fs go) := by
  refine State.operandsQ_canonical _ _ _ h fun i ms => ?_
  split
  · simp [h]
  · exact hgo i ms

/-! Accumulators -/

theorem State.accAccess_canonical (s : State) (fs binds tile) {go : Iss → Cohort → List (Thread × Reads) → State → State}
    (h : Memory.wf s.mem) (hgo : ∀ i c ms t, Memory.wf t.mem → Memory.wf (go i c ms t).mem) :
    Canonical (s.accAccess fs binds tile go) := by
  refine State.operands_canonical _ _ _ h fun i ms => ?_
  split
  · simp [h]
  · split
    · simp [h]
    next ht =>
      split
      · exact hgo _ _ _ _ (by rw [State.bindAll_mem ht]; exact h)
      · exact h

/-! The flue and the descriptor table -/

theorem State.releaseAll_canonical (s : State) (i) {go : State → Out} (h : Memory.wf s.mem)
    (hgo : ∀ t, Memory.wf t.mem → Canonical (go t)) : Canonical (s.releaseAll i go) :=
  State.releaseStep_canonical _ _ _ h hgo
theorem State.flueOp_canonical (s : State) (fs) {go : Iss → Context → Cohort → List (Thread × Reads) → Out}
    (h : Memory.wf s.mem) (hgo : ∀ i c k ms, Canonical (go i c k ms)) : Canonical (s.flueOp fs go) := by
  refine State.operands_canonical _ _ _ h fun i ms => ?_
  split
  · exact hgo _ _ _ _
  · exact h
  · exact h
theorem State.flueChecked_canonical {α β : Type} (s : State) (i c) (r : List (Thread × Except Trap α) × β) (ch)
    {go : List (Thread × α) → β → Out} (h : Memory.wf s.mem) (hgo : ∀ l b, Canonical (go l b)) :
    Canonical (s.flueChecked i c r ch go) := by
  unfold State.flueChecked
  dsimp only
  (repeat' split) <;> simp [h, hgo]
theorem State.tlwPerform_canonical (s : State) (c i l) {go : State → Out} (h : Memory.wf s.mem)
    (hgo : ∀ t, Memory.wf t.mem → Canonical (go t)) : Canonical (s.tlwPerform c i l go) := by
  unfold State.tlwPerform
  extract_lets s1 waits srcs dsts vas read
  have h1 : Memory.wf s1.mem := foldl_wf (fun s a h => by split <;> simp [h]) l h
  have hread (t : State) (ht : Memory.wf t.mem) : Canonical (read t) :=
    State.remoteAccess_canonical _ _ _ _ _ _ _ ht (fun _ _ h hf => State.watched_canonical _ _ _ _ _ _ _ h hf)
      fun u ans hu => hgo _ (State.tlwWrite_wf _ _ _ _ _ hu)
  (repeat' split)
  · simp [h1]
  · simp [h1]
  · exact hread _ h1
  · exact State.askOwners_canonical _ _ _ _ _ _ h1 hread

/-! Textures, rays, and the fetch of an instruction -/

theorem State.texture_canonical (s : State) (fs k0 k1)
    {fetch : Iss → Context → Thread → Reads → Tex → State → Got Eff × State} (h : Memory.wf s.mem)
    (hf : ∀ i c t r x s, Memory.wf s.mem → Memory.wf (fetch i c t r x s).2.mem) : Canonical (s.texture fs k0 k1 fetch) := by
  refine State.operands_canonical _ _ _ h fun i ms => ?_
  split
  · exact h
  · exact State.eachFetch_canonical _ _ _ h
      (fun i t r s h => Got.andThen_wf (State.texDesc_wf _ _ _ _ _ _ _ h) fun x s h => hf _ _ _ _ _ _ h)
      fun l t ht => by simpa using ht
theorem State.rayTest_canonical (s : State) (d a b n)
    {fetch : Iss → Context → Thread → Reads → Bvh → State → Got Eff × State} (h : Memory.wf s.mem)
    (hf : ∀ i c t r x s, Memory.wf s.mem → Memory.wf (fetch i c t r x s).2.mem) : Canonical (s.rayTest d a b n fetch) := by
  refine State.operands_canonical _ _ _ h fun i ms => ?_
  split
  · exact h
  · refine State.eachFetch_canonical _ _ _ h
      (fun i t r s h => Got.andThen_wf (State.dtEntry_wf _ _ _ _ _ _ _ h) fun e s h => ?_)
      fun l t ht => by simpa using ht
    split
    · exact hf _ _ _ _ _ _ h
    · exact h
theorem State.fetch_canonical (s : State) (i) {go : W32 → State → Out} (h : Memory.wf s.mem)
    (hgo : ∀ w t, Memory.wf t.mem → Canonical (go w t)) : Canonical (s.fetch i go) := by
  have hf (c : Context) (l : List Thread) : (l.foldl (fun (acc : List (Thread × XR) × State) t =>
      let q := acc.2.xlate c (physDie i.core) (.core i.core) i.run.pc .fetch t.who
      (acc.1 ++ [(t, q.1)], q.2)) ([], s)).2.mem = s.mem := foldl_snd_mem _ (fun p t => by simp) _ _
  unfold State.fetch
  dsimp only
  (repeat' split) <;> simp [h, hf, hgo]

end Sys2Proof.Machine
end

section
/-! Every instruction, and every step of the other agents, ends in canonical memory. -/

namespace Sys2Proof.Machine

/-! Those that follow from the facts above branch by branch -/

@[simp] theorem State.compute_canonical (s : State) (fs f) (h : Memory.wf s.mem) : Canonical (s.compute fs f) :=
  State.memberwise_canonical _ _ _ _ _ h
@[simp] theorem State.computeC_canonical (s : State) (fs f) (h : Memory.wf s.mem) : Canonical (s.computeC fs f) :=
  State.memberwise_canonical _ _ _ _ _ h
@[simp] theorem State.alu2_canonical (s : State) (d a b f) (h : Memory.wf s.mem) : Canonical (s.alu2 d a b f) := by
  simp [State.alu2, h]
@[simp] theorem State.alu1_canonical (s : State) (d a f) (h : Memory.wf s.mem) : Canonical (s.alu1 d a f) := by
  simp [State.alu1, h]
@[simp] theorem State.alu3_canonical (s : State) (d a b f) (h : Memory.wf s.mem) : Canonical (s.alu3 d a b f) := by
  simp [State.alu3, h]
@[simp] theorem State.alu64_canonical (s : State) (d a b f) (h : Memory.wf s.mem) : Canonical (s.alu64 d a b f) := by
  simp [State.alu64, h]
@[simp] theorem State.alu64s_canonical (s : State) (d a b f) (h : Memory.wf s.mem) : Canonical (s.alu64s d a b f) := by
  simp [State.alu64s, h]
@[simp] theorem State.cmp64_canonical (s : State) (d a b f) (h : Memory.wf s.mem) : Canonical (s.cmp64 d a b f) := by
  simp [State.cmp64, h]
@[simp] theorem State.fp2_canonical (s : State) (d a b f) (h : Memory.wf s.mem) : Canonical (s.fp2 d a b f) := by
  simp [State.fp2, h]
@[simp] theorem State.fp1_canonical (s : State) (d a f) (h : Memory.wf s.mem) : Canonical (s.fp1 d a f) := by
  simp [State.fp1, h]
@[simp] theorem State.farith_canonical (s : State) (op d a b ty rm) (h : Memory.wf s.mem) :
    Canonical (s.farith op d a b ty rm) := by
  simp [State.farith, h]
@[simp] theorem State.packed_canonical (s : State) (op f d a b) (h : Memory.wf s.mem) :
    Canonical (s.packed op f d a b) := by
  simp [State.packed, h]
@[simp] theorem State.packedFma_canonical (s : State) (f d a b) (h : Memory.wf s.mem) :
    Canonical (s.packedFma f d a b) := by
  simp [State.packedFma, h]
@[simp] theorem State.packedMinMax_canonical (s : State) (isMax f d a b) (h : Memory.wf s.mem) :
    Canonical (s.packedMinMax isMax f d a b) := by
  simp [State.packedMinMax, h]
@[simp] theorem State.pack2_canonical (s : State) (f d a b) (h : Memory.wf s.mem) : Canonical (s.pack2 f d a b) := by
  simp [State.pack2, h]
@[simp] theorem State.convert_canonical (s : State) (d a tf sf sat rm) (h : Memory.wf s.mem) :
    Canonical (s.convert d a tf sf sat rm) := by
  simp [State.convert, h]
@[simp] theorem State.packetArith_canonical (s : State) (op d a b) (h : Memory.wf s.mem) :
    Canonical (s.packetArith op d a b) := by
  simp [State.packetArith, h]
@[simp] theorem State.packetMinMax_canonical (s : State) (isMax d a b) (h : Memory.wf s.mem) :
    Canonical (s.packetMinMax isMax d a b) := by
  simp [State.packetMinMax, h]
@[simp] theorem execNbarInit_canonical (a nb) (s : State) (h : Memory.wf s.mem) : Canonical (execNbarInit a nb s) := by
  refine State.nbar_canonical _ _ h fun i c ms => ?_
  dsimp only
  (repeat' split) <;> simp [h]
@[simp] theorem execNbarExpect_canonical (a nb) (s : State) (h : Memory.wf s.mem) :
    Canonical (execNbarExpect a nb s) := by
  refine State.nbar_canonical _ _ h fun i c ms => ?_
  dsimp only
  (repeat' split) <;> simp [h]
@[simp] theorem execNbarWait_canonical (a nb) (s : State) (h : Memory.wf s.mem) : Canonical (execNbarWait a nb s) := by
  refine State.nbar_canonical _ _ h fun i c ms => ?_
  dsimp only
  (repeat' split) <;> simp [h]
@[simp] theorem State.jump_canonical (s : State) (fs k link) (h : Memory.wf s.mem) : Canonical (s.jump fs k link) :=
  State.memberwise_canonical _ _ _ _ _ h
@[simp] theorem execYield_canonical (s : State) (h : Memory.wf s.mem) : Canonical (execYield s) := by
  refine State.operands_canonical _ _ _ h fun i ms => ?_
  dsimp only
  (repeat' split) <;> simp [h]
@[simp] theorem execHalt_canonical (s : State) (h : Memory.wf s.mem) : Canonical (execHalt s) := by
  refine State.privileged_canonical _ _ _ h fun i ms => ?_
  simp [h]
@[simp] theorem execEret_canonical (s : State) (h : Memory.wf s.mem) : Canonical (execEret s) := by
  refine State.privileged_canonical _ _ _ h fun i ms => ?_
  simp [h]
@[simp] theorem execFenceI_canonical (s : State) (h : Memory.wf s.mem) : Canonical (execFenceI s) := by
  refine State.operands_canonical _ _ _ h fun i ms => ?_
  dsimp only
  (repeat' split) <;> simp [h]
@[simp] theorem execGroupFormation_canonical (s : State) (h : Memory.wf s.mem) : Canonical (execGroupFormation s) := by
  unfold execGroupFormation
  dsimp only
  (repeat' split) <;> simp [h]
@[simp] theorem State.shuffle_canonical (s : State) (d a b lane) (h : Memory.wf s.mem) :
    Canonical (s.shuffle d a b lane) := by
  refine State.operands_canonical _ _ _ h fun i ms => ?_
  simp [h]
@[simp] theorem State.vote_canonical (s : State) (d a f) (h : Memory.wf s.mem) : Canonical (s.vote d a f) := by
  refine State.operands_canonical _ _ _ h fun i ms => ?_
  simp [h]
@[simp] theorem execMmaStart_canonical (s : State) (h : Memory.wf s.mem) : Canonical (execMmaStart s) := by
  unfold execMmaStart
  dsimp only
  (repeat' split) <;> simp [h]
@[simp] theorem execMmaSuspend_canonical (s : State) (h : Memory.wf s.mem) : Canonical (execMmaSuspend s) := by
  unfold execMmaSuspend
  dsimp only
  (repeat' split) <;> simp [h]
@[simp] theorem execMmaComplete_canonical (s : State) (h : Memory.wf s.mem) : Canonical (execMmaComplete s) := by
  unfold execMmaComplete
  (repeat' split) <;> simp [h]
@[simp] theorem execVxm_canonical (d a b) (s : State) (h : Memory.wf s.mem) : Canonical (execVxm d a b s) := by
  refine State.operands_canonical _ _ _ h fun i ms => ?_
  dsimp only
  (repeat' split) <;> simp [h]
@[simp] theorem execGatherClose_canonical (s : State) (h : Memory.wf s.mem) : Canonical (execGatherClose s) := by
  unfold execGatherClose
  (repeat' split) <;> simp [h]
@[simp] theorem execVxmComplete_canonical (s : State) (h : Memory.wf s.mem) : Canonical (execVxmComplete s) := by
  unfold execVxmComplete
  (repeat' split) <;> simp [h]
@[simp] theorem execAccwait_canonical (a t) (s : State) (h : Memory.wf s.mem) : Canonical (execAccwait a t s) := by
  refine State.operands_canonical _ _ _ h fun i ms => ?_
  dsimp only
  (repeat' split) <;> simp [h]
@[simp] theorem execSlotArbitration_canonical (s : State) (h : Memory.wf s.mem) :
    Canonical (execSlotArbitration s) := by
  unfold execSlotArbitration
  (repeat' split) <;> simp [h]
@[simp] theorem execScoreDecay_canonical (s : State) (h : Memory.wf s.mem) : Canonical (execScoreDecay s) := by
  unfold execScoreDecay
  split <;> simp [h]
@[simp] theorem execQueueDeadlock_canonical (s : State) (h : Memory.wf s.mem) : Canonical (execQueueDeadlock s) := by
  unfold execQueueDeadlock
  (repeat' split) <;> simp [h]
@[simp] theorem execFlueBatchApply_canonical (s : State) (h : Memory.wf s.mem) : Canonical (execFlueBatchApply s) := by
  unfold execFlueBatchApply
  (repeat' split) <;> simp [h]
@[simp] theorem execCohortComplete_canonical (s : State) (h : Memory.wf s.mem) : Canonical (execCohortComplete s) := by
  unfold execCohortComplete
  dsimp only
  (repeat' split) <;> simp [h]
@[simp] theorem execCompletionRecord_canonical (s : State) (h : Memory.wf s.mem) :
    Canonical (execCompletionRecord s) := by
  unfold execCompletionRecord
  (repeat' split) <;> simp [h]
@[simp] theorem execCounterFire_canonical (s : State) (h : Memory.wf s.mem) : Canonical (execCounterFire s) := by
  unfold execCounterFire
  (repeat' split) <;> simp [h]
@[simp] theorem execRecv_canonical (d b) (s : State) (h : Memory.wf s.mem) : Canonical (execRecv d b s) := by
  refine State.flueOp_canonical _ _ h fun i c k ms => ?_
  dsimp only
  (repeat' split) <;> simp [h]
@[simp] theorem execFwait_canonical (a b) (s : State) (h : Memory.wf s.mem) : Canonical (execFwait a b s) := by
  refine State.flueOp_canonical _ _ h fun i c k ms => ?_
  dsimp only
  (repeat' split) <;> simp [h]
@[simp] theorem execCopyLastBeat_canonical (s : State) (h : Memory.wf s.mem) : Canonical (execCopyLastBeat s) := by
  unfold execCopyLastBeat
  (repeat' split) <;> simp [h]
@[simp] theorem execMulticastDrain_canonical (s : State) (h : Memory.wf s.mem) : Canonical (execMulticastDrain s) := by
  unfold execMulticastDrain
  dsimp only
  (repeat' split) <;> simp [h]
@[simp] theorem execL2Request_canonical (s : State) (h : Memory.wf s.mem) : Canonical (execL2Request s) := by
  unfold execL2Request
  dsimp only
  (repeat' split) <;> simp [h]
@[simp] theorem execRetryResend_canonical (s : State) (h : Memory.wf s.mem) : Canonical (execRetryResend s) := by
  unfold execRetryResend
  (repeat' split) <;> simp [h]
@[simp] theorem execTableWalk_canonical (s : State) (h : Memory.wf s.mem) : Canonical (execTableWalk s) := by
  unfold execTableWalk
  (repeat' split) <;> simp [h]
@[simp] theorem execRemoteResponseTimeout_canonical (s : State) (h : Memory.wf s.mem) :
    Canonical (execRemoteResponseTimeout s) := by
  unfold execRemoteResponseTimeout
  (repeat' split) <;> simp [h]
@[simp] theorem execHostpt_canonical (s : State) (h : Memory.wf s.mem) : Canonical (execHostpt s) := by
  unfold execHostpt
  dsimp only
  (repeat' split) <;> simp [h]
@[simp] theorem execHostClose_canonical (s : State) (h : Memory.wf s.mem) : Canonical (execHostClose s) := by
  unfold execHostClose
  (repeat' split) <;> simp [h]
@[simp] theorem execHostDoorbell_canonical (s : State) (h : Memory.wf s.mem) : Canonical (execHostDoorbell s) := by
  unfold execHostDoorbell
  split <;> simp [h]
@[simp] theorem execHostRecord_canonical (s : State) (h : Memory.wf s.mem) : Canonical (execHostRecord s) := by
  unfold execHostRecord
  split <;> simp [h]
@[simp] theorem execFrameTriggerEnable_canonical (s : State) (h : Memory.wf s.mem) :
    Canonical (execFrameTriggerEnable s) := by
  unfold execFrameTriggerEnable
  dsimp only
  (repeat' split) <;> simp [h]
@[simp] theorem execFrameTriggerDisable_canonical (s : State) (h : Memory.wf s.mem) :
    Canonical (execFrameTriggerDisable s) := by
  unfold execFrameTriggerDisable
  (repeat' split) <;> simp [h]
@[simp] theorem execFrameTriggerFire_canonical (s : State) (h : Memory.wf s.mem) :
    Canonical (execFrameTriggerFire s) := by
  unfold execFrameTriggerFire
  (repeat' split) <;> simp [h]
@[simp] theorem execHaltLineArrival_canonical (s : State) (h : Memory.wf s.mem) :
    Canonical (execHaltLineArrival s) := by
  unfold execHaltLineArrival
  (repeat' split) <;> simp [h]
@[simp] theorem execScratchUncorrectable_canonical (s : State) (h : Memory.wf s.mem) :
    Canonical (execScratchUncorrectable s) := by
  unfold execScratchUncorrectable
  dsimp only
  (repeat' split) <;> simp [h]
@[simp] theorem execCreateComplete_canonical (s : State) (h : Memory.wf s.mem) : Canonical (execCreateComplete s) := by
  unfold execCreateComplete
  (repeat' split) <;> simp [h]
@[simp] theorem execPreemptDrained_canonical (s : State) (h : Memory.wf s.mem) : Canonical (execPreemptDrained s) := by
  unfold execPreemptDrained
  dsimp only
  (repeat' split) <;> simp [h]
@[simp] theorem execPreemptSaved_canonical (s : State) (h : Memory.wf s.mem) : Canonical (execPreemptSaved s) := by
  unfold execPreemptSaved
  (repeat' split) <;> simp [h]
@[simp] theorem execSwitchin_canonical (s : State) (h : Memory.wf s.mem) : Canonical (execSwitchin s) := by
  unfold execSwitchin
  dsimp only
  (repeat' split) <;> simp [h]
@[simp] theorem execSwitchinComplete_canonical (s : State) (h : Memory.wf s.mem) :
    Canonical (execSwitchinComplete s) := by
  unfold execSwitchinComplete
  dsimp only
  (repeat' split) <;> simp [h]
@[simp] theorem execTlbinv_canonical (s : State) (h : Memory.wf s.mem) : Canonical (execTlbinv s) := by
  unfold execTlbinv
  (repeat' split) <;> simp [h]
@[simp] theorem execPartitionEntryWrite_canonical (s : State) (h : Memory.wf s.mem) :
    Canonical (execPartitionEntryWrite s) := by
  unfold execPartitionEntryWrite
  dsimp only
  (repeat' split) <;> simp [h]
@[simp] theorem execStepi_canonical (s : State) (h : Memory.wf s.mem) : Canonical (execStepi s) := by
  unfold execStepi
  split <;> simp [h]
@[simp] theorem execStepr_canonical (s : State) (h : Memory.wf s.mem) : Canonical (execStepr s) := by
  unfold execStepr
  split <;> simp [h]
@[simp] theorem execStepEnd_canonical (s : State) (h : Memory.wf s.mem) : Canonical (execStepEnd s) := by
  unfold execStepEnd
  (repeat' split) <;> simp [h]
@[simp] theorem execCausalTrialStart_canonical (s : State) (h : Memory.wf s.mem) :
    Canonical (execCausalTrialStart s) := by
  unfold execCausalTrialStart
  dsimp only
  (repeat' split) <;> simp [h]
@[simp] theorem execCausalTrialEnd_canonical (s : State) (h : Memory.wf s.mem) : Canonical (execCausalTrialEnd s) := by
  unfold execCausalTrialEnd
  (repeat' split) <;> simp [h]
@[simp] theorem execStallSample_canonical (s : State) (h : Memory.wf s.mem) : Canonical (execStallSample s) := by
  unfold execStallSample
  (repeat' split) <;> simp [h]
@[simp] theorem execSmpctlWrite_canonical (s : State) (h : Memory.wf s.mem) : Canonical (execSmpctlWrite s) := by
  unfold execSmpctlWrite
  split <;> simp [h]
@[simp] theorem execRdctlWrite_canonical (s : State) (h : Memory.wf s.mem) : Canonical (execRdctlWrite s) := by
  unfold execRdctlWrite
  split <;> simp [h]
@[simp] theorem execRplbaseWrite_canonical (s : State) (h : Memory.wf s.mem) : Canonical (execRplbaseWrite s) := by
  unfold execRplbaseWrite
  split <;> simp [h]
@[simp] theorem execPodJoin_canonical (s : State) (h : Memory.wf s.mem) : Canonical (execPodJoin s) := by
  unfold execPodJoin
  (repeat' split) <;> simp [h]
@[simp] theorem execJoinConfirmation_canonical (s : State) (h : Memory.wf s.mem) :
    Canonical (execJoinConfirmation s) := by
  unfold execJoinConfirmation
  (repeat' split) <;> simp [h]
@[simp] theorem execPodLeave_canonical (s : State) (h : Memory.wf s.mem) : Canonical (execPodLeave s) := by
  unfold execPodLeave
  split <;> simp [h]
@[simp] theorem execPodResume_canonical (s : State) (h : Memory.wf s.mem) : Canonical (execPodResume s) := by
  unfold execPodResume
  (repeat' split) <;> simp [h]
@[simp] theorem execReleaseTimeReached_canonical (s : State) (h : Memory.wf s.mem) :
    Canonical (execReleaseTimeReached s) := by
  unfold execReleaseTimeReached
  (repeat' split) <;> simp [h]
@[simp] theorem execConfirmTimeout_canonical (s : State) (h : Memory.wf s.mem) : Canonical (execConfirmTimeout s) := by
  unfold execConfirmTimeout
  dsimp only
  (repeat' split) <;> simp [h]
@[simp] theorem execChunkLanding_canonical (s : State) (h : Memory.wf s.mem) : Canonical (execChunkLanding s) := by
  unfold execChunkLanding
  (repeat' split) <;> simp [h]
@[simp] theorem execUalinkDataMessage_canonical (s : State) (h : Memory.wf s.mem) :
    Canonical (execUalinkDataMessage s) := by
  unfold execUalinkDataMessage
  dsimp only
  (repeat' split) <;> simp [h]
@[simp] theorem execDataAcknowledge_canonical (s : State) (h : Memory.wf s.mem) :
    Canonical (execDataAcknowledge s) := by
  unfold execDataAcknowledge
  split <;> simp [h]
@[simp] theorem execCollectiveMemberTimeout_canonical (s : State) (h : Memory.wf s.mem) :
    Canonical (execCollectiveMemberTimeout s) := by
  unfold execCollectiveMemberTimeout
  (repeat' split) <;> simp [h]
@[simp] theorem execDigestCompute_canonical (s : State) (h : Memory.wf s.mem) : Canonical (execDigestCompute s) := by
  unfold execDigestCompute
  dsimp only
  (repeat' split) <;> simp [h]
@[simp] theorem execDigestTimeout_canonical (s : State) (h : Memory.wf s.mem) : Canonical (execDigestTimeout s) := by
  unfold execDigestTimeout
  (repeat' split) <;> simp [h]
@[simp] theorem execPtpSync_canonical (s : State) (h : Memory.wf s.mem) : Canonical (execPtpSync s) := by
  unfold execPtpSync
  dsimp only
  (repeat' split) <;> simp [h]
@[simp] theorem execPtpSyncTimeout_canonical (s : State) (h : Memory.wf s.mem) : Canonical (execPtpSyncTimeout s) := by
  unfold execPtpSyncTimeout
  split <;> simp [h]
@[simp] theorem execPpsInput_canonical (s : State) (h : Memory.wf s.mem) : Canonical (execPpsInput s) := by
  simp [execPpsInput, h]
@[simp] theorem execPpsInputLoss_canonical (s : State) (h : Memory.wf s.mem) : Canonical (execPpsInputLoss s) := by
  unfold execPpsInputLoss
  split <;> simp [h]
@[simp] theorem execPpsOutput_canonical (s : State) (h : Memory.wf s.mem) : Canonical (execPpsOutput s) := by
  unfold execPpsOutput
  split <;> simp [h]
@[simp] theorem execFreezeAssert_canonical (s : State) (h : Memory.wf s.mem) : Canonical (execFreezeAssert s) := by
  simp [execFreezeAssert, h]
@[simp] theorem execFreezeRelease_canonical (s : State) (h : Memory.wf s.mem) : Canonical (execFreezeRelease s) := by
  unfold execFreezeRelease
  (repeat' split) <;> simp [h]
@[simp] theorem execExtest_canonical (s : State) (h : Memory.wf s.mem) : Canonical (execExtest s) := by
  simp [execExtest, h]
@[simp] theorem execIdcode_canonical (s : State) (h : Memory.wf s.mem) : Canonical (execIdcode s) := by
  simp [execIdcode, h]
@[simp] theorem execSamplePreload_canonical (s : State) (h : Memory.wf s.mem) : Canonical (execSamplePreload s) := by
  simp [execSamplePreload, h]
@[simp] theorem execBypass_canonical (s : State) (h : Memory.wf s.mem) : Canonical (execBypass s) := by
  unfold execBypass
  (repeat' split) <;> simp [h]
@[simp] theorem execScanout_canonical (s : State) (h : Memory.wf s.mem) : Canonical (execScanout s) := by
  unfold execScanout
  split <;> simp [h]
@[simp] theorem execPowerThrottle_canonical (s : State) (h : Memory.wf s.mem) : Canonical (execPowerThrottle s) := by
  simp [execPowerThrottle, h]
@[simp] theorem execThrottleCauseClears_canonical (s : State) (h : Memory.wf s.mem) :
    Canonical (execThrottleCauseClears s) := by
  simp [execThrottleCauseClears, h]
@[simp] theorem execThermalTrip_canonical (s : State) (h : Memory.wf s.mem) : Canonical (execThermalTrip s) := by
  unfold execThermalTrip
  split <;> simp [h]
@[simp] theorem execBoot_canonical (s : State) (h : Memory.wf s.mem) : Canonical (execBoot s) := by
  unfold execBoot
  split <;> simp [h]
@[simp] theorem execAttgo_canonical (s : State) (h : Memory.wf s.mem) : Canonical (execAttgo s) := by
  unfold execAttgo
  (repeat' split) <;> simp [h]
@[simp] theorem execAttestationComplete_canonical (s : State) (h : Memory.wf s.mem) :
    Canonical (execAttestationComplete s) := by
  unfold execAttestationComplete
  split <;> simp [h]
@[simp] theorem execWindowAccess_canonical (s : State) (h : Memory.wf s.mem) : Canonical (execWindowAccess s) := by
  unfold execWindowAccess
  dsimp only
  (repeat' split) <;> simp [h]

/-! Control transfers -/

@[simp] theorem State.barOp_canonical (s : State) (op d a nb) (h : Memory.wf s.mem) : Canonical (s.barOp op d a nb) :=
  State.barArrive_canonical _ _ _ _ _ h
@[simp] theorem execExit_canonical (s : State) (h : Memory.wf s.mem) : Canonical (execExit s) := by
  refine State.operands_canonical _ _ _ h fun i ms => ?_
  extract_lets tids s1 s2
  have h1 : s1.mem = s.mem := by rw [State.clearRun_mem, foldl_mem _ fun _ _ => State.updThread_mem .., State.countProgress_mem]
  have h2 (t : State) (ht : s2 = .ok t) : t.mem = s.mem := by
    by_cases ha : i.run.addr = true
    · simp only [s2, if_pos ha, Except.ok.injEq] at ht
      rw [← ht, h1]
    · simp only [s2, if_neg ha] at ht
      rw [State.depart_mem ht, h1]
  clear_value s2
  cases s2 with
  | ok t => simpa [h2 t rfl] using h
  | error n => simp [h]
@[simp] theorem execJoin_canonical (a) (s : State) (h : Memory.wf s.mem) : Canonical (execJoin a s) := by
  refine State.operands_canonical _ _ _ h fun i ms => ?_
  extract_lets s1
  have h1 : s1.mem = s.mem := by
    rw [State.clearRun_mem, foldl_mem _ fun _ _ => State.updThread_mem .., State.countProgress_mem]
  split
  next t ht => simpa [State.depart_mem ht, h1] using h
  next => simp [h]
@[simp] theorem execLeave_canonical (s : State) (h : Memory.wf s.mem) : Canonical (execLeave s) := by
  refine State.operands_canonical _ _ _ h fun i ms => ?_
  dsimp only
  split
  next t ht => simpa [State.depart_mem ht] using h
  next => simp [h]
@[simp] theorem execSys_canonical (n) (s : State) (h : Memory.wf s.mem) : Canonical (execSys n s) := by
  refine State.operands_canonical _ _ _ h fun i ms => ?_
  split
  · exact h
  · split
    · simp [h]
    · refine State.eachFetch_canonical _ _ _ h (fun i t r s h => by simpa using h) fun l t ht => ?_
      extract_lets entry
      split <;> simp [ht]
@[simp] theorem execRdsr_canonical (d sr) (s : State) (h : Memory.wf s.mem) : Canonical (execRdsr d sr s) := by
  refine State.operands_canonical _ _ _ h fun i ms => ?_
  dsimp only
  split
  · simp [h]
  · exact State.replayAll_canonical _ _ _ _ _ h fun l t ht => by simpa using ht

/-! The matrix unit -/

@[simp] theorem execMma_canonical (d a b) (s : State) (h : Memory.wf s.mem) : Canonical (execMma d a b s) := by
  refine State.operands_canonical _ _ _ h fun i ms => ?_
  dsimp only
  split
  · exact h
  · split
    · simp [h]
    · split
      · simp [h]
      · split
        · simp [h]
        next ht => simpa [State.bindTile_mem ht] using h
@[simp] theorem execAccz_canonical (a t) (s : State) (h : Memory.wf s.mem) : Canonical (execAccz a t s) := by
  unfold execAccz
  refine State.accAccess_canonical _ _ _ _ h fun i c ms u hu => ?_
  rw [State.retire_mem, foldl_mem _ fun _ _ => by rw [State.updCohort_mem, State.moveQueues_mem]]
  exact hu
@[simp] theorem execAccrd_canonical (d a t col j) (s : State) (h : Memory.wf s.mem) :
    Canonical (execAccrd d a t col j s) := by
  unfold execAccrd
  exact State.accAccess_canonical _ _ _ _ h fun i c ms u hu => by simpa using hu
@[simp] theorem execAccwr_canonical (d a t col j) (s : State) (h : Memory.wf s.mem) :
    Canonical (execAccwr d a t col j s) := by
  unfold execAccwr
  refine State.accAccess_canonical _ _ _ _ h fun i c ms u hu => ?_
  dsimp only
  rw [State.retire_mem, foldl_mem _ fun _ _ => by rw [State.updCohort_mem, State.moveQueues_mem]]
  exact hu

/-! Cohorts and the flue -/

@[simp] theorem execCohortPlacement_canonical (s : State) (h : Memory.wf s.mem) : Canonical (execCohortPlacement s) := by
  unfold execCohortPlacement
  split
  · split
    next ht =>
      obtain ⟨c, -, hc⟩ := Option.bind_eq_some_iff.1 ht
      exact State.placeOn_wf hc h
    next => exact h
  · exact h
@[simp] theorem execEmit_canonical (d a b) (s : State) (h : Memory.wf s.mem) : Canonical (execEmit d a b s) := by
  refine State.flueOp_canonical _ _ h fun i c k ms => State.flueChecked_canonical _ _ _ _ _ h fun vs _ => ?_
  split
  · simp [h]
  · refine State.releaseAll_canonical _ _ h fun t ht => ?_
    simpa using foldl_wf (fun _ _ h => State.addRecord_wf _ _ _ h) vs ht
@[simp] theorem execCapk_canonical (a b) (s : State) (h : Memory.wf s.mem) : Canonical (execCapk a b s) :=
  State.flueOp_canonical _ _ h fun _ _ _ _ => State.flueChecked_canonical _ _ _ _ _ h fun _ _ => by simpa using h
@[simp] theorem execCapd_canonical (a b) (s : State) (h : Memory.wf s.mem) : Canonical (execCapd a b s) :=
  State.flueOp_canonical _ _ h fun _ _ _ _ => State.flueChecked_canonical _ _ _ _ _ h fun _ _ =>
    State.releaseAll_canonical _ _ h fun t ht => by simpa using ht
@[simp] theorem execCapx_canonical (a b) (s : State) (h : Memory.wf s.mem) : Canonical (execCapx a b s) :=
  State.flueOp_canonical _ _ h fun _ _ _ _ => State.flueChecked_canonical _ _ _ _ _ h fun _ _ =>
    State.releaseAll_canonical _ _ h fun t ht => by simpa using ht
@[simp] theorem execFtest_canonical (d a b) (s : State) (h : Memory.wf s.mem) : Canonical (execFtest d a b s) := by
  refine State.flueOp_canonical _ _ h fun i c k ms => ?_
  split
  · simp [h]
  · exact State.replayAll_canonical _ _ _ _ _ h fun l t ht => by simpa using ht
@[simp] theorem execLaunch_canonical (a) (s : State) (h : Memory.wf s.mem) : Canonical (execLaunch a s) := by
  refine State.flueOp_canonical _ _ h fun i c k ms => State.releaseAll_canonical _ _ h fun t ht => ?_
  refine State.eachFetch_canonical _ _ _ ht (fun i t r s h => by simpa using h) fun l u hu => ?_
  exact State.flueChecked_canonical _ _ _ _ _ hu fun vs _ => by simpa using hu
@[simp] theorem execTrig_canonical (a) (s : State) (h : Memory.wf s.mem) : Canonical (execTrig a s) := by
  refine State.flueOp_canonical _ _ h fun i c k ms => State.releaseAll_canonical _ _ h fun t ht => ?_
  refine State.eachFetch_canonical _ _ _ ht (fun i t r s h => ?_) fun l u hu => ?_
  · split
    · exact h
    · exact Got.andThen_wf (by simpa using h) fun _ _ h => h
  · exact State.flueChecked_canonical _ _ _ _ _ hu fun vs _ => by simpa using hu

/-! Textures, rays and sampling -/

@[simp] theorem execTex_canonical (d a) (s : State) (h : Memory.wf s.mem) : Canonical (execTex d a s) :=
  State.texture_canonical _ _ _ _ h fun _ _ _ _ _ _ h => Got.andThen_wf (State.texels_wf _ _ _ _ _ _ h) fun _ _ h => h
@[simp] theorem execTexl_canonical (d a) (s : State) (h : Memory.wf s.mem) : Canonical (execTexl d a s) :=
  State.texture_canonical _ _ _ _ h fun _ _ _ _ _ _ h => Got.andThen_wf (State.texels_wf _ _ _ _ _ _ h) fun _ _ h => h
@[simp] theorem execTexw_canonical (d a b) (s : State) (h : Memory.wf s.mem) : Canonical (execTexw d a b s) := by
  refine State.texture_canonical _ _ _ _ h fun i c t r x s h => ?_
  dsimp only
  split
  · split
    · exact h
    · split
      · exact Got.andThen_wf (State.texels_wf _ _ _ _ _ _ h) fun _ _ h => h
      · exact Got.andThen_wf (State.threadRead_wf _ _ _ _ _ _ h) fun _ _ h =>
          Got.andThen_wf (State.texels_wf _ _ _ _ _ _ h) fun _ _ h => h
  · exact Got.andThen_wf (State.texels_wf _ _ _ _ _ _ h) fun _ _ h => h
@[simp] theorem execBoxt_canonical (d a b) (s : State) (h : Memory.wf s.mem) : Canonical (execBoxt d a b s) := by
  refine State.rayTest_canonical _ _ _ _ _ h fun i c t r v s h => ?_
  dsimp only
  split
  · split <;> exact h
  · split
    · exact h
    · exact Got.andThen_wf (State.threadRead_wf _ _ _ _ _ _ h) fun _ _ h => h
@[simp] theorem execTrit_canonical (d a b) (s : State) (h : Memory.wf s.mem) : Canonical (execTrit d a b s) := by
  refine State.rayTest_canonical _ _ _ _ _ h fun i c t r v s h => ?_
  split
  · exact h
  · exact Got.andThen_wf (State.threadRead_wf _ _ _ _ _ _ h) fun _ _ h => h
@[simp] theorem execXfrm_canonical (d a b) (s : State) (h : Memory.wf s.mem) : Canonical (execXfrm d a b s) := by
  refine State.rayTest_canonical _ _ _ _ _ h fun i c t r v s h => ?_
  dsimp only
  split
  · exact h
  · exact Got.andThen_wf (State.threadRead_wf _ _ _ _ _ _ h) fun _ _ h => h
@[simp] theorem State.qsamp_canonical (s : State) (d a b f) (h : Memory.wf s.mem) : Canonical (s.qsamp d a b f) := by
  unfold State.qsamp
  refine State.operandsQ_canonical _ _ _ h fun i ms => ?_
  split
  · exact h
  · refine State.eachFetch_canonical _ _ _ h (fun i t r s h => ?_) fun l t ht => by simpa using ht
    split
    · exact h
    · split
      · exact h
      · exact Got.andThen_wf (State.seqEntry_wf _ _ _ _ _ h) fun _ _ h => h

/-! The copy engines -/

@[simp] theorem foldl_acceptCopy_mem {α : Type} (l : List α) (i h) (th : α → Thread) (e : α → Nat) (line : α → Bytes)
    (counted : α → Bool) (s : State) :
    (l.foldl (fun s v => s.acceptCopy i h (th v) (e v) (line v) (counted v)) s).mem = s.mem :=
  foldl_mem _ (fun _ _ => State.acceptCopy_mem ..) l s
@[simp] theorem State.copyRequest_canonical (s : State) (fs line off) (h : Memory.wf s.mem) :
    Canonical (s.copyRequest fs line off) := by
  unfold State.copyRequest
  refine State.operandsQ_canonical _ _ _ h fun i ms => ?_
  dsimp only
  (repeat' split) <;> simp [h]
@[simp] theorem execTlw_canonical (a b) (s : State) (h : Memory.wf s.mem) : Canonical (execTlw a b s) := by
  unfold execTlw
  refine State.privileged_canonical _ _ _ h fun i ms => ?_
  split
  · exact h
  next c _ =>
    extract_lets as xs hOf ys s1 poison causes l
    split
    · simp [h]
    · split
      · simp [h]
      · have hxs : xs.2.mem = s.mem := State.xlateAll_mem ..
        have hs1 : s1.mem = xs.2.mem := foldl_snd_mem _ (fun p _ => by split <;> simp) _ _
        have h1 : Memory.wf s1.mem := by rw [hs1, hxs]; exact h
        clear_value s1
        (repeat' split) <;> simp [h1, State.tlwPerform_canonical]
@[simp] theorem execCopyTakeUp_canonical (s : State) (h : Memory.wf s.mem) : Canonical (execCopyTakeUp s) := by
  unfold execCopyTakeUp
  split
  · split
    · exact h
    · split
      · exact h
      · split
        · exact h
        · split
          · simp [h]
          · rw [canonical_next, copyGot_mem]
            · simpa using h
            · intro p t
              extract_lets ring failed rootGone q'
              split <;> simp
  · exact h
@[simp] theorem execMulticastParked_canonical (s : State) (h : Memory.wf s.mem) : Canonical (execMulticastParked s) := by
  unfold execMulticastParked
  split
  · split
    · exact h
    · split
      · simp [h]
      next ht => simpa [State.copyArrive_mem ht] using h
  · exact h

/-! Stops and soft errors -/

@[simp] theorem execStopComplete_canonical (s : State) (h : Memory.wf s.mem) : Canonical (execStopComplete s) := by
  unfold execStopComplete
  split
  next ctx _ =>
    split
    · exact h
    next c _ =>
      split
      · exact h
      · extract_lets w s0 m s1
        have hw : Memory.wf w.2.mem :=
          Got.andThen_wf (State.writeStop_wf _ _ _ (by simpa using h)) fun _ _ h =>
            Got.andThen_wf (State.rootStop_wf _ _ h) fun _ _ h => by simpa using h
        have hs1 : s1.mem = w.2.mem := by simp [s1, s0, apply_ite State.mem]
        clear_value s1
        split <;> simp [hs1, hw]
  · exact h
theorem State.regError_canonical (s : State) (core k unit corrected) {spoil : W64 → State → State} (h : Memory.wf s.mem)
    (hs : ∀ v t, (spoil v t).mem = t.mem) :
    Canonical (if corrected = true then .next (s.countErr core corrected)
      else .next ((s.countErr core corrected).regError k unit spoil)) := by
  split <;> simp [State.regError, h, hs]
@[simp] theorem execSoftError_canonical (s : State) (h : Memory.wf s.mem) : Canonical (execSoftError s) := by
  unfold execSoftError
  split
  next site corrected _ =>
    cases site with
    | general => exact State.regError_canonical _ _ _ _ _ h fun _ _ => State.updThread_mem ..
    | spectral => exact State.regError_canonical _ _ _ _ _ h fun _ _ => State.updThread_mem ..
    | tile => exact State.regError_canonical _ _ _ _ _ h fun _ _ => State.updCohort_mem ..
    | queue => exact State.regError_canonical _ _ _ _ _ h fun _ _ => State.updQueues_mem ..
    | scratch => simp [h]
    | l1 =>
      dsimp only
      (repeat' split) <;> simp [h]
    | sector =>
      dsimp only
      split <;> simp [h]
    | tlb => simp [h]
    | table => simp [h]
  next => exact h

/-! The commands of a context -/

theorem State.command_wf (s : State) (ctx states) {go : Context → State} (h : Memory.wf s.mem)
    (hgo : ∀ c, Memory.wf (go c).mem) : Memory.wf (s.command ctx states go).mem := by
  unfold State.command
  (repeat' split) <;> simp [h, hgo]
@[simp] theorem execCreate_canonical (s : State) (h : Memory.wf s.mem) : Canonical (execCreate s) := by
  unfold execCreate
  split
  next ctx _ =>
    extract_lets pa done
    have hdone (t : State) (code : Nat) (ht : Memory.wf t.mem) : Memory.wf (done t code).mem := by simpa [done] using ht
    have hcheck := State.checkCreate_mem s ctx (s.readPhys pa 256)
    clear_value done
    split
    · simp [h]
    · split
      · trivial
      · split
        · simp [h]
        · split
          · exact hdone _ _ h
          · split
            · simp [h]
            next hr => exact hdone _ _ (by rw [hr] at hcheck; rw [hcheck]; exact h)
            next hr => exact hdone _ _ (by rw [hr] at hcheck; rw [State.install_mem, hcheck]; exact h)
  · exact h
@[simp] theorem execResume_canonical (s : State) (h : Memory.wf s.mem) : Canonical (execResume s) := by
  unfold execResume
  split
  · split
    · simp [h]
    next c _ =>
      have hw := State.writeVirt_wf s c c.desc.stopbase (List.replicate 256 0) h
      generalize s.writeVirt c c.desc.stopbase (List.replicate 256 0) = w at hw
      dsimp only
      (repeat' split) <;> simp [h, hw]
  · exact h
@[simp] theorem execPreempt_canonical (s : State) (h : Memory.wf s.mem) : Canonical (execPreempt s) := by
  unfold execPreempt
  split
  · exact State.command_wf _ _ _ h fun c => by simpa using h
  · exact h
@[simp] theorem execSwitchout_canonical (s : State) (h : Memory.wf s.mem) : Canonical (execSwitchout s) := by
  unfold execSwitchout
  split
  · exact State.command_wf _ _ _ h fun c => by dsimp only; split <;> simpa using h
  · exact h
@[simp] theorem execSwitchoutComplete_canonical (s : State) (h : Memory.wf s.mem) : Canonical (execSwitchoutComplete s) := by
  unfold execSwitchoutComplete
  split
  · split
    · exact h
    next c _ =>
      split
      · exact h
      · split
        · simp [h]
        · extract_lets s1 r s2 m s3
          have hs1 : s1.mem = s.mem := foldl_mem _ (fun _ _ => State.dropProbes_mem ..) _ _
          have hr : Memory.wf r.2.mem := State.saveAll_wf _ _ (by rw [hs1]; exact h)
          clear_value r
          split <;> simp [s2, s3, hr]
  · exact h
@[simp] theorem execDestroy_canonical (s : State) (h : Memory.wf s.mem) : Canonical (execDestroy s) := by
  unfold execDestroy
  split
  · exact State.command_wf _ _ _ h fun c => by simpa using h
  · exact h
@[simp] theorem execCtxHalt_canonical (s : State) (h : Memory.wf s.mem) : Canonical (execCtxHalt s) := by
  unfold execCtxHalt
  split
  · exact State.command_wf _ _ _ h fun c => by simpa using h
  · exact h
@[simp] theorem execTlbinvComplete_canonical (s : State) (h : Memory.wf s.mem) : Canonical (execTlbinvComplete s) := by
  unfold execTlbinvComplete
  split
  · rw [canonical_next, State.setMgmt_mem, foldl_mem _ fun _ _ => State.dropRo_mem ..]
    exact h
  · exact h

/-! Control messages of a pod -/

theorem State.takeCtl_wf (s : State) (i m) {go : Context → State → State} (h : Memory.wf s.mem)
    (hgo : ∀ c t, Memory.wf t.mem → Memory.wf (go c t).mem) : Memory.wf (s.takeCtl i m go).mem := by
  unfold State.takeCtl
  dsimp only
  (repeat' split) <;> simp [h, hgo]
@[simp] theorem execHaltMessage_canonical (s : State) (h : Memory.wf s.mem) : Canonical (execHaltMessage s) := by
  unfold execHaltMessage
  split
  · refine State.takeCtl_wf _ _ _ h fun c t ht => ?_
    (repeat' split) <;> simp [ht]
  · exact h
@[simp] theorem execCauseMessage_canonical (s : State) (h : Memory.wf s.mem) : Canonical (execCauseMessage s) := by
  unfold execCauseMessage
  split
  · refine State.takeCtl_wf _ _ _ h fun c t ht => ?_
    dsimp only
    (repeat' split) <;> simp [ht]
  · exact h
@[simp] theorem execPrepMessage_canonical (s : State) (h : Memory.wf s.mem) : Canonical (execPrepMessage s) := by
  unfold execPrepMessage
  split
  · extract_lets early
    split
    · simp [h]
    · refine State.takeCtl_wf _ _ _ h fun c t ht => ?_
      (repeat' split) <;> simp [ht]
  · exact h
@[simp] theorem execConfirmMessage_canonical (s : State) (h : Memory.wf s.mem) : Canonical (execConfirmMessage s) := by
  unfold execConfirmMessage
  split
  · refine State.takeCtl_wf _ _ _ h fun c t ht => ?_
    split <;> simp [ht]
  · exact h
@[simp] theorem execResentMessage_canonical (s : State) (h : Memory.wf s.mem) : Canonical (execResentMessage s) := by
  unfold execResentMessage
  split
  · refine State.takeCtl_wf _ _ _ h fun c t ht => ?_
    split <;> simp [ht]
  · exact h
@[simp] theorem execReleaseMessage_canonical (s : State) (h : Memory.wf s.mem) : Canonical (execReleaseMessage s) := by
  unfold execReleaseMessage
  split
  · refine State.takeCtl_wf _ _ _ h fun c t ht => ?_
    dsimp only
    (repeat' split) <;> simp [ht]
  · exact h
@[simp] theorem execFenceMessage_canonical (s : State) (h : Memory.wf s.mem) : Canonical (execFenceMessage s) := by
  unfold execFenceMessage
  split
  · refine State.takeCtl_wf _ _ _ h fun c t ht => ?_
    (repeat' split) <;> simp [ht]
  · exact h
@[simp] theorem execFlueMessage_canonical (s : State) (h : Memory.wf s.mem) : Canonical (execFlueMessage s) := by
  unfold execFlueMessage
  split
  · refine State.takeCtl_wf _ _ _ h fun c t ht => ?_
    dsimp only
    (repeat' split) <;> simp [ht]
  · exact h
@[simp] theorem execDigestMessage_canonical (s : State) (h : Memory.wf s.mem) : Canonical (execDigestMessage s) := by
  unfold execDigestMessage
  split
  · refine State.takeCtl_wf _ _ _ h fun c t ht => ?_
    split <;> simp [ht]
  · exact h
@[simp] theorem execLinkDown_canonical (s : State) (h : Memory.wf s.mem) : Canonical (execLinkDown s) := by
  unfold execLinkDown
  split
  · exact foldl_wf (fun t c ht => foldl_wf (fun _ _ h => State.failMember_wf _ _ _ h) _ ht) _ h
  · exact h
@[simp] theorem execUalinkPortUp_canonical (s : State) (h : Memory.wf s.mem) : Canonical (execUalinkPortUp s) := by
  unfold execUalinkPortUp
  split
  · split
    · exact h
    · rw [canonical_next, foldl_mem _ fun _ _ => State.resend_mem ..]
      exact h
  · exact h

/-! Registers -/

@[simp] theorem State.writeCtxcmd_canonical (s : State) (v) (h : Memory.wf s.mem) : Canonical (s.writeCtxcmd v) := by
  unfold State.writeCtxcmd
  dsimp only
  split <;> simp [State.asEvent, h]
@[simp] theorem State.writePodcmd_canonical (s : State) (v) (h : Memory.wf s.mem) : Canonical (s.writePodcmd v) := by
  unfold State.writePodcmd
  (repeat' split) <;> simp [h]
@[simp] theorem State.writeDbgcmd_canonical (s : State) (v) (h : Memory.wf s.mem) : Canonical (s.writeDbgcmd v) := by
  unfold State.writeDbgcmd
  split <;> simp [State.asEvent, h]
@[simp] theorem State.writeReg_canonical (s : State) (r v) (h : Memory.wf s.mem) : Canonical (s.writeReg r v) := by
  unfold State.writeReg
  (repeat' split) <;> simp [State.asEvent, h]
@[simp] theorem execRegisterWrite_canonical (s : State) (h : Memory.wf s.mem) : Canonical (execRegisterWrite s) := by
  unfold execRegisterWrite
  (repeat' split) <;> simp [h]

/-! The step -/

/-- Every instruction ends in canonical memory: by the law of its shape, or by its own. -/
theorem exec_canonical (i : Instr) (s : State) (h : Memory.wf s.mem) : Canonical (exec i s) := by
  cases i
  case add | sub | mullo | mulhiI32 | mulhiN32 | minI32 | minN32 | maxI32 | maxN32 | and | or | xor | shl |
    shr | sra | rol | ror | andn | seq | sne | sltI32 | sltN32 | sleI32 | sleN32 =>
    simp [exec_add, execAdd, exec_sub, execSub, exec_mullo, execMullo, exec_mulhiI32, execMulhiI32,
      exec_mulhiN32, execMulhiN32, exec_minI32, execMinI32, exec_minN32, execMinN32, exec_maxI32, execMaxI32,
      exec_maxN32, execMaxN32, exec_and, execAnd, exec_or, execOr, exec_xor, execXor, exec_shl, execShl,
      exec_shr, execShr, exec_sra, execSra, exec_rol, execRol, exec_ror, execRor, exec_andn, execAndn,
      exec_seq, execSeq, exec_sne, execSne, exec_sltI32, execSltI32, exec_sltN32, execSltN32, exec_sleI32,
      execSleI32, exec_sleN32, execSleN32, h]
  case abs | clz | ctz | popc | brev | bswap | addi | andi | ori | xori | sltiI32 | sltiN32 | shli | shri |
    srai | rori | bfx =>
    simp [exec_abs, execAbs, exec_clz, execClz, exec_ctz, execCtz, exec_popc, execPopc, exec_brev, execBrev,
      exec_bswap, execBswap, exec_addi, execAddi, exec_andi, execAndi, exec_ori, execOri, exec_xori, execXori,
      exec_sltiI32, execSltiI32, exec_sltiN32, execSltiN32, exec_shli, execShli, exec_shri, execShri,
      exec_srai, execSrai, exec_rori, execRori, exec_bfx, execBfx, h]
  case mad | sel =>
    simp [exec_mad, execMad, exec_sel, execSel, h]
  case addI64 | subI64 | mulloI64 | minI64 | minN64 | maxI64 | maxN64 =>
    simp [exec_addI64, execAddI64, exec_subI64, execSubI64, exec_mulloI64, execMulloI64, exec_minI64,
      execMinI64, exec_minN64, execMinN64, exec_maxI64, execMaxI64, exec_maxN64, execMaxN64, h]
  case mulwI32 | mulwN32 | bfi | addiI64 | lui | loi | nop =>
    simp [exec_mulwI32, execMulwI32, exec_mulwN32, execMulwN32, exec_bfi, execBfi, exec_addiI64, execAddiI64,
      exec_lui, execLui, exec_loi, execLoi, exec_nop, execNop, h]
  case shlI64 | shrI64 | sraI64 | addx =>
    simp [exec_shlI64, execShlI64, exec_shrI64, execShrI64, exec_sraI64, execSraI64, exec_addx, execAddx, h]
  case seqI64 | sltI64 | sltN64 =>
    simp [exec_seqI64, execSeqI64, exec_sltI64, execSltI64, exec_sltN64, execSltN64, h]
  case fadd | fsub | fmul =>
    simp [exec_fadd, execFadd, exec_fsub, execFsub, exec_fmul, execFmul, h]
  case ffma | bdot2 | idp4 | idp8 | cvtiItof | cvtiFtoi | wfma | watt | wmov | whsum | wdot | wsplat | wext |
    wins | wpack | wmuellerG | wmuellerW =>
    simp [exec_ffma, execFfma, exec_bdot2, execBdot2, exec_idp4, execIdp4, exec_idp8, execIdp8, exec_cvtiItof,
      execCvtiItof, exec_cvtiFtoi, execCvtiFtoi, exec_wfma, execWfma, exec_watt, execWatt, exec_wmov,
      execWmov, exec_whsum, execWhsum, exec_wdot, execWdot, exec_wsplat, execWsplat, exec_wext, execWext,
      exec_wins, execWins, exec_wpack, execWpack, exec_wmuellerG, execWmuellerG, exec_wmuellerW,
      execWmuellerW, h]
  case fmin | fmax | fcps | fseq | fslt | fsle | fsun =>
    simp [exec_fmin, execFmin, exec_fmax, execFmax, exec_fcps, execFcps, exec_fseq, execFseq, exec_fslt,
      execFslt, exec_fsle, execFsle, exec_fsun, execFsun, h]
  case fneg | fabs | frcp | frsq | fsqrt | fex2 | flg2 | fsin | fcos =>
    simp [exec_fneg, execFneg, exec_fabs, execFabs, exec_frcp, execFrcp, exec_frsq, execFrsq, exec_fsqrt,
      execFsqrt, exec_fex2, execFex2, exec_flg2, execFlg2, exec_fsin, execFsin, exec_fcos, execFcos, h]
  case haddBf16 | hsubBf16 | hmulBf16 | haddF16 | hsubF16 | hmulF16 =>
    simp [exec_haddBf16, execHaddBf16, exec_hsubBf16, execHsubBf16, exec_hmulBf16, execHmulBf16, exec_haddF16,
      execHaddF16, exec_hsubF16, execHsubF16, exec_hmulF16, execHmulF16, h]
  case hfmaBf16 | hfmaF16 =>
    simp [exec_hfmaBf16, execHfmaBf16, exec_hfmaF16, execHfmaF16, h]
  case hminBf16 | hmaxBf16 | hminF16 | hmaxF16 =>
    simp [exec_hminBf16, execHminBf16, exec_hmaxBf16, execHmaxBf16, exec_hminF16, execHminF16, exec_hmaxF16,
      execHmaxF16, h]
  case pk2Bf16 | pk2F16 =>
    simp [exec_pk2Bf16, execPk2Bf16, exec_pk2F16, execPk2F16, h]
  case cvt | cvts =>
    simp [exec_cvt, execCvt, exec_cvts, execCvts, h]
  case br | brz | call | wrsr | wbase | wbadd =>
    simp [exec_br, execBr, exec_brz, execBrz, exec_call, execCall, exec_wrsr, execWrsr, exec_wbase, execWbase,
      exec_wbadd, execWbadd, h]
  case jmp | callr | ret =>
    simp [exec_jmp, execJmp, exec_callr, execCallr, exec_ret, execRet, h]
  case exit => exact execExit_canonical _ h
  case yield => exact execYield_canonical _ h
  case trap | brk =>
    simp [exec_trap, execTrap, exec_brk, execBrk, h]
  case sys => exact execSys_canonical _ _ h
  case eret => exact execEret_canonical _ h
  case fenceI => exact execFenceI_canonical _ h
  case halt => exact execHalt_canonical _ h
  case rdsr => exact execRdsr_canonical _ _ _ h
  case wadd | wsub | wmul =>
    simp [exec_wadd, execWadd, exec_wsub, execWsub, exec_wmul, execWmul, h]
  case wmin | wmax =>
    simp [exec_wmin, execWmin, exec_wmax, execWmax, h]
  case qsampF32 | qsampN32 =>
    simp [exec_qsampF32, execQsampF32, exec_qsampN32, execQsampN32, h]
  case join => exact execJoin_canonical _ _ h
  case leave => exact execLeave_canonical _ h
  case shflIdx | shflUp | shflDown | shflXor =>
    simp [exec_shflIdx, execShflIdx, exec_shflUp, execShflUp, exec_shflDown, execShflDown, exec_shflXor,
      execShflXor, h]
  case voteAny | voteAll | voteBallot =>
    simp [exec_voteAny, execVoteAny, exec_voteAll, execVoteAll, exec_voteBallot, execVoteBallot, h]
  case barSync =>
    simp [exec_barSync, execBarSync, h]
  case barAddI32 | barAddF32 | barMinI32 | barMinN32 | barMinF32 | barMaxI32 | barMaxN32 | barMaxF32 | barAnd
    | barOr | barXor | barScanI32 | barXscanI32 | barScanF32 | barXscanF32 =>
    simp [exec_barAddI32, execBarAddI32, exec_barAddF32, execBarAddF32, exec_barMinI32, execBarMinI32,
      exec_barMinN32, execBarMinN32, exec_barMinF32, execBarMinF32, exec_barMaxI32, execBarMaxI32,
      exec_barMaxN32, execBarMaxN32, exec_barMaxF32, execBarMaxF32, exec_barAnd, execBarAnd, exec_barOr,
      execBarOr, exec_barXor, execBarXor, exec_barScanI32, execBarScanI32, exec_barXscanI32, execBarXscanI32,
      exec_barScanF32, execBarScanF32, exec_barXscanF32, execBarXscanF32, h]
  case mma => exact execMma_canonical _ _ _ _ h
  case vxm => exact execVxm_canonical _ _ _ _ h
  case accrd => exact execAccrd_canonical _ _ _ _ _ _ h
  case accwr => exact execAccwr_canonical _ _ _ _ _ _ h
  case accz => exact execAccz_canonical _ _ _ h
  case accwait => exact execAccwait_canonical _ _ _ h
  case ld | ldp | ldro | ldw | ldwp | ldq =>
    simp [exec_ld, execLd, exec_ldp, execLdp, exec_ldro, execLdro, exec_ldw, execLdw, exec_ldwp, execLdwp,
      exec_ldq, execLdq, h]
  case st | stp | stw | stwp | stq =>
    simp [exec_st, execSt, exec_stp, execStp, exec_stw, execStw, exec_stwp, execStwp, exec_stq, execStq, h]
  case lds | ldws | ldqs =>
    simp [exec_lds, execLds, exec_ldws, execLdws, exec_ldqs, execLdqs, h]
  case sts | stws | stqs =>
    simp [exec_sts, execSts, exec_stws, execStws, exec_stqs, execStqs, h]
  case atomAdd | atomMinI32 | atomMinN32 | atomMaxI32 | atomMaxN32 | atomAnd | atomOr | atomXor | atomXchg |
    atomCas | atomInc | atomFadd | atomBf16x2 | facc | atomLd | atomSt =>
    simp [exec_atomAdd, execAtomAdd, exec_atomMinI32, execAtomMinI32, exec_atomMinN32, execAtomMinN32,
      exec_atomMaxI32, execAtomMaxI32, exec_atomMaxN32, execAtomMaxN32, exec_atomAnd, execAtomAnd,
      exec_atomOr, execAtomOr, exec_atomXor, execAtomXor, exec_atomXchg, execAtomXchg, exec_atomCas,
      execAtomCas, exec_atomInc, execAtomInc, exec_atomFadd, execAtomFadd, exec_atomBf16x2, execAtomBf16x2,
      exec_facc, execFacc, exec_atomLd, execAtomLd, exec_atomSt, execAtomSt, h]
  case atomsAdd | atomsMinI32 | atomsMinN32 | atomsMaxI32 | atomsMaxN32 | atomsAnd | atomsOr | atomsXor |
    atomsXchg | atomsCas | atomsInc | atomsFadd | atomsBf16x2 | atomsLd | atomsSt =>
    simp [exec_atomsAdd, execAtomsAdd, exec_atomsMinI32, execAtomsMinI32, exec_atomsMinN32, execAtomsMinN32,
      exec_atomsMaxI32, execAtomsMaxI32, exec_atomsMaxN32, execAtomsMaxN32, exec_atomsAnd, execAtomsAnd,
      exec_atomsOr, execAtomsOr, exec_atomsXor, execAtomsXor, exec_atomsXchg, execAtomsXchg, exec_atomsCas,
      execAtomsCas, exec_atomsInc, execAtomsInc, exec_atomsFadd, execAtomsFadd, exec_atomsBf16x2,
      execAtomsBf16x2, exec_atomsLd, execAtomsLd, exec_atomsSt, execAtomsSt, h]
  case fence => exact execFence_canonical _ _ h
  case fenceX => exact execFenceX_canonical _ _ _ h
  case tex => exact execTex_canonical _ _ _ h
  case texw => exact execTexw_canonical _ _ _ _ h
  case texl => exact execTexl_canonical _ _ _ h
  case boxt => exact execBoxt_canonical _ _ _ _ h
  case trit => exact execTrit_canonical _ _ _ _ h
  case xfrm => exact execXfrm_canonical _ _ _ _ h
  case cpyreq | cpyreqw =>
    simp [exec_cpyreq, execCpyreq, exec_cpyreqw, execCpyreqw, h]
  case nbarInit => exact execNbarInit_canonical _ _ _ h
  case nbarArrive => exact execNbarArrive_canonical _ _ h
  case nbarExpect => exact execNbarExpect_canonical _ _ _ h
  case nbarWait => exact execNbarWait_canonical _ _ _ h
  case nbarTest => exact execNbarTest_canonical _ _ _ _ h
  case emit => exact execEmit_canonical _ _ _ _ h
  case recv => exact execRecv_canonical _ _ _ h
  case capk => exact execCapk_canonical _ _ _ h
  case capd => exact execCapd_canonical _ _ _ h
  case capx => exact execCapx_canonical _ _ _ h
  case fwait => exact execFwait_canonical _ _ _ h
  case ftest => exact execFtest_canonical _ _ _ _ h
  case trig => exact execTrig_canonical _ _ h
  case launch => exact execLaunch_canonical _ _ h
  case tlw => exact execTlw_canonical _ _ _ h
  case slotArbitration => exact execSlotArbitration_canonical _ h
  case groupFormation => exact execGroupFormation_canonical _ h
  case loadReturn | qsampResult | packetResult | textureResult | rayTestResult =>
    simp [exec_loadReturn, execLoadReturn, exec_qsampResult, execQsampResult, exec_packetResult,
      execPacketResult, exec_textureResult, execTextureResult, exec_rayTestResult, execRayTestResult, h]
  case queueDeadlock => exact execQueueDeadlock_canonical _ h
  case gatherClose => exact execGatherClose_canonical _ h
  case mmaStart => exact execMmaStart_canonical _ h
  case mmaSuspend => exact execMmaSuspend_canonical _ h
  case mmaComplete => exact execMmaComplete_canonical _ h
  case vxmComplete => exact execVxmComplete_canonical _ h
  case scoreDecay => exact execScoreDecay_canonical _ h
  case l2Request => exact execL2Request_canonical _ h
  case retryResend => exact execRetryResend_canonical _ h
  case tableWalk => exact execTableWalk_canonical _ h
  case cohortPlacement => exact execCohortPlacement_canonical _ h
  case cohortComplete => exact execCohortComplete_canonical _ h
  case completionRecord => exact execCompletionRecord_canonical _ h
  case copyTakeUp => exact execCopyTakeUp_canonical _ h
  case copyLastBeat => exact execCopyLastBeat_canonical _ h
  case multicastParked => exact execMulticastParked_canonical _ h
  case multicastDrain => exact execMulticastDrain_canonical _ h
  case flueBatchApply => exact execFlueBatchApply_canonical _ h
  case counterFire => exact execCounterFire_canonical _ h
  case frameTriggerFire => exact execFrameTriggerFire_canonical _ h
  case haltLineArrival => exact execHaltLineArrival_canonical _ h
  case stopComplete => exact execStopComplete_canonical _ h
  case scratchUncorrectable => exact execScratchUncorrectable_canonical _ h
  case softError => exact execSoftError_canonical _ h
  case create => exact execCreate_canonical _ h
  case resume => exact execResume_canonical _ h
  case preempt => exact execPreempt_canonical _ h
  case preemptDrained => exact execPreemptDrained_canonical _ h
  case preemptSaved => exact execPreemptSaved_canonical _ h
  case switchout => exact execSwitchout_canonical _ h
  case switchoutComplete => exact execSwitchoutComplete_canonical _ h
  case switchin => exact execSwitchin_canonical _ h
  case destroy => exact execDestroy_canonical _ h
  case ctxHalt => exact execCtxHalt_canonical _ h
  case tlbinv => exact execTlbinv_canonical _ h
  case tlbinvComplete => exact execTlbinvComplete_canonical _ h
  case hostpt => exact execHostpt_canonical _ h
  case hostClose => exact execHostClose_canonical _ h
  case hostDoorbell => exact execHostDoorbell_canonical _ h
  case hostRecord => exact execHostRecord_canonical _ h
  case partitionEntryWrite => exact execPartitionEntryWrite_canonical _ h
  case frameTriggerEnable => exact execFrameTriggerEnable_canonical _ h
  case frameTriggerDisable => exact execFrameTriggerDisable_canonical _ h
  case stepi => exact execStepi_canonical _ h
  case stepr => exact execStepr_canonical _ h
  case stepEnd => exact execStepEnd_canonical _ h
  case causalTrialStart => exact execCausalTrialStart_canonical _ h
  case causalTrialEnd => exact execCausalTrialEnd_canonical _ h
  case smpctlWrite => exact execSmpctlWrite_canonical _ h
  case stallSample => exact execStallSample_canonical _ h
  case rdctlWrite => exact execRdctlWrite_canonical _ h
  case rplbaseWrite => exact execRplbaseWrite_canonical _ h
  case attgo => exact execAttgo_canonical _ h
  case attestationComplete => exact execAttestationComplete_canonical _ h
  case podJoin => exact execPodJoin_canonical _ h
  case podLeave => exact execPodLeave_canonical _ h
  case podResume => exact execPodResume_canonical _ h
  case haltMessage => exact execHaltMessage_canonical _ h
  case causeMessage => exact execCauseMessage_canonical _ h
  case prepMessage => exact execPrepMessage_canonical _ h
  case confirmMessage => exact execConfirmMessage_canonical _ h
  case resentMessage => exact execResentMessage_canonical _ h
  case releaseMessage => exact execReleaseMessage_canonical _ h
  case releaseTimeReached => exact execReleaseTimeReached_canonical _ h
  case flueMessage => exact execFlueMessage_canonical _ h
  case digestMessage => exact execDigestMessage_canonical _ h
  case fenceMessage => exact execFenceMessage_canonical _ h
  case confirmTimeout => exact execConfirmTimeout_canonical _ h
  case digestCompute => exact execDigestCompute_canonical _ h
  case digestTimeout => exact execDigestTimeout_canonical _ h
  case ualinkDataMessage => exact execUalinkDataMessage_canonical _ h
  case dataAcknowledge => exact execDataAcknowledge_canonical _ h
  case remoteResponseTimeout => exact execRemoteResponseTimeout_canonical _ h
  case chunkLanding => exact execChunkLanding_canonical _ h
  case collectiveMemberTimeout => exact execCollectiveMemberTimeout_canonical _ h
  case linkDown => exact execLinkDown_canonical _ h
  case ptpSync => exact execPtpSync_canonical _ h
  case ptpSyncTimeout => exact execPtpSyncTimeout_canonical _ h
  case ppsInput => exact execPpsInput_canonical _ h
  case ppsOutput => exact execPpsOutput_canonical _ h
  case freezeAssert => exact execFreezeAssert_canonical _ h
  case freezeRelease => exact execFreezeRelease_canonical _ h
  case extest => exact execExtest_canonical _ h
  case idcode => exact execIdcode_canonical _ h
  case samplePreload => exact execSamplePreload_canonical _ h
  case bypass => exact execBypass_canonical _ h
  case scanout => exact execScanout_canonical _ h
  case powerThrottle => exact execPowerThrottle_canonical _ h
  case thermalTrip => exact execThermalTrip_canonical _ h
  case boot => exact execBoot_canonical _ h
  case windowAccess => exact execWindowAccess_canonical _ h
  case registerWrite => exact execRegisterWrite_canonical _ h
  case createComplete => exact execCreateComplete_canonical _ h
  case switchinComplete => exact execSwitchinComplete_canonical _ h
  case throttleCauseClears => exact execThrottleCauseClears_canonical _ h
  case ualinkPortUp => exact execUalinkPortUp_canonical _ h
  case joinConfirmation => exact execJoinConfirmation_canonical _ h
  case ppsInputLoss => exact execPpsInputLoss_canonical _ h

@[simp] theorem State.issue_canonical (s : State) (h : Memory.wf s.mem) : Canonical s.issue := by
  unfold State.issue
  split
  · exact h
  · refine State.fetch_canonical _ _ h fun w t ht => ?_
    split
    · exact exec_canonical _ _ (by simpa using ht)
    · simp [ht]
theorem State.perform_canonical (s : State) (c : Option Choice) (h : Memory.wf s.mem) : Canonical (s.perform c) := by
  unfold State.perform
  split
  · exact h
  · exact State.issue_canonical _ (by simpa using h)
  · exact exec_canonical _ _ (by simpa using h)
  next k =>
    have hin := State.forInput_mem s k
    split
    next hq => exact exec_canonical _ _ (by rw [hq] at hin; rw [hin]; exact h)
    next hq =>
      rw [hq] at hin
      rw [canonical_next, hin]
      exact h
theorem ticked_canonical {o : Out} (h : Canonical o) : Canonical (ticked o) := by
  cases o with
  | next s => simpa [ticked] using h
  | fault => trivial
  | refused => trivial

/-- A step keeps the canonical form of memory (log entry 3), whatever it ends in. -/
theorem step_canonical (s : State) (h : Memory.wf s.mem) : Canonical (step s) :=
  ticked_canonical (State.perform_canonical _ _ (State.choose_wf s h))

end Sys2Proof.Machine

namespace Sys2Proof.Claims
open Sys2Proof.Machine

/-- Settles O21: every function of a step that writes memory keeps its canonical form, so the state a step gives has it. -/
theorem memoryCanonical : Obligations.MemoryCanonical := by
  unfold Obligations.MemoryCanonical
  intro s t hs ht
  have h := step_canonical s hs
  rw [ht] at h
  exact h

end Sys2Proof.Claims
end

section
/-! The packet instructions (R104 to R112): those of one clock write their result when they complete, WATT and WMUELLER hand
it to the packet unit. -/

namespace Sys2Proof.Claims.Packet
open Sys2Proof.Machine

/-! Effects on a member, in the words of the statements -/

/-- A member takes FP_EXCEPTION just where one of the raised flags is enabled (R41). -/
theorem fpTrap_eq_none_iff (m : Thread) (f : Fl) : m.fpTrap f = none ↔ f &&& enabled m = 0 := by
  unfold Thread.fpTrap
  split <;> simpa

/-- An effect that takes place at once and gives a member the flags and the registers `q`. -/
structure AtOnce (m : Thread) (e : Eff) (q : Fl × (Thread → Thread)) : Prop where
  late : e.late = none
  next : e.next = none
  own : e.th = id
  flags : e.fl = q.1
  new : m.apply e = orFlags q.1 (q.2 m)

theorem atOnce_wr (m : Thread) (d : Slot) (v : W128) (fl : Fl) : AtOnce m (.wr d v fl) (packetTo d fl v) :=
  ⟨rfl, rfl, rfl, rfl, rfl⟩
theorem mapSamples_eq_fourSamples (g : Nat → Fl × Nat) : mapSamples g = fourSamples g := by
  simp [mapSamples, fourSamples, List.range_succ, packetOf, packet, w32]
theorem atOnce_mapSamples (m : Thread) (d : Slot) (g : Nat → Fl × Nat) :
    AtOnce m (.wr d (mapSamples g).2 (mapSamples g).1) (packetTo d (fourSamples g).1 (fourSamples g).2) := by
  rw [mapSamples_eq_fourSamples]
  exact atOnce_wr m d _ _
theorem apply_slot_flags (m : Thread) (d : Slot) (v : W32) (fl : Fl) :
    m.apply (.slot d v fl) = orFlags fl (m.apply (.slot d v)) := by
  simp [Thread.apply, Eff.slot, Thread.raise, orFlags]
theorem atOnce_slot (m : Thread) (d : Slot) (v : W32) (fl : Fl) : AtOnce m (.slot d v fl) (fl, toSlot d v) :=
  ⟨rfl, rfl, rfl, rfl, by rw [apply_slot_flags, apply_slot]⟩
theorem atOnce_fp (m : Thread) (d : Slot) (r : Fl × Nat) : AtOnce m (.fp d r) (scalar d r) :=
  atOnce_slot m d _ _
theorem apply_pair_flags (m : Thread) (d : Slot) (v : W64) (fl : Fl) :
    m.apply { Eff.pair d v with fl := fl } = orFlags fl (m.apply (.pair d v)) := by
  simp [Thread.apply, Eff.pair, Thread.raise, orFlags]
theorem pair_append (d : Slot) (lo hi : W32) : Eff.pair d (hi ++ lo) = { g := putWords d [lo, hi] } := by
  have hlo : lo32 (hi ++ lo) = lo := BitVec.extractLsb'_append_eq_right
  have hhi : hi32 (hi ++ lo) = hi := BitVec.extractLsb'_append_eq_left
  rw [Eff.pair, hlo, hhi]
theorem atOnce_pair (m : Thread) (d : Slot) (v : W64) (fl : Fl) :
    AtOnce m { Eff.pair d v with fl := fl } (fl, toPair d v) :=
  ⟨rfl, rfl, rfl, rfl, by rw [apply_pair_flags, apply_pair]⟩

/-- Four patterns of 16 bits written to a pair, their flags ORed (R110). -/
theorem atOnce_packFour (m : Thread) (d : Slot) (c : Nat → Fl × Nat) :
    let l := (List.range 4).map c
    let v := fun k => (l.getD k (0, 0)).2
    AtOnce m { g := putWords d [w32 (v 1 * 65536 + v 0), w32 (v 3 * 65536 + v 2)], fl := l.foldl (fun acc x => acc ||| x.1) 0 }
      ((c 0).1 ||| (c 1).1 ||| (c 2).1 ||| (c 3).1,
       toPair d (BitVec.ofNat 32 ((c 2).2 + (c 3).2 * 2 ^ 16) ++ BitVec.ofNat 32 ((c 0).2 + (c 1).2 * 2 ^ 16))) := by
  intro l v
  have hl : l = [c 0, c 1, c 2, c 3] := rfl
  have hfl : l.foldl (fun acc x => acc ||| x.1) 0 = (c 0).1 ||| (c 1).1 ||| (c 2).1 ||| (c 3).1 := by
    simp only [hl, List.foldl_cons, List.foldl_nil, BitVec.ofNat_eq_ofNat, BitVec.zero_or]
  have hlo : w32 (v 1 * 65536 + v 0) = BitVec.ofNat 32 ((c 0).2 + (c 1).2 * 2 ^ 16) := congrArg _ (Nat.add_comm _ _)
  have hhi : w32 (v 3 * 65536 + v 2) = BitVec.ofNat 32 ((c 2).2 + (c 3).2 * 2 ^ 16) := congrArg _ (Nat.add_comm _ _)
  rw [hfl, hlo, hhi]
  have h := atOnce_pair m d (BitVec.ofNat 32 ((c 2).2 + (c 3).2 * 2 ^ 16) ++ BitVec.ofNat 32 ((c 0).2 + (c 1).2 * 2 ^ 16))
    ((c 0).1 ||| (c 1).1 ||| (c 2).1 ||| (c 3).1)
  rwa [pair_append] at h

/-! From effects to the statements -/

/-- A computation whose effect on every member is a form's has the form's effect. -/
theorem doesFp_of_atOnce {x : Instr} {p : FpForm} (f : Thread → Reads → Eff) (hx : ∀ s, exec x s = s.computeC p.fields f)
    (hf : ∀ m r, AtOnce m (f m r) (p.res m r)) : DoesFp x p := by
  intro _ s i hready hquiet
  rw [hx]
  refine acts_compute s i .compute p.fields f _ hready fun m hm => ?_
  obtain ⟨hlate, hnext, hown, hflags, hnew⟩ := hf m (s.readFields m p.fields)
  refine ⟨hlate, hnext, fun u => by rw [hown]; rfl, ?_, hnew⟩
  rw [hflags, fpTrap_eq_none_iff]
  exact hquiet m hm

/-- The effect of handing flags and spectral registers to the packet unit (R112). -/
def toUnit (q : Fl × List (Nat × W128)) : Eff := { w := q.2, fl := q.1, late := some .packet }
/-- A computation that hands every member's result to the packet unit completes as R112 says. -/
theorem handsPacket_of_toUnit {x : Instr} {fs : List Fld} {res : Thread → Reads → Fl × List (Nat × W128)}
    (hx : ∀ s, exec x s = s.computeC fs fun m r => toUnit (res m r)) : HandsPacket x fs res := by
  intro _ s i hready hquiet
  have hrun := s.memberwise_eq .compute fs false (fun _ m r => .ok (toUnit (res m r))) i
    (fun m => toUnit (res m (s.readFields m fs))) hready.issuing hready.operands hready.pops hready.queues hready.scoreboard
    (fun _ _ => rfl) fun m hm => (fpTrap_eq_none_iff m _).2 (hquiet m hm)
  exact ⟨_, (hx s).trans hrun, hands_finish s i fs .packet _ hready.issuing (fun _ _ => ⟨rfl, rfl⟩) fun _ _ _ => rfl⟩

/-! What the unit computes -/

/-- A packet with sample k replaced (R109). -/
theorem packetOf_set_samples (v : W128) (x : W32) (k : BitVec 2) :
    let w := fun j => if j = k.toNat then x else sampleOf v j
    packetOf ((samples v).set k.toNat x) = w 3 ++ w 2 ++ w 1 ++ w 0 := by
  have hk : k = 0 ∨ k = 1 ∨ k = 2 ∨ k = 3 := by revert k; decide
  rcases hk with rfl | rfl | rfl | rfl <;> rfl
/-- The Mueller product, row by row (R111). -/
theorem quad_mueller (m : Thread) (d : Slot) (entry : Nat → Nat → Nat → FV) (a : List W128) :
    Eff.quad d (mueller m.dyn entry a) = toUnit (muellerRes d (muellerRow m entry a)) := by
  have hrow (i : Nat) : (mapSamples fun k => sumRound parF32 m.dyn
      ((List.range 4).map fun j => mulFV (entry i j k) (smp (a.getD j 0) k))) = muellerRow m entry a i :=
    mapSamples_eq_fourSamples _
  simp only [Eff.quad, mueller, hrow]
  simp [toUnit, muellerRes, List.range_succ]

/-! The instructions that share a shape -/

/-- FArith on every sample (R106). -/
theorem packetArith_doesFp {x : Instr} (op : FOp) (d a b : Slot) (hx : ∀ s, exec x s = s.packetArith op d a b) :
    DoesFp x (wp3 d a b fun m x y k => arith2 op parF32 m.dyn (numAt x k) (numAt y k)) :=
  doesFp_of_atOnce _ hx fun m _ => atOnce_mapSamples m d _
/-- The minimum or the maximum of every sample (R106). -/
theorem packetMinMax_doesFp {x : Instr} (isMax : Bool) (d a b : Slot) (hx : ∀ s, exec x s = s.packetMinMax isMax d a b) :
    DoesFp x (wp3 d a b fun _ x y k => fMinMax parF32 isMax (sampleOf x k).toNat (sampleOf y k).toNat) :=
  doesFp_of_atOnce _ hx fun m _ => atOnce_mapSamples m d _

/-! The statements' lists -/

theorem packetForms_doesFp (d a b : Slot) : ∀ p ∈ packetForms d a b, DoesFp p.1 p.2 := by
  simp only [packetForms, List.forall_mem_cons, List.not_mem_nil, false_implies, implies_true, and_true]
  refine ⟨?wadd, ?wsub, ?wmul, ?wfma, ?wmin, ?wmax, ?wmov, ?whsum, ?wdot, ?wsplat, ?wpack⟩
  case wadd => exact packetArith_doesFp .add d a b (exec_wadd d a b)
  case wsub => exact packetArith_doesFp .sub d a b (exec_wsub d a b)
  case wmul => exact packetArith_doesFp .mul d a b (exec_wmul d a b)
  case wfma => exact doesFp_of_atOnce _ (exec_wfma d a b) fun m _ => atOnce_mapSamples m d _
  case wmin => exact packetMinMax_doesFp false d a b (exec_wmin d a b)
  case wmax => exact packetMinMax_doesFp true d a b (exec_wmax d a b)
  case wmov => exact doesFp_of_atOnce _ (exec_wmov d a) fun m _ => atOnce_wr m d _ 0
  case whsum => exact doesFp_of_atOnce _ (exec_whsum d a) fun m _ => atOnce_fp m d _
  case wdot => exact doesFp_of_atOnce _ (exec_wdot d a b) fun m _ => atOnce_fp m d _
  case wsplat => exact doesFp_of_atOnce _ (exec_wsplat d a) fun m _ => atOnce_wr m d _ 0
  case wpack =>
    exact doesFp_of_atOnce _ (exec_wpack d a) fun m r =>
      atOnce_packFour m d fun k => convF parBF16 false m.dyn (numAt (r.pk 1) k)
theorem packetElem_doesFp (d a : Slot) (k : BitVec 2) : ∀ p ∈ packetElem d a k, DoesFp p.1 p.2 := by
  simp only [packetElem, List.forall_mem_cons, List.not_mem_nil, false_implies, implies_true, and_true]
  refine ⟨?wext, ?wins⟩
  case wext => exact doesFp_of_atOnce _ (exec_wext d a k) fun m _ => atOnce_slot m d _ 0
  case wins =>
    refine doesFp_of_atOnce _ (exec_wins d a k) fun m r => ?_
    rw [packetOf_set_samples]
    exact atOnce_wr m d _ 0

/-- WATT (R107). -/
theorem watt_handsPacket (d a b : Slot) : HandsPacket (.watt d a b) [.dw d, .w a, .w b] fun m r =>
    let q := fourSamples fun k => watt m.dyn (sampleOf (r.pk 1) k).toNat (sampleOf (r.pk 2) k).toNat
    (q.1, [(d.toNat, q.2)]) :=
  handsPacket_of_toUnit fun s => by
    simp only [exec_watt, execWatt, mapSamples_eq_fourSamples]
    rfl
theorem wmuellerG_handsPacket (d a b : Slot) : HandsPacket (.wmuellerG d a b) [.dw d 4, .w a 4, .gs b 16] fun m r =>
    muellerRes d (muellerRow m (fun i j _ => num parF32 ((r.l 2).getD (4 * i + j) 0)) (r.pks 1)) :=
  handsPacket_of_toUnit fun s => by
    simp only [exec_wmuellerG, execWmuellerG, quad_mueller]
    rfl
theorem wmuellerW_handsPacket (d a b : Slot) : HandsPacket (.wmuellerW d a b) [.dw d 4, .w a 4, .w b 16] fun m r =>
    muellerRes d (muellerRow m (fun i j k => numAt ((r.pks 2).getD (4 * i + j) 0) k) (r.pks 1)) :=
  handsPacket_of_toUnit fun s => by
    simp only [exec_wmuellerW, execWmuellerW, quad_mueller]
    rfl

end Sys2Proof.Claims.Packet

namespace Sys2Proof.Claims

/-- Settles O6: the effect of every packet form of one clock on a member is its result with its flags, and WATT and the two
forms of WMUELLER hand theirs to the packet unit. -/
theorem packets : Obligations.Packets := by
  unfold Obligations.Packets
  exact ⟨⟨Packet.packetForms_doesFp, Packet.packetElem_doesFp⟩, fun d a b =>
    ⟨Packet.watt_handsPacket d a b, Packet.wmuellerG_handsPacket d a b, Packet.wmuellerW_handsPacket d a b⟩⟩

end Sys2Proof.Claims
end
